-- ==== Sys2Proof/Word.lean ====
section
/-! DEFINITION. Words of the Nirsia: 32-bit words, bytes, and words with a validity bit (R87). -/

namespace Sys2Proof

/-- A 32-bit word. -/
abbrev Word := BitVec 32

/-- A byte of memory. -/
abbrev Byte := BitVec 8

/-- A register word: 32 bits of data and one validity bit (R87). -/
structure RWord where
  data : Word
  valid : Bool
deriving DecidableEq, Repr

/-- The word 0, invalid: what nullification writes (R90). -/
abbrev RWord.none : RWord := ⟨0, false⟩

/-- The word 0, valid: the start value of a scalar register (R14). -/
abbrev RWord.zero : RWord := ⟨0, true⟩

/-- An operand's value: up to 64 bits of data (a pair, R51), with one validity. -/
structure Val where
  bits : BitVec 64
  valid : Bool
deriving DecidableEq, Repr

/-- The value 0, invalid. -/
abbrev Val.none : Val := ⟨0, false⟩

/-- A table from numbers to values: entries in the order they were first set; an absent key reads as the
table's default. Every register file and every array of units is held this way. -/
abbrev Tab (α : Type) := List (Nat × α)

end Sys2Proof
end

