-- ==== Sys2Proof/Config.lean ====
section
/-! DEFINITION. What the implementation fixes (R2) and the free values: values the manual leaves open. No free
value has a body, so nothing can be proved of it. -/

namespace Sys2Proof.Config

/-- Clusters in the device (R2, NCLUSTER). -/
def nCluster : Nat := 16
/-- Cores per cluster (R2, NCORE). -/
def nCore : Nat := 64
/-- Vector registers per core (R2, NVREG). -/
def nVReg : Nat := 2048
/-- Weight-buffer bytes per core (NWBUF). -/
def nWBuf : Nat := 262144
/-- Activation-buffer bytes per core (NABUF). -/
def nABuf : Nat := 131072
/-- Accumulator-buffer bytes per core (NCBUF). -/
def nCBuf : Nat := 131072
/-- Partitions (R2). -/
def nPart : Nat := 8
/-- Hardware queue slots (R256). -/
def nSlot : Nat := 64
/-- Transform-engine contexts (R303). -/
def nEngCtx : Nat := 1024
/-- Bytes of one memory channel, 6 GiB (R175). -/
def channelBytes : Nat := 6 * 1073741824
/-- Grids that a cluster's grid buffer holds (R318). -/
def nGrid : Nat := 512
/-- Lines of one L2 slice of 1.5 MiB (R2, R161). -/
def l2Lines : Nat := 12288
/-- Ways of an L1 set (R169). -/
def l1Ways : Nat := 8
/-- Superblocks of 512 bytes that a traversal unit's node cache of 256 KiB holds (R2, R332). -/
def nodeLines : Nat := 512
/-- Notify writes that the Lantern latches for a partition (R420). -/
def notifyRoom : Nat := 256
/-- Accesses that one MTU parks (R346). -/
def parkRoom : Nat := 1024
/-- Bytes of the regroup weight cache (R270). -/
def weightCacheBytes : Nat := 2097152
/-- Bytes of the weight cache that may be pinned (R280). -/
def pinBytes : Nat := 1048576

/-- FREE VALUE. The number of 32-byte sectors (less 1) that the compressor gives a superblock: the coding belongs
to the implementation (R173). -/
opaque sectors : Nat → BitVec 4
/-- FREE VALUE. Whether a signature verifies (SLH-DSA, R425 to R427): the manual names the scheme and gives no keys. -/
opaque signatureOk : Nat → List Byte → Bool
/-- FREE VALUE. The signature bytes of an attestation report (R427). -/
opaque signature : List Byte → List Byte
/-- The units that a host error record or a fault record can name (R345, R419): a memory channel, an SRAM or DRAM unit that
counts its corrected errors, an L2 slice, the L1 or the typed buffers of a core, a cluster's weight cache or sampling unit, the way to another node, the lock-step pair, the
watchdog. -/
inductive HwUnit where
  | channel (c : Nat)
  | counted (n : Nat)
  | l2Slice (k : Nat)
  | l1 (core : Nat)
  | buffers (core : Nat)
  | gridBuffer (cl : Nat)
  | weightCache (cl : Nat)
  | sampler (cl : Nat)
  | link (node : Nat)
  | lockStep
  | watchdog
deriving DecidableEq, Repr

/-- FREE VALUE. The number by which a record names a unit, whose numbering the manual does not give (R419). -/
opaque unitCode : HwUnit → BitVec 16
/-- FREE VALUE. The detail words of the boot-failure record, whose contents the manual does not give (R427). -/
opaque bootDetail : Nat → BitVec 64
/-- FREE VALUE. The instruction word that a trap logs where no word could be fetched (R62, R396). -/
opaque freeWord : Nat → BitVec 96
/-- FREE VALUE. Bytes of records and reports the manual gives a name but no value. -/
opaque openByte : Nat → Byte
/-- FREE VALUE. The status that WPIN writes when its fill met an uncorrectable error (R280, R287). -/
opaque pinStatus : Nat → BitVec 32
/-- FREE VALUE. Whether an access that a partition reset meets performs or is discarded (R422). -/
opaque resetPerforms : Nat → Bool
/-- FREE VALUE. The address that a record of a corrected error carries (R419). -/
opaque errorAddress : Nat → BitVec 64
/-- FREE VALUE. Which remote data a remote read returns when no reply has been given (R424). -/
opaque remoteByte : Nat → Byte

end Sys2Proof.Config
end

