-- ==== Sys2Proof/Syntax.lean ====
section
/-! DEFINITION. The instructions of the Yiluth architecture and the events of the Nirsia's units: one constructor
for each row of the manual's table of operations and events. -/

namespace Sys2Proof

/-- An operand field: its class and its index (R49). -/
inductive Operand where
  | v (n : BitVec 8)
  | s (n : BitVec 8)
  | x (c : BitVec 8)
  | i (k : BitVec 8)
deriving DecidableEq, Repr

/-- The guard fields GE, GN and GREG (R56). -/
structure Guard where
  en : Bool
  neg : Bool
  reg : BitVec 8
deriving DecidableEq, Repr

/-- The fields every word carries: guard, LOOK and the reuse hints (R48). -/
structure Hdr where
  guard : Guard
  look : BitVec 4
  ra : Bool
  rb : Bool
deriving DecidableEq, Repr

/-- TYPE codes (R54), in code order. -/
inductive ElemType where
  | b32 | i8 | n8 | i16 | n16 | i32 | n32 | i64 | n64 | f16 | bf16 | f32 | e4m3 | e5m2 | e2m1 | t8 | t6 | e8m0 | b64
deriving DecidableEq, Repr

/-- Rounding modes (R55), in code order. -/
inductive Rnd where
  | rne | rz | rup | rdn | rst
deriving DecidableEq, Repr

/-- Scopes (R60), in code order. -/
inductive Scope where
  | wave | group | gang | cluster | device | system
deriving DecidableEq, Repr

/-- Cache hints (R186), in code order. -/
inductive Cache where
  | dflt | ro | stream | nofill | keep
deriving DecidableEq, Repr

/-- The order field of the atomics (R187), in code order. -/
inductive MOrder where
  | relaxed | acquire | release | acqrel
deriving DecidableEq, Repr

/-- Typed buffers (R164), in code order. -/
inductive Buf where
  | wb | ab | cb
deriving DecidableEq, Repr

/-- Operations of ATOM and RED (R197), in code order. -/
inductive AtomOpc where
  | add | min | max | and | or | xor | exch
deriving DecidableEq, Repr

/-- Relations of CMP and FCMP (R115), in code order. -/
inductive Rel where
  | eq | ne | lt | le | gt | ge | un | ord
deriving DecidableEq, Repr

/-- Branch conditions of BRV (R134). -/
inductive BrvWhen where
  | any | all | none
deriving DecidableEq, Repr

/-- Modes of SHFL (R131). -/
inductive ShflMode where
  | idx | up | down | xor
deriving DecidableEq, Repr

/-- Kinds of VOTE (R131). -/
inductive VoteKind where
  | any | all | uni
deriving DecidableEq, Repr

/-- Operations of REDUX, SCAN and HRED (R132), in code order. -/
inductive RedOp where
  | add | min | max | and | or | xor | fadd | fmin | fmax
deriving DecidableEq, Repr

/-- Kinds of FENCE (R209). -/
inductive FenceKind where
  | acq | rel | acqrel
deriving DecidableEq, Repr

/-- Paths of DRAIN (R211). -/
inductive DrainPath where
  | wb | ab | cb | global
deriving DecidableEq, Repr

/-- What REGQRY reads (R102). -/
inductive QryWhat where
  | own | free | claims
deriving DecidableEq, Repr

/-- The Typed layout: D, A, B, TYPE and RND (R60, R106). An unused B is `.v 0`; RND is rne where unused. -/
structure LaneOp where
  h : Hdr
  d : Operand
  a : Operand
  b : Operand
  ty : ElemType
  rnd : Rnd
deriving DecidableEq, Repr

/-- The Memory layout (R183, R184). -/
structure MemOp where
  h : Hdr
  a64 : Bool
  d : Operand
  a : Operand
  b : Operand
  ty : ElemType
  cache : Cache
  disp : BitVec 28
deriving DecidableEq, Repr

/-- The Atomic layout (R183). -/
structure AtomOp where
  h : Hdr
  a64 : Bool
  d : Operand
  a : Operand
  b : Operand
  ty : ElemType
  scope : Scope
  order : MOrder
  disp : BitVec 26
deriving DecidableEq, Repr

/-- The fields of COPY (R296). `d` and `a` are scalar registers. -/
structure CopyOp where
  h : Hdr
  d : BitVec 8
  a : BitVec 8
  b : Operand
  sk : BitVec 2
  dk : BitVec 2
  pbuf : Bool
  pgrp : BitVec 6
  pab : BitVec 4
  trn : Bool
  tw : BitVec 2
  kgm1 : BitVec 12
  gen : Bool
  gpol : Bool
  gsl : BitVec 4
deriving DecidableEq, Repr

/-- The sub-fields every matrix instruction carries in EXT (R220). -/
structure MatOp where
  h : Hdr
  fb : BitVec 7
  wait : BitVec 16
  setEn : Bool
  set : BitVec 4
deriving DecidableEq, Repr

/-- A wave named by its gang, its group in the gang and its index in the group. -/
structure WaveId where
  gang : Nat
  group : Nat
  wave : Nat
deriving DecidableEq, Repr

/-- What a host access does (R414): read so many bytes or write these bytes through BAR2; the same of a register window
through BAR0; read or write the doorbells through BAR4. Its offset is that in the BAR, in BAR2 within the part of the partition named. -/
inductive HostAccess where
  | read (len : Nat)
  | write (bytes : List Byte)
  | winRead (len : Nat)
  | winWrite (bytes : List Byte)
  | bellRead (len : Nat)
  | bellWrite (bytes : List Byte)
deriving DecidableEq, Repr

/-- What an access from the fabric does: read, write, or an atomic (R424). -/
inductive FabAccess where
  | read (len : Nat)
  | write (bytes : List Byte)
  | atomic (op : AtomOpc) (ty : ElemType) (x : BitVec 64)
  | cas (ty : ElemType) (cmp new : BitVec 64)
deriving DecidableEq, Repr

/-- Registers of a partition's window (R415). -/
inductive PartReg where
  | plctl | pslice | ptroot | frbase | frk | frr | sdia | qtbase | ctbase | imgbase | imgpg | pctl | ltol | dbbase
  | hwbase | tagbase | evbase | evk | evr | crgn (i : Nat) | pstate | frw | evw | scyc | pmeas (i : Nat) | pgack | sdctl | rply
  | qrfr | ctk | ctack
deriving DecidableEq, Repr

/-- Registers of a queue slot (R256). -/
inductive SlotReg where
  | qsctl | qsper | qsbud | qsyld | qsrem | qsdl | qsst
deriving DecidableEq, Repr

/-- Registers of an engine context (R303). -/
inductive EngReg where
  | ecctl | ecbase | ecwidx | ecridx | ecnum | ectl
deriving DecidableEq, Repr

/-- Registers of the device window (R417, R344, R397), and what firmware sets without one: the node ID, the routes, the
registered neighbours (R424, R425) and the kick of the watchdog (R426). -/
inductive DevReg where
  | ctxbase | tvbase | herbase | herk | herr | fwctl | nodeId | route (node : Nat) | neighbour (n : Nat) | pmap | pmapErr | herw
  | bootrec (i : Nat) | kick
deriving DecidableEq, Repr

/-- The target of a host or firmware write: a register, an import window (R424), or device memory, which firmware
writes at physical addresses (R339, R350). -/
inductive FwTarget where
  | part (p : Nat) (r : PartReg)
  | slot (n : Nat) (r : SlotReg)
  | eng (e : Nat) (r : EngReg)
  | dev (r : DevReg)
  | window (p i : Nat) (srcNode base len : Nat) (ro : Bool)
  | memory (pa : Nat) (bytes : List Byte)
deriving DecidableEq, Repr

/-- A write latched by the Lantern while a partition is not in Noon (R420): `doorbell` is the doorbell that an agent's write of its
word has rung, and `bell` a host write of that word through BAR4. `win` is a host write of bytes of a partition's window, from an
offset of BAR0 on, `mem` a host write through BAR2 that waits among them for Noon (R414, R423), and `fab` a write of another node to
the doorbell aperture, at an IA. -/
inductive Notify where
  | doorbell (q : Nat) (widx : BitVec 32)
  | bell (q : Nat) (widx : BitVec 32)
  | widx (e : Nat) (val : BitVec 32)
  | reg (t : FwTarget) (val : BitVec 64)
  | win (off : Nat) (bs : List Byte)
  | mem (off : Nat) (bs : List Byte)
  | fab (ia : Nat) (bs : List Byte)
deriving DecidableEq, Repr

/-- One row of the table of operations and events each. -/
inductive Instr where
  -- control flow (R134)
  | nop (h : Hdr)
  | bra (h : Hdr) (off : BitVec 28)
  | braCond (h : Hdr) (c : Operand) (off : BitVec 28) (nz : Bool)
  | brv (h : Hdr) (a : BitVec 8) (off : BitVec 28) (w : BrvWhen)
  | bru (h : Hdr) (a : BitVec 8) (off : BitVec 28) (inv : Bool)
  | bruReg (h : Hdr) (a : BitVec 8)
  | call (h : Hdr) (d : BitVec 8) (off : BitVec 28)
  | ret (h : Hdr) (a : BitVec 8)
  | jmpi (h : Hdr) (a : BitVec 8) (b : Operand)
  | vmask (h : Hdr) (d : Operand) (a : BitVec 8) (inv : Bool)
  | bar (h : Hdr) (sc : Scope)
  | yield (h : Hdr)
  | halt (h : Hdr)
  -- integer (R110 to R114)
  | add (o : LaneOp)
  | sub (o : LaneOp)
  | mul (o : LaneOp)
  | mulhi (o : LaneOp)
  | mad (o : LaneOp)
  | div (o : LaneOp)
  | rem (o : LaneOp)
  | min (o : LaneOp)
  | max (o : LaneOp)
  | abs (o : LaneOp)
  | neg (o : LaneOp)
  | addsat (o : LaneOp) (sub : Bool)
  | and (o : LaneOp)
  | or (o : LaneOp)
  | xor (o : LaneOp)
  | andn (o : LaneOp)
  | not (o : LaneOp)
  | shl (o : LaneOp)
  | shr (o : LaneOp)
  | sar (o : LaneOp)
  | rot (o : LaneOp) (right : Bool)
  | bfe (o : LaneOp) (sign : Bool)
  | bfi (o : LaneOp)
  | popc (o : LaneOp)
  | clz (o : LaneOp)
  | ctz (o : LaneOp)
  | brev (o : LaneOp)
  | pfxpop (o : LaneOp)
  | isect (o : LaneOp)
  | bclr (o : LaneOp) (low : Bool)
  | dot4 (o : LaneOp) (mix : Bool)
  -- compare, validity, move (R115 to R117)
  | cmp (o : LaneOp) (r : Rel)
  | sel (o : LaneOp) (c : Operand)
  | setv (o : LaneOp)
  | mkv (o : LaneOp)
  | inv (o : LaneOp)
  | isv (o : LaneOp)
  | mov (o : LaneOp)
  | movi (h : Hdr) (d : Operand) (ty : ElemType) (imm : BitVec 28)
  | movh (h : Hdr) (d : Operand) (imm : BitVec 28)
  -- floating point (R118 to R122)
  | fadd (o : LaneOp)
  | fsub (o : LaneOp)
  | fmul (o : LaneOp)
  | ffma (o : LaneOp)
  | fmin (o : LaneOp)
  | fmax (o : LaneOp)
  | fabs (o : LaneOp)
  | fneg (o : LaneOp)
  | fdiv (o : LaneOp)
  | fsqrt (o : LaneOp)
  | frcp (o : LaneOp)
  | frsq (o : LaneOp)
  | fexp2 (o : LaneOp)
  | flog2 (o : LaneOp)
  | fsin (o : LaneOp)
  | fcos (o : LaneOp)
  | fcmp (o : LaneOp) (r : Rel)
  | fclass (o : LaneOp)
  | fdp4 (o : LaneOp)
  | ftanh (o : LaneOp)
  | frnd (o : LaneOp)
  -- conversion (R123 to R128)
  | cvt (o : LaneOp) (fr : ElemType)
  | pack (o : LaneOp) (fr : ElemType) (slot : BitVec 3)
  | unpack (o : LaneOp) (fr : ElemType) (idx : BitVec 3)
  | blkpk (o : LaneOp) (fr : ElemType) (len : BitVec 2) (scale : Operand)
  | blkup (o : LaneOp) (fr : ElemType)
  -- cross-lane (R129 to R133)
  | shfl (o : LaneOp) (m : ShflMode) (mask : Operand)
  | ballot (o : LaneOp) (mask : Operand)
  | vote (o : LaneOp) (k : VoteKind) (mask : Operand)
  | redux (o : LaneOp) (op : RedOp) (mask : Operand)
  | scan (o : LaneOp) (op : RedOp) (excl : Bool) (mask : Operand)
  | v2s (o : LaneOp)
  | matchLanes (o : LaneOp) (mask : Operand)
  | firstl (o : LaneOp) (mask : Operand)
  -- memory (R183)
  | ld (m : MemOp)
  | st (m : MemOp)
  | lds (m : MemOp)
  | sts (m : MemOp)
  | ldtb (m : MemOp) (buf : Buf)
  | sttb (m : MemOp) (buf : Buf)
  | ldc (m : MemOp) (buf : Buf)
  | stc (m : MemOp) (buf : Buf)
  | atom (m : AtomOp) (op : AtomOpc)
  | cas (m : AtomOp)
  | red (m : AtomOp) (op : AtomOpc)
  | fence (h : Hdr) (k : FenceKind) (sc : Scope)
  | pref (m : MemOp)
  | pgreq (h : Hdr) (tok : BitVec 4) (a64 : Bool) (a b : Operand) (disp : BitVec 28)
  | drain (h : Hdr) (p : DrainPath)
  -- engines (R293, R296, R304, R307)
  | copy (c : CopyOp)
  | copyIndexed (c : CopyOp)
  | copyChecksum (c : CopyOp)
  | gset (h : Hdr) (n : BitVec 4) (c : Operand)
  | gclr (h : Hdr) (n : BitVec 4)
  | gclrFree (h : Hdr) (n : BitVec 4)
  | xkick (h : Hdr) (e v : Operand)
  | tlwait (h : Hdr) (e v : Operand)
  | tlwaitToken (h : Hdr) (e v : Operand) (tok : BitVec 4)
  | tlread (h : Hdr) (d : BitVec 8) (e : Operand)
  -- matrix (R220, R239)
  | mma (m : MatOp) (c a b : BitVec 8)
  | mmas (m : MatOp) (c a b : BitVec 8) (nsp : BitVec 2)
  | mmae (m : MatOp) (c a b : BitVec 8)
  | mmaeSparse (m : MatOp) (c a b : BitVec 8) (nsp : BitVec 2)
  | mzero (m : MatOp) (c : BitVec 8) (mtClr : Bool) (mtk : BitVec 2)
  | mcvt (m : MatOp) (d c : BitVec 8) (rnd : Rnd)
  | mmerge (m : MatOp) (c p t : BitVec 8)
  | dectab (m : MatOp) (a : BitVec 8) (slot : BitVec 2)
  | mwait (h : Hdr) (d : BitVec 8) (wait : BitVec 16)
  -- neural, ray and render (R271, R279, R319, R320, R330, R334)
  | ncall (h : Hdr) (tok : BitVec 4) (d a : BitVec 8) (hnd : Operand) (nin1 : BitVec 5) (nout1 : BitVec 4)
  | wpin (h : Hdr) (d : BitVec 8) (hnd : Operand)
  | wunpin (h : Hdr) (hnd : Operand)
  | wpref (h : Hdr) (hnd : Operand)
  | wprefDrop (h : Hdr) (hnd : Operand)
  | trace (h : Hdr) (tok : BitVec 4) (d a : BitVec 8) (b : BitVec 8)
  | traceNext (h : Hdr) (tok : BitVec 4) (d a : BitVec 8)
  | trend (h : Hdr) (d : BitVec 8)
  | gemit (h : Hdr) (a : BitVec 8)
  | gdone (h : Hdr)
  -- barriers, tickets, tree (R383, R388, R369)
  | abinit (h : Hdr) (n : BitVec 4) (bytes arr : Operand)
  | abinitReset (h : Hdr) (n : BitVec 4)
  | abinitFree (h : Hdr) (n : BitVec 4)
  | abarr (h : Hdr) (n : BitVec 4) (g cnt : Operand)
  | abwait (h : Hdr) (n : BitVec 4) (d : BitVec 8) (p : Operand)
  | tkwait (h : Hdr) (d a : BitVec 8) (v : Operand) (sc : Scope)
  | tkadv (h : Hdr) (d a : BitVec 8) (n : Operand) (sc : Scope)
  | ctnew (h : Hdr) (d : BitVec 8) (parent : Operand)
  | ctenr (h : Hdr) (d n b : BitVec 8)
  | ctread (h : Hdr) (d n : BitVec 8)
  | ctsettle (h : Hdr) (n : BitVec 8)
  | ctrepar (h : Hdr) (d n : BitVec 8) (parent : Operand)
  | ctleave (h : Hdr) (d n b : BitVec 8)
  | ctfree (h : Hdr) (d n : BitVec 8)
  -- pool, tokens, helpers (R97, R289, R149)
  | regrel (h : Hdr) (n : BitVec 9)
  | regrelS (h : Hdr) (a : BitVec 8)
  | regclm (h : Hdr) (n : BitVec 9)
  | regclmS (h : Hdr) (a : BitVec 8)
  | regqry (h : Hdr) (d : BitVec 8) (w : QryWhat)
  | waitq (h : Hdr) (d : BitVec 8) (tok : BitVec 4)
  | pollq (h : Hdr) (d : BitVec 8) (tok : BitVec 4)
  | recruit (h : Hdr) (d : BitVec 8) (want : Operand) (any : Bool)
  | hget (h : Hdr) (d a : Operand)
  | hred (h : Hdr) (r : BitVec 8) (a : Operand) (op : RedOp) (ty : ElemType) (rnd : Rnd)
  | hjoin (h : Hdr) (d : BitVec 8)
  | hexit (h : Hdr)
  | hrel (h : Hdr)
  -- traps (R402)
  | trap (h : Hdr) (code : BitVec 8)
  | tret (h : Hdr)
  | tretSkip (h : Hdr)
  | rqrd (h : Hdr) (d : Operand) (e : Operand) (field : BitVec 8)
  | rqwr (h : Hdr) (e : Operand) (x : Operand) (field : BitVec 8)
  | rqdel (h : Hdr) (e : Operand)
  | cxrd (h : Hdr) (d : BitVec 8) (item : BitVec 8)
  | cxwr (h : Hdr) (x : Operand) (item : BitVec 8)
  -- events of the memory system
  | loadDataReturn (w : WaveId) (n : Nat) (remote : List Byte)
  | storePerform (n : Nat)
  | updateLineSend (core line : Nat)
  | parkAccess (p : Nat)
  | faultRecordPost (p : Nat)
  | pgack (p : Nat) (rseq : BitVec 32)
  | rply (p : Nat)
  | shootDown (p : Nat) (npg : Nat)
  | shootDownComplete (p : Nat)
  | qrfr (p q : Nat)
  | ctack (p : Nat) (val : BitVec 64)
  | ctkWrite (p : Nat) (k : Nat)
  | rollUpStep (p node : Nat)
  -- events of the queues and the scheduler
  | doorbellWrite (q : Nat) (widx : BitVec 32)
  | queueNop (q : Nat)
  | graph (q : Nat)
  | draw (q : Nat)
  | tlsig (q : Nat)
  | tlwaitc (q : Nat)
  | kernelBoundary (q node : Nat)
  | gangPlacement (p : Nat)
  | eviction (gang : Nat)
  | waveRetire (w : WaveId)
  | barReevaluate (gang group : Nat)
  | grantPass (core : Nat)
  | tempUpdate (core : Nat) (sample : BitVec 8)
  | droopSet (core : Nat)
  | droopClear (core : Nat)
  | admission (slot : Nat) (val : BitVec 32)
  | slotRelease (slot : Nat)
  | headCycle (p : Nat)
  | yieldRequest (slot : Nat)
  | overrunCheck (slot : Nat)
  | sliceExpiry (slot : Nat)
  | bestEffortMapping (slot : Nat)
  | queueLeavesSlot (slot : Nat)
  -- events of the regroup unit, the engines and the arrays
  | ncallIntake (cl : Nat)
  | weightFill (cl : Nat)
  | binAgeFlush (cl : Nat)
  | tileComplete (cl : Nat)
  | copyExecute (gang group : Nat)
  | widxWrite (e : Nat) (val : BitVec 32)
  | engineCopy (e : Nat)
  | convert (e : Nat)
  | checksumCopy (e : Nat)
  | cairnLoad (e : Nat)
  | dedupCopy (e : Nat)
  | requestComplete (e : Nat)
  | matrixComplete (gang n : Nat)
  | mmergeApply (gang group n : Nat)
  -- events of the rendering and traversal units
  | diceRegion (cl : Nat)
  | gridLaunch (cl : Nat)
  | gridResolve (cl : Nat)
  | traceResult (w : WaveId) (n : Nat)
  -- events of the system
  | notifyWrite (p : Nat) (w : Notify)
  | wakeToNoon (p : Nat)
  | powerStateEntry (p : Nat)
  | partitionReset (p : Nat)
  | coreReset (core : Nat)
  | pmapWrite (val : BitVec 32)
  | hostBar2Access (p : Nat) (off : Nat) (acc : HostAccess)
  | remoteAccessTimeout (n : Nat)
  | beaconMissed (nb : Nat)
  | resetMessage (node sender : Nat) (lastBeacon nonce : Nat) (sig : List Byte)
  | correctedErrorReport (unit : Nat) (dram : Bool)
  | boot (image sig : List Byte) (failStage : Nat)
  | cairnInstall (off : Nat) (bytes manifest sig : List Byte)
  | firmwareRegisterWrite (t : FwTarget) (val : BitVec 64)
  | copyComplete (gang group : Nat)
  | incomingRemoteAccess (p : Nat) (node ia : Nat) (acc : FabAccess)
  | beaconReceived (nb n : Nat)
  | contextTeardown (ctx : Nat)
  | clusterReset (cl : Nat)
  | eventRecordPost (p : Nat)
  | l2WriteBack (p line : Nat)
  | pmeasExtend (p : Nat) (digest : List Byte)
  | attestationReport (p : Nat) (nonce : List Byte)
  -- events of the system without operands
  | deviceReset
  | beaconSend
  | lockstepMismatch
  | watchdogExpiry
  | fwctlRestart
  | hostErrorRecordPost
  | firmwareReady
deriving DecidableEq, Repr

end Sys2Proof
end

