-- ==== Sys2Proof/Machine/Legal.lean ====
section
/-! DEFINITION. Which instructions are legal (R48 to R69 and the entries), and which registers each one names. -/

namespace Sys2Proof.Machine

/-- What an immediate operand is read as (R50): an integer or one of f32, f16, bf16; the formats of the sub-byte and
byte float types admit none. -/
def immOk (t : ElemType) : Bool :=
  match t with
  | .e4m3 | .e5m2 | .e2m1 | .t8 | .t6 | .e8m0 => false
  | _ => true

/-- The 64-bit types (R54). -/
def wide64 (t : ElemType) : Bool :=
  match t with
  | .i64 | .n64 | .b64 => true
  | _ => false

/-- Words of a TYPE's operand (R51). -/
def typeWords (t : ElemType) : Nat := if wide64 t then 2 else 1

/-- Listed special operand codes (R52). -/
def specialListed (c : BitVec 8) : Bool :=
  let n := c.toNat
  n ≤ 0x0D || (0x10 ≤ n && n ≤ 0x13) || (0x18 ≤ n && n ≤ 0x1C) || n == 0x20 || n == 0x21
    || (0x30 ≤ n && n ≤ 0x35) || (0x40 ≤ n && n ≤ 0x49) || (0x4C ≤ n && n ≤ 0x4F)

/-- Writable special operands: EXEC, SEED, CXM and the scratch words of a handler (R52). -/
def specialWritable (c : BitVec 8) : Bool :=
  let n := c.toNat
  n == 0x00 || n == 0x18 || n == 0x19 || (0x4C ≤ n && n ≤ 0x4F)

/-- Special operands that can be named in handler mode only (R52). -/
def specialHandler (c : BitVec 8) : Bool := 0x40 ≤ c.toNat

/-- LANE, SEED and HELPER hold one value per lane (R52). -/
def specialPerLane (c : BitVec 8) : Bool := c == 0x01 || c == 0x18 || c == 0x1B

/-- The special operands that a belay stream may read outside handler mode (R215). -/
def specialBelay (c : BitVec 8) : Bool :=
  let n := c.toNat
  (5 ≤ n && n ≤ 7) || (0x0A ≤ n && n ≤ 0x0D) || n == 0x11 || n == 0x12 || n == 0x20 || n == 0x21
    || (0x30 ≤ n && n ≤ 0x35)

/-- An operand that makes its instruction lane-acting (R57). -/
def perLane (o : Operand) : Bool :=
  match o with
  | .v _ => true
  | .s _ => false
  | .x c => specialPerLane c
  | .i _ => false

def isV (o : Operand) : Bool := match o with | .v _ => true | _ => false
def isS (o : Operand) : Bool := match o with | .s _ => true | _ => false
def isI (o : Operand) : Bool := match o with | .i _ => true | _ => false

/-- A register index that can name `k` words (R49, R51). -/
def evenFor (k : Nat) (n : BitVec 8) : Bool := k != 2 || n.toNat % 2 == 0

/-- A source operand of `k` words; `imm` tells whether an immediate may stand there (R49 to R52). -/
def srcOk (k : Nat) (imm : Bool) (o : Operand) : Bool :=
  match o with
  | .v n => evenFor k n
  | .s n => decide (n.toNat < 128) && evenFor k n
  | .x c => specialListed c
  | .i _ => imm

/-- A destination operand of `k` words (R49, R52). -/
def dstOk (k : Nat) (o : Operand) : Bool :=
  match o with
  | .v n => evenFor k n
  | .s n => decide (n.toNat < 128) && evenFor k n
  | .x c => specialWritable c
  | .i _ => false

/-- A scalar register index (R49). -/
def sOk (n : BitVec 8) : Bool := decide (n.toNat < 128)

/-- An even scalar register index that names a pair (R51). -/
def sPair (n : BitVec 8) : Bool := decide (n.toNat < 128) && n.toNat % 2 == 0

/-- A class-1 or class-3 operand. -/
def siOk (o : Operand) : Bool := match o with | .s n => sOk n | .i _ => true | _ => false

/-- An even class-1 pair or a class-3 operand. -/
def pairOrImm (o : Operand) : Bool := match o with | .s n => sPair n | .i _ => true | _ => false

/-- The header fields (R48, R56 to R59): `lane` where a guard is allowed, `ll` where LOOK is, `a` and `b` where the A and B
fields hold a class-0 operand, for which alone a reuse bit may be set. -/
def hdrOk (lane ll a b : Bool) (h : Hdr) : Bool :=
  (if h.guard.en then lane else !h.guard.neg && h.guard.reg == 0)
    && (ll || h.look == 0) && (!h.ra || a) && (!h.rb || b)

/-- The header of a wave-level or scalar instruction that uses neither LOOK nor a guard. -/
def plainOk (h : Hdr) (a b : Bool) : Bool := hdrOk false false a b h

/-- A header whose fields are all zero (R48, R220). -/
def zeroHdr (h : Hdr) : Bool := plainOk h false false

/-- What the entry of a Typed instruction says of it: the types it takes, whether B is used, whether it rounds,
whether it is long-latency, whether B is a count or single word, whether D is always one word, whether D is
consumed. -/
structure Shape where
  types : List ElemType
  hasB : Bool := true
  rounds : Bool := false
  ll : Bool := false
  bWord : Bool := false
  dWord : Bool := false
  dRead : Bool := false
deriving DecidableEq, Repr

def typesI : List ElemType := [.i32, .n32, .i64, .n64]
def typesB : List ElemType := [.b32, .b64]
def typesF : List ElemType := [.f32, .f16, .bf16]

/-- A uniform operand: the sources of a scalar form (R105). -/
def uniformOp (o : Operand) : Bool := !perLane o

/-- The form of R105, and the header that goes with it. `srcs` are the used sources, A first. -/
def formOk (o : LaneOp) (ll : Bool) (srcs : List Operand) : Bool :=
  let aV := isV o.a
  let bV := decide (1 < srcs.length) && isV o.b
  match o.d with
  | .v _ => hdrOk true ll aV bV o.h
  | .s _ => srcs.all uniformOp && o.rnd != .rst && hdrOk false ll aV bV o.h
  | .x c => if specialPerLane c then hdrOk true ll aV bV o.h
            else srcs.all uniformOp && o.rnd != .rst && hdrOk false ll aV bV o.h
  | .i _ => false

/-- Legality of a Typed instruction of the plain forms D, A or D, A, B (R105 to R107). -/
def laneOk (sh : Shape) (o : LaneOp) : Bool :=
  let k := typeWords o.ty
  sh.types.contains o.ty && dstOk (if sh.dWord then 1 else k) o.d && srcOk k (immOk o.ty) o.a
    && (if sh.hasB then srcOk (if sh.bWord then 1 else k) (sh.bWord || immOk o.ty) o.b else o.b == .v 0)
    && (sh.rounds || o.rnd == .rne)
    && formOk o sh.ll (if sh.hasB then [o.a, o.b] else [o.a])

/-- A member mask: class 1, a uniform class-2 code, or class 3 (R129). -/
def maskOk (m : Operand) : Bool := !isV m && srcOk 1 true m && uniformOp m

/-- Types of REDUX, SCAN and HRED by operation (R132). -/
def redTypes (op : RedOp) : List ElemType :=
  match op with
  | .add | .min | .max => typesI
  | .and | .or | .xor => typesB
  | .fadd | .fmin | .fmax => [.f32]

/-- RND with a reduction: only fadd rounds, and never stochastically (R132). -/
def redRnd (op : RedOp) (r : Rnd) : Bool := r == .rne || (op == .fadd && r != .rst)

/-- A cross-lane instruction with a lane-form destination: A class 0 (R130, R131). -/
def crossOk (sh : Shape) (o : LaneOp) (mask : Operand) : Bool :=
  laneOk sh o && isV o.a && perLane o.d && maskOk mask

/-- Element widths of PACK, UNPACK and the block instructions (R125, R126). -/
def packWidth (t : ElemType) : Nat :=
  match t with
  | .f16 | .bf16 | .i16 | .n16 => 16
  | .e2m1 => 4
  | _ => 8

def packTypes : List ElemType := [.f16, .bf16, .i16, .n16, .e4m3, .e5m2, .t8, .t6, .i8, .n8, .e2m1]
def blkTypes : List ElemType := [.e4m3, .e5m2, .e2m1, .t8, .t6, .i8, .n8]

/-- Types of a memory access (R185). -/
def memType (t : ElemType) : Bool := t != .e2m1

/-- The address parts a and b: class 0 or 1 (R184). -/
def addrA (a64 : Bool) (o : Operand) : Bool :=
  match o with
  | .v n => !a64 || n.toNat % 2 == 0
  | .s n => if a64 then sPair n else sOk n
  | _ => false

def addrB (o : Operand) : Bool := match o with | .v _ => true | .s n => sOk n | _ => false

/-- Store or reduction data: class 0, 1 or 3 (R183, R184). -/
def dataOk (t : ElemType) (o : Operand) : Bool :=
  match o with
  | .v n => evenFor (typeWords t) n
  | .s n => sOk n && evenFor (typeWords t) n
  | .x _ => false
  | .i _ => immOk t

/-- Cache hints a load admits (R186): all. The stores and PREF admit fewer. -/
def storeCache (c : Cache) : Bool := c == .dflt || c == .stream || c == .keep
def prefCache (c : Cache) : Bool := c == .dflt || c == .nofill || c == .keep

/-- Header of a memory instruction: a guard only where an operand names a vector register (R57). -/
def memHdr (ll : Bool) (d a b : Operand) (h : Hdr) : Bool :=
  hdrOk (perLane d || perLane a || perLane b) ll (isV a) (isV b) h

/-- Legality of the global memory instructions with a vector destination or data operand. -/
def loadOk (m : MemOp) : Bool :=
  isV m.d && dstOk (typeWords m.ty) m.d && memType m.ty && addrA m.a64 m.a && addrB m.b && memHdr true m.d m.a m.b m.h

def storeOk (m : MemOp) : Bool :=
  dataOk m.ty m.d && memType m.ty && addrA m.a64 m.a && addrB m.b && memHdr false m.d m.a m.b m.h

/-- The target group of LDC and STC: class 0, 1 or 3 (R184). -/
def grpOk (o : Operand) : Bool := match o with | .v _ => true | .s n => sOk n | .i _ => true | .x _ => false

/-- Pairings of operation and type of the atomics (R197). -/
def atomTypes (op : AtomOpc) : List ElemType :=
  match op with
  | .add | .min | .max => [.i32, .n32, .i64, .n64, .f32]
  | _ => typesB

/-- Layout register and format block limits of the matrix instructions (R220). -/
def layOk (n : BitVec 8) : Bool := decide (n.toNat ≤ 125)
def matOk (m : MatOp) : Bool := zeroHdr m.h && decide (m.fb.toNat ≤ 120)

/-- Reserved combinations of COPY (R296). `form` is FN. -/
def copyOk (form : Nat) (c : CopyOp) : Bool :=
  plainOk c.h false false && sOk c.d && sOk c.a && c.sk != 3
    && !(c.sk == 0 && c.dk == 0)
    && (form != 1 || c.sk == 0) && (form != 2 || (c.dk == 3 && !c.trn))
    && (!c.trn || (c.sk == 0 && (c.dk == 2 || (c.dk == 3 && c.pbuf)) && decide (c.d.toNat ≤ 125)))
    && (c.dk == 3 || (!c.pbuf && c.pgrp == 0 && c.pab == 0))
    && (c.trn || (c.tw == 0 && c.kgm1 == 0))
    && (c.gen || (!c.gpol && c.gsl == 0))
    && (c.sk != 0 || sPair c.a) && (c.dk != 0 || sPair c.d)
    && (if form == 2 then (match c.b with | .s n => n.toNat % 2 == 0 && decide (n.toNat ≤ 122) | _ => false)
        else siOk c.b)

/-- The legal instructions: what no reserved encoding of R64 stands in the way of. Two conditions depend on where
the word runs and are checked when it is reached: handler mode, and the stream it stands in. Events have no word;
their units must exist. DESIGN CHOICE: BLKPK with a class 1 D is reserved, also with a uniform A, since R127 speaks of acting lanes
only. -/
def legal (x : Instr) : Bool :=
  match x with
  | .nop h | .yield h | .halt h => zeroHdr h
  | .bra h _ => zeroHdr h
  | .braCond h c _ _ => zeroHdr h && !isV c && srcOk 1 true c && uniformOp c
  | .brv h _ _ _ => plainOk h true false
  | .bru h _ _ _ => plainOk h true false
  | .bruReg h _ => plainOk h true false
  | .call h d _ => zeroHdr h && sOk d
  | .ret h a => zeroHdr h && sOk a
  | .jmpi h a b => zeroHdr h && sOk a && siOk b
  | .vmask h d _ _ => plainOk h true false && (match d with | .s n => sOk n | .x c => c == 0 | _ => false)
  | .bar h sc => zeroHdr h && sc != .wave
  | .add o | .sub o | .mul o | .mulhi o | .min o | .max o => laneOk { types := typesI } o
  | .mad o => laneOk { types := typesI, dRead := true } o
  | .div o | .rem o => laneOk { types := typesI, ll := true } o
  | .abs o => laneOk { types := [.i32, .i64], hasB := false } o
  | .neg o => laneOk { types := typesI, hasB := false } o
  | .addsat o _ => laneOk { types := [.i8, .n8, .i16, .n16, .i32, .n32] } o
  | .and o | .or o | .xor o | .andn o | .isect o => laneOk { types := typesB } o
  | .not o | .brev o => laneOk { types := typesB, hasB := false } o
  | .shl o | .shr o | .sar o => laneOk { types := typesB, bWord := true } o
  | .rot o _ | .bfe o _ => laneOk { types := typesB, bWord := true } o
  | .bfi o => laneOk { types := typesB, bWord := true, dRead := true } o
  | .popc o | .clz o | .ctz o => laneOk { types := typesB, hasB := false, dWord := true } o
  | .pfxpop o => laneOk { types := typesB, bWord := true, dWord := true } o
  | .bclr o low => laneOk { types := typesB, hasB := !low, bWord := true } o
  | .dot4 o _ => laneOk { types := [.i8, .n8], dRead := true } o
  | .cmp o r =>
    laneOk { types := if r == .eq || r == .ne then typesI ++ typesB else typesI, dWord := true } o
      && r != .un && r != .ord
  | .sel o c => laneOk { types := typesB } o && (isV c || isS c) && srcOk 1 false c
      && (perLane o.d || uniformOp c)
  | .setv o | .inv o | .isv o | .mov o => laneOk { types := typesB, hasB := false } o
  | .mkv o => laneOk { types := typesB } o
  | .movi h d ty _ =>
    typesB.contains ty && dstOk (typeWords ty) d && hdrOk (perLane d) false false false h
  | .movh h d imm => dstOk 1 d && hdrOk (perLane d) false false false h && decide (imm.toNat < 65536)
  | .fadd o | .fsub o | .fmul o => laneOk { types := typesF, rounds := true } o
  | .ffma o => laneOk { types := typesF, rounds := true, dRead := true } o
  | .fmin o | .fmax o => laneOk { types := typesF } o
  | .fabs o | .fneg o => laneOk { types := typesF, hasB := false } o
  | .fdiv o => laneOk { types := typesF, rounds := true, ll := true } o
  | .fsqrt o | .frcp o | .frsq o | .fexp2 o | .flog2 o | .fsin o | .fcos o | .ftanh o =>
    laneOk { types := typesF, hasB := false, rounds := true, ll := true } o
  | .fcmp o _ => laneOk { types := typesF, dWord := true } o
  | .fclass o => laneOk { types := typesF, hasB := false, dWord := true } o
  | .fdp4 o => laneOk { types := [.e4m3, .e5m2, .t8], rounds := true, dRead := true } o
  | .frnd o => laneOk { types := typesF, hasB := false, rounds := true } o
  | .cvt o fr =>
    o.ty != .b32 && o.ty != .b64 && fr != .b32 && fr != .b64 && dstOk (typeWords o.ty) o.d
      && srcOk (typeWords fr) (immOk fr) o.a && o.b == .v 0 && formOk o false [o.a]
  | .pack o fr slot =>
    packTypes.contains o.ty && (fr == .f32 || fr == .i32 || fr == .n32) && dstOk 1 o.d && srcOk 1 true o.a
      && srcOk 1 true o.b && decide (slot.toNat < 16 / packWidth o.ty) && formOk o false [o.a, o.b]
  | .unpack o fr idx =>
    [ElemType.f32, .f16, .bf16, .i32, .n32].contains o.ty && (packTypes.contains fr || fr == .e8m0) && dstOk 1 o.d
      && srcOk 1 (immOk fr) o.a && o.b == .v 0 && decide (idx.toNat < 32 / packWidth fr) && formOk o false [o.a]
  | .blkpk o fr len scale =>
    blkTypes.contains o.ty && fr == .f32 && len != 3 && dstOk 1 o.d && perLane o.d && isV scale && scale != o.d
      && srcOk 1 true o.a && o.b == .v 0 && formOk o false [o.a]
  | .blkup o fr =>
    typesF.contains o.ty && blkTypes.contains fr && dstOk 1 o.d && srcOk 1 (immOk fr) o.a && srcOk 1 true o.b
      && formOk o false [o.a, o.b]
  | .shfl o _ mask => crossOk { types := typesB } o mask
  | .ballot o mask =>
    typesB.contains o.ty && isS o.d && dstOk (typeWords o.ty) o.d && isV o.a && srcOk (typeWords o.ty) false o.a && o.b == .v 0
      && o.rnd == .rne && maskOk mask && hdrOk true false true false o.h
  | .vote o _ mask | .firstl o mask => crossOk { types := typesB, hasB := false } o mask
  | .matchLanes o mask => crossOk { types := typesB, hasB := false, dWord := true } o mask
  | .redux o op mask =>
    crossOk { types := redTypes op, hasB := false, rounds := true } o mask && redRnd op o.rnd
  | .scan o op _ mask =>
    crossOk { types := redTypes op, hasB := false, rounds := true } o mask && redRnd op o.rnd
      && op != .fmin && op != .fmax
  | .v2s o =>
    typesB.contains o.ty && isS o.d && dstOk (typeWords o.ty) o.d && o.rnd == .rne
      && srcOk (typeWords o.ty) false o.a
      && (if isV o.a then siOk o.b else uniformOp o.a && o.b == .v 0)
      && hdrOk (isV o.a) false (isV o.a) false o.h
  | .ld m => loadOk m
  | .st m => storeOk m && storeCache m.cache
  | .lds m => isS m.d && dstOk (typeWords m.ty) m.d && memType m.ty && isS m.a && isS m.b && addrA m.a64 m.a
      && addrB m.b && hdrOk false true false false m.h
  | .sts m => (isS m.d || isI m.d) && dataOk m.ty m.d && memType m.ty && isS m.a && isS m.b && addrA m.a64 m.a
      && addrB m.b && storeCache m.cache && plainOk m.h false false
  | .ldtb m _ => loadOk m && !m.a64 && m.cache == .dflt
  | .sttb m _ => storeOk m && !m.a64 && m.cache == .dflt
  | .ldc m buf =>
    isV m.d && dstOk (typeWords m.ty) m.d && memType m.ty && addrA false m.a && grpOk m.b && !m.a64
      && m.cache == .dflt && buf != .cb && memHdr true m.d m.a m.b m.h
  | .stc m buf =>
    dataOk m.ty m.d && memType m.ty && addrA false m.a && grpOk m.b && !m.a64
      && m.cache == .dflt && buf != .cb && memHdr false m.d m.a m.b m.h
  | .atom m op =>
    isV m.d && dstOk (typeWords m.ty) m.d && (atomTypes op).contains m.ty && addrA m.a64 m.a && addrB m.b
      && memHdr true m.d m.a m.b m.h
  | .cas m =>
    (match m.d with | .v n => n.toNat % (2 * typeWords m.ty) == 0 | _ => false) && typesB.contains m.ty
      && addrA m.a64 m.a && addrB m.b && memHdr true m.d m.a m.b m.h
  | .red m op =>
    dataOk m.ty m.d && op != .exch && (atomTypes op).contains m.ty && addrA m.a64 m.a && addrB m.b
      && (m.order == .relaxed || m.order == .release) && memHdr true m.d m.a m.b m.h
  | .fence h _ _ => zeroHdr h
  | .pref m =>
    m.d == .v 0 && m.ty == .b32 && prefCache m.cache && addrA m.a64 m.a && addrB m.b
      && hdrOk (isV m.a || isV m.b) false (isV m.a) (isV m.b) m.h
  | .pgreq h _ a64 a b _ =>
    addrA a64 a && addrB b && hdrOk (isV a || isV b) false (isV a) (isV b) h
  | .drain h _ => zeroHdr h
  | .copy c => copyOk 0 c
  | .copyIndexed c => copyOk 1 c
  | .copyChecksum c => copyOk 2 c
  | .gset h _ c => zeroHdr h && siOk c
  | .gclr h _ | .gclrFree h _ => zeroHdr h
  | .xkick h e v => zeroHdr h && siOk e && siOk v
  | .tlwait h e v => zeroHdr h && siOk e && pairOrImm v
  | .tlwaitToken h e v _ => zeroHdr h && siOk e && pairOrImm v
  | .tlread h d e => zeroHdr h && sPair d && siOk e
  | .mma m c a b => matOk m && layOk c && layOk a && layOk b
  | .mmas m c a b _ => matOk m && layOk c && layOk a && layOk b
  | .mmae m c a b => matOk m && layOk c && layOk a && layOk b
  | .mmaeSparse m c a b _ => matOk m && layOk c && layOk a && layOk b
  | .mzero m c _ _ => matOk m && layOk c
  | .mcvt m d c rnd => matOk m && layOk d && layOk c && rnd != .rst
  | .mmerge m c p t => matOk m && layOk c && layOk p && sOk t
  | .dectab m a _ => matOk m && sOk a
  | .mwait h d _ => zeroHdr h && sOk d
  | .ncall h _ _ _ hnd _ _ => hdrOk true false true (isV hnd) h && grpOk hnd
  | .wpin h d hnd => zeroHdr h && sOk d && siOk hnd
  | .wunpin h hnd | .wpref h hnd | .wprefDrop h hnd => zeroHdr h && siOk hnd
  | .trace h _ _ _ b => hdrOk true false true false h && b.toNat % 2 == 0 && decide (b.toNat ≤ 124)
  | .traceNext h _ _ _ => hdrOk true false true false h
  | .trend h _ => hdrOk true false false false h
  | .gemit h _ => hdrOk true false true false h
  | .gdone h => zeroHdr h
  | .abinit h _ bytes arr => zeroHdr h && siOk bytes && siOk arr
  | .abinitReset h _ | .abinitFree h _ => zeroHdr h
  | .abarr h _ g cnt => zeroHdr h && siOk g && siOk cnt
  | .abwait h _ d p => zeroHdr h && sOk d && siOk p
  | .tkwait h d a v sc => zeroHdr h && sOk d && sPair a && siOk v && sc != .wave
  | .tkadv h d a n sc => zeroHdr h && sOk d && sPair a && siOk n && sc != .wave
      && (match n with | .i k => decide (k.toNat < 128) | _ => true)
  | .ctnew h d p => zeroHdr h && sOk d && siOk p
  | .ctenr h d n b | .ctleave h d n b =>
    zeroHdr h && sOk d && sOk n && b.toNat % 2 == 0 && decide (b.toNat ≤ 125)
  | .ctread h d n => hdrOk false true false false h && sPair d && sOk n
  | .ctsettle h n => zeroHdr h && sOk n
  | .ctrepar h d n p => zeroHdr h && sOk d && sOk n && siOk p
  | .ctfree h d n => zeroHdr h && sOk d && sOk n
  | .regrel h _ | .regclm h _ => zeroHdr h
  | .regrelS h a | .regclmS h a => zeroHdr h && sOk a
  | .regqry h d _ => zeroHdr h && sOk d
  | .waitq h d _ | .pollq h d _ => zeroHdr h && sOk d
  | .recruit h d want _ => zeroHdr h && sOk d && siOk want
  | .hget h d a =>
    (match d, a with
      | .v _, .v n => decide (n.toNat < 32)
      | .v _, .s n => decide (n.toNat < 32)
      | .s k, .s n => decide (k.toNat < 8) && decide (n.toNat < 32)
      | _, _ => false) && hdrOk (isV d) false (isV a) false h
  | .hred h r a op ty rnd =>
    decide (r.toNat < 32) && (match a with | .v n => evenFor (typeWords ty) n | .i _ => true | _ => false)
      && evenFor (typeWords ty) r
      && (redTypes op).contains ty && redRnd op rnd && hdrOk true false (isV a) false h
  | .hjoin h d => zeroHdr h && sOk d
  | .hexit h | .hrel h => zeroHdr h
  | .trap h _ => zeroHdr h
  | .tret h | .tretSkip h => zeroHdr h
  | .rqrd h d e field =>
    zeroHdr h && siOk e && decide (field.toNat ≤ 13)
      && (match d with | .s n => sOk n && decide (field.toNat ≤ 5) | .v _ => decide (6 ≤ field.toNat) | _ => false)
  | .rqwr h e v field =>
    plainOk h false (isV v) && siOk e
      && (if field == 5 then siOk v else decide (6 ≤ field.toNat) && decide (field.toNat ≤ 11) && isV v)
  | .rqdel h e => zeroHdr h && siOk e
  | .cxrd h d item => zeroHdr h && sOk d && decide (item.toNat ≤ 0x21)
  | .cxwr h v item => zeroHdr h && siOk v && decide (item.toNat ≤ 0x0F)
  | .updateLineSend core _ | .grantPass core | .tempUpdate core _ | .droopSet core | .droopClear core
  | .coreReset core => decide (core < 1024)
  | .ncallIntake cl | .weightFill cl | .binAgeFlush cl | .tileComplete cl | .diceRegion cl | .gridLaunch cl
  | .gridResolve cl | .clusterReset cl => decide (cl < 16)
  | .widxWrite e _ | .engineCopy e | .convert e | .checksumCopy e | .cairnLoad e | .dedupCopy e
  | .requestComplete e => decide (e < 1024)
  | .admission slot _ | .slotRelease slot | .yieldRequest slot | .overrunCheck slot | .sliceExpiry slot
  | .bestEffortMapping slot | .queueLeavesSlot slot => decide (slot < 64)
  | .parkAccess p | .faultRecordPost p | .pgack p _ | .rply p | .shootDown p _ | .shootDownComplete p
  | .ctack p _ | .ctkWrite p _ | .rollUpStep p _ | .gangPlacement p | .headCycle p | .notifyWrite p _
  | .wakeToNoon p | .powerStateEntry p | .partitionReset p | .hostBar2Access p _ _ | .incomingRemoteAccess p _ _ _
  | .eventRecordPost p | .l2WriteBack p _ | .pmeasExtend p _ | .attestationReport p _ => decide (p < 8)
  | .qrfr p q => decide (p < 8) && decide (q < 65536)
  | .doorbellWrite q _ | .queueNop q | .graph q | .draw q | .tlsig q | .tlwaitc q | .kernelBoundary q _ =>
    decide (q < 65536)
  | .contextTeardown ctx => decide (ctx < 4096)
  | .loadDataReturn _ _ _ | .storePerform _ | .eviction _ | .waveRetire _ | .barReevaluate _ _ | .copyExecute _ _
  | .matrixComplete _ _ | .mmergeApply _ _ _ | .traceResult _ _ | .deviceReset | .pmapWrite _
  | .remoteAccessTimeout _ | .beaconSend | .beaconMissed _ | .resetMessage _ _ _ _ _ | .correctedErrorReport _ _
  | .lockstepMismatch | .watchdogExpiry | .fwctlRestart | .boot _ _ _ | .cairnInstall _ _ _ _
  | .firmwareRegisterWrite _ _ | .copyComplete _ _ | .beaconReceived _ _ | .hostErrorRecordPost
  | .firmwareReady => true

end Sys2Proof.Machine
end

