-- ==== Sys2Proof/WellFormed.lean ====
section
/-! DEFINITION. Well-formed instructions: the legal ones. -/

namespace Sys2Proof

/-- A well-formed instruction: no rule of R48 to R69 and no entry reserves it. -/
def Instr.wf (x : Instr) : Bool := Machine.legal x

end Sys2Proof
end

