-- ==== Sys2Proof/Decode.lean ====
section
/-! DEFINITION. The 96-bit instruction word (R48 to R69): its fields, the decoder, and after it the encoder. -/

namespace Sys2Proof

/-- Why a word or a byte list does not decode. -/
inductive DecodeError where
  /-- fewer than 12 bytes (R48) -/
  | tooShort
  /-- OP is reserved (R67) -/
  | opcode
  /-- FN is reserved for the opcode (R64) -/
  | function
  /-- a TYPE, RND, SCOPE, CACHE, ORDER or another code of EXT is reserved (R54, R55, R60) -/
  | code
  /-- a reserved or unused field holds a bit (R48, R49, R60) -/
  | field
  /-- an operand or a combination of fields is reserved (R49 to R59, the entries) -/
  | operand
deriving DecidableEq, Repr

/-- The fields of a word (R48). -/
structure Raw where
  op : Nat
  fn : Nat
  d : Nat
  a : Nat
  b : Nat
  ge : Bool
  gn : Bool
  greg : BitVec 8
  look : BitVec 4
  ra : Bool
  rb : Bool
  rsv : Nat
  ext : Nat
deriving DecidableEq, Repr

/-- Bits [hi:lo] of a number. -/
def field (x hi lo : Nat) : Nat := x / 2 ^ lo % 2 ^ (hi + 1 - lo)

/-- The fields of a word (R48). -/
def Raw.ofNat (w : Nat) : Raw where
  op := field w 95 88
  fn := field w 87 84
  d := field w 83 74
  a := field w 73 64
  b := field w 63 54
  ge := field w 53 53 == 1
  gn := field w 52 52 == 1
  greg := BitVec.ofNat 8 (field w 51 44)
  look := BitVec.ofNat 4 (field w 43 40)
  ra := field w 39 39 == 1
  rb := field w 38 38 == 1
  rsv := field w 37 36
  ext := field w 35 0

/-- An operand field (R49). -/
def operandOf (x : Nat) : Operand :=
  match x / 256 with
  | 0 => .v (BitVec.ofNat 8 x)
  | 1 => .s (BitVec.ofNat 8 x)
  | 2 => .x (BitVec.ofNat 8 x)
  | _ => .i (BitVec.ofNat 8 x)

/-- The guard, LOOK and hints of a word. -/
def Raw.hdr (r : Raw) : Hdr := ⟨⟨r.ge, r.gn, r.greg⟩, r.look, r.ra, r.rb⟩

/-- TYPE codes (R54). -/
def typeOf (n : Nat) : Option ElemType :=
  match n with
  | 0 => some .b32
  | 1 => some .i8
  | 2 => some .n8
  | 3 => some .i16
  | 4 => some .n16
  | 5 => some .i32
  | 6 => some .n32
  | 7 => some .i64
  | 8 => some .n64
  | 9 => some .f16
  | 10 => some .bf16
  | 11 => some .f32
  | 12 => some .e4m3
  | 13 => some .e5m2
  | 14 => some .e2m1
  | 15 => some .t8
  | 16 => some .t6
  | 17 => some .e8m0
  | 18 => some .b64
  | _ => none

/-- RND codes (R55). -/
def rndOf (n : Nat) : Option Rnd :=
  match n with
  | 0 => some .rne
  | 1 => some .rz
  | 2 => some .rup
  | 3 => some .rdn
  | 4 => some .rst
  | _ => none

/-- SCOPE codes (R60). -/
def scopeOf (n : Nat) : Option Scope :=
  match n with
  | 0 => some .wave
  | 1 => some .group
  | 2 => some .gang
  | 3 => some .cluster
  | 4 => some .device
  | 5 => some .system
  | _ => none

/-- CACHE codes (R186). -/
def cacheOf (n : Nat) : Option Cache :=
  match n with
  | 0 => some .dflt
  | 1 => some .ro
  | 2 => some .stream
  | 3 => some .nofill
  | 4 => some .keep
  | _ => none

/-- ORDER codes (R187). -/
def orderOf (n : Nat) : Option MOrder :=
  match n with
  | 0 => some .relaxed
  | 1 => some .acquire
  | 2 => some .release
  | 3 => some .acqrel
  | _ => none

/-- BUF codes (R183). -/
def bufOf (n : Nat) : Option Buf :=
  match n with
  | 0 => some .wb
  | 1 => some .ab
  | 2 => some .cb
  | _ => none

/-- OPC codes (R197). -/
def atomOpcOf (n : Nat) : Option AtomOpc :=
  match n with
  | 0 => some .add
  | 1 => some .min
  | 2 => some .max
  | 3 => some .and
  | 4 => some .or
  | 5 => some .xor
  | 6 => some .exch
  | _ => none

/-- Relations (R115). -/
def relOf (n : Nat) : Option Rel :=
  match n with
  | 0 => some .eq
  | 1 => some .ne
  | 2 => some .lt
  | 3 => some .le
  | 4 => some .gt
  | 5 => some .ge
  | 6 => some .un
  | 7 => some .ord
  | _ => none

/-- Conditions of BRV (R134). -/
def brvOf (n : Nat) : Option BrvWhen :=
  match n with
  | 0 => some .any
  | 1 => some .all
  | 2 => some .none
  | _ => none

/-- Modes of SHFL (R131). -/
def shflOf (n : Nat) : Option ShflMode :=
  match n with
  | 0 => some .idx
  | 1 => some .up
  | 2 => some .down
  | 3 => some .xor
  | _ => none

/-- Kinds of VOTE (R131). -/
def voteOf (n : Nat) : Option VoteKind :=
  match n with
  | 0 => some .any
  | 1 => some .all
  | 2 => some .uni
  | _ => none

/-- Reductions (R132). -/
def redOf (n : Nat) : Option RedOp :=
  match n with
  | 0 => some .add
  | 1 => some .min
  | 2 => some .max
  | 3 => some .and
  | 4 => some .or
  | 5 => some .xor
  | 6 => some .fadd
  | 7 => some .fmin
  | 8 => some .fmax
  | _ => none

/-- Paths of DRAIN (R183). -/
def drainOf (n : Nat) : Option DrainPath :=
  match n with
  | 0 => some .wb
  | 1 => some .ab
  | 2 => some .cb
  | 3 => some .global
  | _ => none

/-- What REGQRY reads (R97). -/
def qryOf (n : Nat) : Option QryWhat :=
  match n with
  | 0 => some .own
  | 1 => some .free
  | 2 => some .claims
  | _ => none

/-- The Typed opcodes that have one FN and no field of EXT of their own (R110 to R122). -/
def simpleLane (op : Nat) : Option (LaneOp → Instr) :=
  match op with
  | 0x10 => some .add
  | 0x11 => some .sub
  | 0x12 => some .mul
  | 0x13 => some .mulhi
  | 0x14 => some .mad
  | 0x15 => some .div
  | 0x16 => some .rem
  | 0x17 => some .min
  | 0x18 => some .max
  | 0x19 => some .abs
  | 0x1A => some .neg
  | 0x1C => some .and
  | 0x1D => some .or
  | 0x1E => some .xor
  | 0x1F => some .andn
  | 0x20 => some .not
  | 0x21 => some .shl
  | 0x22 => some .shr
  | 0x23 => some .sar
  | 0x26 => some .bfi
  | 0x27 => some .popc
  | 0x28 => some .clz
  | 0x29 => some .ctz
  | 0x2A => some .brev
  | 0x2B => some .pfxpop
  | 0x2C => some .isect
  | 0x32 => some .setv
  | 0x33 => some .mkv
  | 0x34 => some .inv
  | 0x35 => some .isv
  | 0x36 => some .mov
  | 0x40 => some .fadd
  | 0x41 => some .fsub
  | 0x42 => some .fmul
  | 0x43 => some .ffma
  | 0x44 => some .fmin
  | 0x45 => some .fmax
  | 0x46 => some .fabs
  | 0x47 => some .fneg
  | 0x48 => some .fdiv
  | 0x49 => some .fsqrt
  | 0x4A => some .frcp
  | 0x4B => some .frsq
  | 0x4C => some .fexp2
  | 0x4D => some .flog2
  | 0x4E => some .fsin
  | 0x4F => some .fcos
  | 0x51 => some .fclass
  | 0x52 => some .fdp4
  | 0x53 => some .ftanh
  | 0x54 => some .frnd
  | _ => none

/-- A class-0 register index. -/
def vIdx (x : Nat) : Option (BitVec 8) := if x / 256 = 0 then some (BitVec.ofNat 8 x) else none

/-- A class-1 register index. -/
def sIdx (x : Nat) : Option (BitVec 8) := if x / 256 = 1 then some (BitVec.ofNat 8 x) else none

/-- `x` where the condition holds, else the named error. -/
def need {α : Type} (c : Bool) (e : DecodeError) (x : Except DecodeError α) : Except DecodeError α :=
  if c then x else .error e

/-- The value of an option, else the named error. -/
def take {α β : Type} (o : Option α) (e : DecodeError) (f : α → Except DecodeError β) : Except DecodeError β :=
  match o with
  | some x => f x
  | none => .error e

/-- The Typed layout (R60, R106). -/
def Raw.lane (r : Raw) : Except DecodeError LaneOp :=
  take (typeOf (field r.ext 35 31)) .code fun ty =>
  take (rndOf (field r.ext 30 28)) .code fun rnd =>
  .ok ⟨r.hdr, operandOf r.d, operandOf r.a, operandOf r.b, ty, rnd⟩

/-- A Typed instruction whose EXT[27:0] is zero. -/
def Raw.lane0 (r : Raw) (f : LaneOp → Instr) : Except DecodeError Instr :=
  need (field r.ext 27 0 == 0) .field do
    let o ← r.lane
    .ok (f o)

/-- A Typed instruction with a member mask in C (R106, R129). -/
def Raw.laneC (r : Raw) (f : LaneOp → Operand → Instr) : Except DecodeError Instr :=
  need (field r.ext 27 18 == 0 && field r.ext 7 0 == 0) .field do
    let o ← r.lane
    .ok (f o (operandOf (field r.ext 17 8)))

/-- The Memory layout (R60, R183); `a64` where FN[3] is A64. -/
def Raw.mem (r : Raw) (a64 : Bool) (f : MemOp → Instr) : Except DecodeError Instr :=
  take (typeOf (field r.ext 35 31)) .code fun ty =>
  take (cacheOf (field r.ext 30 28)) .code fun c =>
  .ok (f ⟨r.hdr, a64, operandOf r.d, operandOf r.a, operandOf r.b, ty, c, BitVec.ofNat 28 r.ext⟩)

/-- The Atomic layout (R60, R183). -/
def Raw.atomic (r : Raw) (f : AtomOp → Instr) : Except DecodeError Instr :=
  take (typeOf (field r.ext 35 31)) .code fun ty =>
  take (scopeOf (field r.ext 30 28)) .code fun sc =>
  take (orderOf (field r.ext 27 26)) .code fun o =>
  .ok (f ⟨r.hdr, decide (8 ≤ r.fn), operandOf r.d, operandOf r.a, operandOf r.b, ty, sc, o, BitVec.ofNat 26 r.ext⟩)

/-- The matrix sub-fields (R220). DESIGN CHOICE: a SET that is not 0 stands unused where SETEN is 0, and is no reserved field. -/
def Raw.mat (r : Raw) : MatOp where
  h := r.hdr
  fb := BitVec.ofNat 7 (field r.ext 35 29)
  wait := BitVec.ofNat 16 (field r.ext 28 13)
  setEn := field r.ext 12 12 == 1
  set := BitVec.ofNat 4 (field r.ext 11 8)

/-- The fields of COPY (R296). -/
def Raw.copy (r : Raw) (f : CopyOp → Instr) : Except DecodeError Instr :=
  take (sIdx r.d) .operand fun d =>
  take (sIdx r.a) .operand fun a =>
  .ok (f { h := r.hdr, d := d, a := a, b := operandOf r.b,
           sk := BitVec.ofNat 2 (field r.ext 35 34), dk := BitVec.ofNat 2 (field r.ext 33 32),
           pbuf := field r.ext 31 31 == 1, pgrp := BitVec.ofNat 6 (field r.ext 30 25),
           pab := BitVec.ofNat 4 (field r.ext 24 21), trn := field r.ext 20 20 == 1,
           tw := BitVec.ofNat 2 (field r.ext 19 18), kgm1 := BitVec.ofNat 12 (field r.ext 17 6),
           gen := field r.ext 5 5 == 1, gpol := field r.ext 4 4 == 1, gsl := BitVec.ofNat 4 (field r.ext 3 0) })

/-- Fields D, A, B and EXT that an entry leaves unused are zero (R49). -/
def Raw.zero (r : Raw) (d a b : Bool) (ext : Bool) : Bool :=
  (!d || r.d == 0) && (!a || r.a == 0) && (!b || r.b == 0) && (!ext || r.ext == 0)

/-- An EXT that holds only a 4-bit index. -/
def Raw.low4 (r : Raw) : Bool := field r.ext 35 4 == 0

/-- The low 4 bits of EXT. -/
def Raw.idx4 (r : Raw) : BitVec 4 := BitVec.ofNat 4 r.ext

/-- The control instructions (R134). -/
def parseControl (r : Raw) : Except DecodeError Instr :=
  let h := r.hdr
  let off := BitVec.ofNat 28 r.ext
  let br := field r.ext 35 28 == 0
  match r.op with
  | 0x00 => need (r.fn == 0) .function (need (r.zero true true true true) .field (.ok (.nop h)))
  | 0x01 =>
    match r.fn with
    | 0 => need (r.zero true true true false && br) .field (.ok (.bra h off))
    | 1 => need (r.zero true false true false && br) .field (.ok (.braCond h (operandOf r.a) off true))
    | 2 => need (r.zero true false true false && br) .field (.ok (.braCond h (operandOf r.a) off false))
    | _ => .error .function
  | 0x02 =>
    take (brvOf r.fn) .function fun w =>
    take (vIdx r.a) .operand fun a =>
    need (r.zero true false true false && br) .field (.ok (.brv h a off w))
  | 0x03 =>
    take (vIdx r.a) .operand fun a =>
    match r.fn with
    | 0 => need (r.zero true false true false && br) .field (.ok (.bru h a off false))
    | 1 => need (r.zero true false true false && br) .field (.ok (.bru h a off true))
    | 2 => need (r.zero true false true true) .field (.ok (.bruReg h a))
    | _ => .error .function
  | 0x04 =>
    take (sIdx r.d) .operand fun d =>
    need (r.fn == 0) .function (need (r.zero false true true false && br) .field (.ok (.call h d off)))
  | 0x05 =>
    take (sIdx r.a) .operand fun a =>
    need (r.fn == 0) .function (need (r.zero true false true true) .field (.ok (.ret h a)))
  | 0x06 =>
    take (sIdx r.a) .operand fun a =>
    need (r.fn == 0) .function (need (r.zero true false false true) .field (.ok (.jmpi h a (operandOf r.b))))
  | 0x07 =>
    take (vIdx r.a) .operand fun a =>
    need (decide (r.fn < 2)) .function
      (need (r.zero false false true true) .field (.ok (.vmask h (operandOf r.d) a (r.fn == 1))))
  | 0x08 =>
    take (scopeOf (field r.ext 30 28)) .code fun sc =>
    need (r.fn == 0) .function
      (need (r.zero true true true false && field r.ext 27 0 == 0 && field r.ext 35 31 == 0) .field (.ok (.bar h sc)))
  | 0x09 => need (r.fn == 0) .function (need (r.zero true true true true) .field (.ok (.yield h)))
  | 0x0A => need (r.fn == 0) .function (need (r.zero true true true true) .field (.ok (.halt h)))
  | _ => .error .opcode

/-- The lane arithmetic (R110 to R133). -/
def parseLane (r : Raw) : Except DecodeError Instr :=
  match simpleLane r.op with
  | some f => need (r.fn == 0) .function (r.lane0 f)
  | none =>
    match r.op with
    | 0x1B => need (decide (r.fn < 2)) .function (r.lane0 fun o => .addsat o (r.fn == 1))
    | 0x24 => need (decide (r.fn < 2)) .function (r.lane0 fun o => .rot o (r.fn == 1))
    | 0x25 => need (decide (r.fn < 2)) .function (r.lane0 fun o => .bfe o (r.fn == 1))
    | 0x2D => need (decide (r.fn < 2)) .function (r.lane0 fun o => .bclr o (r.fn == 1))
    | 0x2E => need (decide (r.fn < 2)) .function (r.lane0 fun o => .dot4 o (r.fn == 1))
    | 0x30 => take (relOf r.fn) .function fun rel => r.lane0 fun o => .cmp o rel
    | 0x31 => need (r.fn == 0) .function (r.laneC fun o c => .sel o c)
    | 0x37 =>
      need (r.fn == 0) .function (need (r.zero false true true false && field r.ext 30 28 == 0) .field
        (take (typeOf (field r.ext 35 31)) .code fun ty => .ok (.movi r.hdr (operandOf r.d) ty (BitVec.ofNat 28 r.ext))))
    | 0x38 =>
      need (r.fn == 0) .function (need (r.zero false true true false && field r.ext 35 28 == 0) .field
        (.ok (.movh r.hdr (operandOf r.d) (BitVec.ofNat 28 r.ext))))
    | 0x50 => take (relOf r.fn) .function fun rel => r.lane0 fun o => .fcmp o rel
    | 0x60 =>
      need (r.fn == 0) .function (need (field r.ext 22 0 == 0) .field
        (take (typeOf (field r.ext 27 23)) .code fun fr => do let o ← r.lane; .ok (.cvt o fr)))
    | 0x61 =>
      need (r.fn == 0) .function (need (field r.ext 19 0 == 0) .field
        (take (typeOf (field r.ext 27 23)) .code fun fr => do
          let o ← r.lane; .ok (.pack o fr (BitVec.ofNat 3 (field r.ext 22 20)))))
    | 0x62 =>
      need (r.fn == 0) .function (need (field r.ext 19 0 == 0) .field
        (take (typeOf (field r.ext 27 23)) .code fun fr => do
          let o ← r.lane; .ok (.unpack o fr (BitVec.ofNat 3 (field r.ext 22 20)))))
    | 0x63 =>
      need (r.fn == 0) .function (need (field r.ext 22 20 == 0 && field r.ext 7 0 == 0) .field
        (take (typeOf (field r.ext 27 23)) .code fun fr => do
          let o ← r.lane
          .ok (.blkpk o fr (BitVec.ofNat 2 (field r.ext 19 18)) (operandOf (field r.ext 17 8)))))
    | 0x64 =>
      need (r.fn == 0) .function (need (field r.ext 22 0 == 0) .field
        (take (typeOf (field r.ext 27 23)) .code fun fr => do let o ← r.lane; .ok (.blkup o fr)))
    | 0x70 => take (shflOf r.fn) .function fun m => r.laneC fun o c => .shfl o m c
    | 0x71 => need (r.fn == 0) .function (r.laneC fun o c => .ballot o c)
    | 0x72 => take (voteOf r.fn) .function fun k => r.laneC fun o c => .vote o k c
    | 0x73 => take (redOf r.fn) .function fun op => r.laneC fun o c => .redux o op c
    | 0x74 =>
      take (redOf (r.fn % 8)) .function fun op =>
      need (decide (r.fn % 8 < 7)) .function (r.laneC fun o c => .scan o op (decide (8 ≤ r.fn)) c)
    | 0x75 => need (r.fn == 0) .function (r.lane0 .v2s)
    | 0x76 => need (r.fn == 0) .function (r.laneC fun o c => .matchLanes o c)
    | 0x77 => need (r.fn == 0) .function (r.laneC fun o c => .firstl o c)
    | _ => .error .opcode

/-- The memory instructions (R183). -/
def parseMemory (r : Raw) : Except DecodeError Instr :=
  let a64 := decide (8 ≤ r.fn)
  let fn0 := r.fn % 8 == 0
  match r.op with
  | 0x80 => need fn0 .function (r.mem a64 .ld)
  | 0x81 => need fn0 .function (r.mem a64 .st)
  | 0x82 => need fn0 .function (r.mem a64 .lds)
  | 0x83 => need fn0 .function (r.mem a64 .sts)
  | 0x84 => take (bufOf r.fn) .function fun b => r.mem false fun m => .ldtb m b
  | 0x85 => take (bufOf r.fn) .function fun b => r.mem false fun m => .sttb m b
  | 0x86 => take (bufOf r.fn) .function fun b => r.mem false fun m => .ldc m b
  | 0x87 => take (bufOf r.fn) .function fun b => r.mem false fun m => .stc m b
  | 0x88 => take (atomOpcOf (r.fn % 8)) .function fun op => r.atomic fun m => .atom m op
  | 0x89 => need fn0 .function (r.atomic .cas)
  | 0x8A => take (atomOpcOf (r.fn % 8)) .function fun op => r.atomic fun m => .red m op
  | 0x8B =>
    take (scopeOf (field r.ext 30 28)) .code fun sc =>
    need (r.zero true true true false && field r.ext 27 0 == 0 && field r.ext 35 31 == 0) .field
      (match r.fn with
        | 1 => .ok (.fence r.hdr .acq sc)
        | 2 => .ok (.fence r.hdr .rel sc)
        | 3 => .ok (.fence r.hdr .acqrel sc)
        | _ => .error .function)
  | 0x8C => need fn0 .function (need (r.d == 0) .field (r.mem a64 .pref))
  | 0x8D =>
    need fn0 .function (need (field r.d 9 4 == 0 && field r.ext 35 28 == 0) .field
      (.ok (.pgreq r.hdr (BitVec.ofNat 4 r.d) a64 (operandOf r.a) (operandOf r.b) (BitVec.ofNat 28 r.ext))))
  | 0x8F =>
    take (drainOf r.fn) .function fun p => need (r.zero true true true true) .field (.ok (.drain r.hdr p))
  | _ => .error .opcode

/-- The engine instructions (R293, R296, R304, R307). -/
def parseEngine (r : Raw) : Except DecodeError Instr :=
  let h := r.hdr
  match r.op with
  | 0xA0 =>
    match r.fn with
    | 0 => r.copy .copy
    | 1 => r.copy .copyIndexed
    | 2 => r.copy .copyChecksum
    | _ => .error .function
  | 0xA1 =>
    need (r.fn == 0) .function (need (r.zero true false true false && r.low4) .field
      (.ok (.gset h r.idx4 (operandOf r.a))))
  | 0xA2 =>
    need (r.zero true true true false && r.low4) .field
      (match r.fn with
        | 0 => .ok (.gclr h r.idx4)
        | 1 => .ok (.gclrFree h r.idx4)
        | _ => .error .function)
  | 0xA3 =>
    need (r.fn == 0) .function (need (r.zero true false false true) .field
      (.ok (.xkick h (operandOf r.a) (operandOf r.b))))
  | 0xA4 =>
    match r.fn with
    | 0 => need (r.zero true false false true) .field (.ok (.tlwait h (operandOf r.a) (operandOf r.b)))
    | 1 => need (r.d == 0 && r.low4) .field (.ok (.tlwaitToken h (operandOf r.a) (operandOf r.b) r.idx4))
    | _ => .error .function
  | 0xA5 =>
    take (sIdx r.d) .operand fun d =>
    need (r.fn == 0) .function (need (r.zero false false true true) .field (.ok (.tlread h d (operandOf r.a))))
  | _ => .error .opcode

/-- The matrix instructions (R220, R239). An MTK that is not 0 in an MZERO with MTCLR = 0 is accepted and unused (DESIGN CHOICE: R220
lists both bits as used by MZERO, and R48 makes unused fields zero). -/
def parseMatrix (r : Raw) : Except DecodeError Instr :=
  let m := r.mat
  let nsp := BitVec.ofNat 2 r.ext
  match r.op with
  | 0xB0 =>
    take (sIdx r.d) .operand fun c => take (sIdx r.a) .operand fun a => take (sIdx r.b) .operand fun b =>
    need (r.fn == 0) .function (need (field r.ext 7 0 == 0) .field (.ok (.mma m c a b)))
  | 0xB1 =>
    take (sIdx r.d) .operand fun c => take (sIdx r.a) .operand fun a => take (sIdx r.b) .operand fun b =>
    need (r.fn == 0) .function (need (field r.ext 7 2 == 0) .field (.ok (.mmas m c a b nsp)))
  | 0xB2 =>
    take (sIdx r.d) .operand fun c => take (sIdx r.a) .operand fun a => take (sIdx r.b) .operand fun b =>
    match r.fn with
    | 0 => need (field r.ext 7 0 == 0) .field (.ok (.mmae m c a b))
    | 1 => need (field r.ext 7 2 == 0) .field (.ok (.mmaeSparse m c a b nsp))
    | _ => .error .function
  | 0xB3 =>
    take (sIdx r.d) .operand fun c =>
    need (r.fn == 0) .function (need (r.zero false true true false && field r.ext 7 3 == 0) .field
      (.ok (.mzero m c (field r.ext 2 2 == 1) nsp)))
  | 0xB4 =>
    take (sIdx r.d) .operand fun d => take (sIdx r.a) .operand fun c =>
    take (rndOf (field r.ext 2 0)) .code fun rnd =>
    need (r.fn == 0) .function (need (r.b == 0 && field r.ext 7 3 == 0) .field (.ok (.mcvt m d c rnd)))
  | 0xB5 =>
    take (sIdx r.d) .operand fun c => take (sIdx r.a) .operand fun p => take (sIdx r.b) .operand fun t =>
    need (r.fn == 0) .function (need (field r.ext 7 0 == 0) .field (.ok (.mmerge m c p t)))
  | 0xB6 =>
    take (sIdx r.a) .operand fun a =>
    need (r.fn == 0) .function (need (r.zero true false true false && field r.ext 7 2 == 0) .field
      (.ok (.dectab m a nsp)))
  | 0xB7 =>
    take (sIdx r.d) .operand fun d =>
    need (r.fn == 0) .function
      (need (r.zero false true true false && field r.ext 35 29 == 0 && field r.ext 12 0 == 0) .field
        (.ok (.mwait r.hdr d m.wait)))
  | _ => .error .opcode

/-- The neural, ray and render instructions (R271, R279, R319, R320, R330, R334). -/
def parseUnits (r : Raw) : Except DecodeError Instr :=
  let h := r.hdr
  match r.op with
  | 0xC0 =>
    take (vIdx r.d) .operand fun d => take (vIdx r.a) .operand fun a =>
    need (r.fn == 0) .function (need (field r.ext 35 21 == 0 && field r.ext 11 4 == 0) .field
      (.ok (.ncall h r.idx4 d a (operandOf r.b) (BitVec.ofNat 5 (field r.ext 20 16)) (BitVec.ofNat 4 (field r.ext 15 12)))))
  | 0xC1 =>
    take (sIdx r.d) .operand fun d =>
    need (r.fn == 0) .function (need (r.zero false false true true) .field (.ok (.wpin h d (operandOf r.a))))
  | 0xC2 =>
    need (r.fn == 0) .function (need (r.zero true false true true) .field (.ok (.wunpin h (operandOf r.a))))
  | 0xC3 =>
    need (r.zero true false true true) .field
      (match r.fn with
        | 0 => .ok (.wpref h (operandOf r.a))
        | 1 => .ok (.wprefDrop h (operandOf r.a))
        | _ => .error .function)
  | 0xC4 =>
    take (vIdx r.d) .operand fun d => take (vIdx r.a) .operand fun a =>
    match r.fn with
    | 0 => take (sIdx r.b) .operand fun b => need r.low4 .field (.ok (.trace h r.idx4 d a b))
    | 1 => need (r.b == 0 && r.low4) .field (.ok (.traceNext h r.idx4 d a))
    | _ => .error .function
  | 0xC5 =>
    take (vIdx r.d) .operand fun d =>
    need (r.fn == 0) .function (need (r.zero false true true true) .field (.ok (.trend h d)))
  | 0xC6 =>
    take (vIdx r.a) .operand fun a =>
    need (r.fn == 0) .function (need (r.zero true false true true) .field (.ok (.gemit h a)))
  | 0xC7 => need (r.fn == 0) .function (need (r.zero true true true true) .field (.ok (.gdone h)))
  | _ => .error .opcode

/-- The barrier, ticket and containment instructions (R383, R388, R369). -/
def parseCounters (r : Raw) : Except DecodeError Instr :=
  let h := r.hdr
  let tk := field r.ext 35 31 == 0 && field r.ext 27 0 == 0
  match r.op with
  | 0xD0 =>
    need r.low4 .field
      (match r.fn with
        | 0 => need (r.d == 0) .field (.ok (.abinit h r.idx4 (operandOf r.a) (operandOf r.b)))
        | 1 => need (r.zero true true true false) .field (.ok (.abinitReset h r.idx4))
        | 2 => need (r.zero true true true false) .field (.ok (.abinitFree h r.idx4))
        | _ => .error .function)
  | 0xD1 =>
    need (r.fn == 0) .function (need (r.d == 0 && r.low4) .field
      (.ok (.abarr h r.idx4 (operandOf r.a) (operandOf r.b))))
  | 0xD2 =>
    take (sIdx r.d) .operand fun d =>
    need (r.fn == 0) .function (need (r.b == 0 && r.low4) .field (.ok (.abwait h r.idx4 d (operandOf r.a))))
  | 0xD3 =>
    take (sIdx r.d) .operand fun d => take (sIdx r.a) .operand fun a =>
    take (scopeOf (field r.ext 30 28)) .code fun sc =>
    need (r.fn == 0) .function (need tk .field (.ok (.tkwait h d a (operandOf r.b) sc)))
  | 0xD4 =>
    take (sIdx r.d) .operand fun d => take (sIdx r.a) .operand fun a =>
    take (scopeOf (field r.ext 30 28)) .code fun sc =>
    need (r.fn == 0) .function (need tk .field (.ok (.tkadv h d a (operandOf r.b) sc)))
  | 0xD5 =>
    take (sIdx r.d) .operand fun d =>
    need (r.fn == 0) .function (need (r.zero false false true true) .field (.ok (.ctnew h d (operandOf r.a))))
  | 0xD6 =>
    take (sIdx r.d) .operand fun d => take (sIdx r.a) .operand fun n => take (sIdx r.b) .operand fun b =>
    need (r.fn == 0) .function (need (r.ext == 0) .field (.ok (.ctenr h d n b)))
  | 0xD7 =>
    take (sIdx r.d) .operand fun d => take (sIdx r.a) .operand fun n =>
    need (r.fn == 0) .function (need (r.zero false false true true) .field (.ok (.ctread h d n)))
  | 0xD8 =>
    take (sIdx r.a) .operand fun n =>
    need (r.fn == 0) .function (need (r.zero true false true true) .field (.ok (.ctsettle h n)))
  | 0xD9 =>
    take (sIdx r.d) .operand fun d => take (sIdx r.a) .operand fun n =>
    need (r.fn == 0) .function (need (r.ext == 0) .field (.ok (.ctrepar h d n (operandOf r.b))))
  | 0xDA =>
    take (sIdx r.d) .operand fun d => take (sIdx r.a) .operand fun n => take (sIdx r.b) .operand fun b =>
    need (r.fn == 0) .function (need (r.ext == 0) .field (.ok (.ctleave h d n b)))
  | 0xDB =>
    take (sIdx r.d) .operand fun d => take (sIdx r.a) .operand fun n =>
    need (r.fn == 0) .function (need (r.zero false false true true) .field (.ok (.ctfree h d n)))
  | _ => .error .opcode

/-- The pool, token and helper instructions (R97, R289, R149). -/
def parsePool (r : Raw) : Except DecodeError Instr :=
  let h := r.hdr
  match r.op with
  | 0xE0 =>
    match r.fn with
    | 0 => need (r.zero true true true false && field r.ext 35 9 == 0) .field (.ok (.regrel h (BitVec.ofNat 9 r.ext)))
    | 1 => take (sIdx r.a) .operand fun a => need (r.zero true false true true) .field (.ok (.regrelS h a))
    | _ => .error .function
  | 0xE1 =>
    match r.fn with
    | 0 => need (r.zero true true true false && field r.ext 35 9 == 0) .field (.ok (.regclm h (BitVec.ofNat 9 r.ext)))
    | 1 => take (sIdx r.a) .operand fun a => need (r.zero true false true true) .field (.ok (.regclmS h a))
    | _ => .error .function
  | 0xE2 =>
    take (qryOf r.fn) .function fun w => take (sIdx r.d) .operand fun d =>
    need (r.zero false true true true) .field (.ok (.regqry h d w))
  | 0xE3 =>
    take (sIdx r.d) .operand fun d =>
    need (r.fn == 0) .function (need (r.zero false true true false && r.low4) .field (.ok (.waitq h d r.idx4)))
  | 0xE4 =>
    take (sIdx r.d) .operand fun d =>
    need (decide (r.fn < 2)) .function (need (r.zero false false true true) .field
      (.ok (.recruit h d (operandOf r.a) (r.fn == 1))))
  | 0xE5 =>
    need (r.fn == 0) .function (need (r.zero false false true true) .field
      (.ok (.hget h (operandOf r.d) (operandOf r.a))))
  | 0xE6 =>
    take (vIdx r.d) .operand fun d => take (redOf r.fn) .function fun op =>
    take (typeOf (field r.ext 35 31)) .code fun ty => take (rndOf (field r.ext 30 28)) .code fun rnd =>
    need (r.b == 0 && field r.ext 27 0 == 0) .field (.ok (.hred h d (operandOf r.a) op ty rnd))
  | 0xE7 =>
    take (sIdx r.d) .operand fun d =>
    need (r.fn == 0) .function (need (r.zero false true true true) .field (.ok (.hjoin h d)))
  | 0xE8 => need (r.fn == 0) .function (need (r.zero true true true true) .field (.ok (.hexit h)))
  | 0xE9 => need (r.fn == 0) .function (need (r.zero true true true true) .field (.ok (.hrel h)))
  | 0xEA =>
    take (sIdx r.d) .operand fun d =>
    need (r.fn == 0) .function (need (r.zero false true true false && r.low4) .field (.ok (.pollq h d r.idx4)))
  | _ => .error .opcode

/-- The trap and handler instructions (R402). -/
def parseTrap (r : Raw) : Except DecodeError Instr :=
  let h := r.hdr
  let hi := field r.ext 35 8 == 0
  let lo := BitVec.ofNat 8 r.ext
  match r.op with
  | 0xF0 => need (r.fn == 0) .function (need (r.zero true true true false && hi) .field (.ok (.trap h lo)))
  | 0xF1 =>
    need (r.zero true true true true) .field
      (match r.fn with
        | 0 => .ok (.tret h)
        | 1 => .ok (.tretSkip h)
        | _ => .error .function)
  | 0xF2 =>
    need (r.fn == 0) .function (need (r.b == 0 && hi) .field (.ok (.rqrd h (operandOf r.d) (operandOf r.a) lo)))
  | 0xF3 =>
    need (r.fn == 0) .function (need (r.d == 0 && hi) .field (.ok (.rqwr h (operandOf r.a) (operandOf r.b) lo)))
  | 0xF4 =>
    need (r.fn == 0) .function (need (r.zero true false true true) .field (.ok (.rqdel h (operandOf r.a))))
  | 0xF5 =>
    take (sIdx r.d) .operand fun d =>
    need (r.fn == 0) .function (need (r.zero false true true false && hi) .field (.ok (.cxrd h d lo)))
  | 0xF6 =>
    need (r.fn == 0) .function (need (r.zero true true false false && hi) .field (.ok (.cxwr h (operandOf r.b) lo)))
  | _ => .error .opcode

/-- The instruction of a word's fields, operands not yet judged (R67). -/
def parse (r : Raw) : Except DecodeError Instr :=
  need (r.rsv == 0) .field
    (match r.op / 16 with
      | 0x0 => parseControl r
      | 0x1 | 0x2 | 0x3 | 0x4 | 0x5 | 0x6 | 0x7 => parseLane r
      | 0x8 => parseMemory r
      | 0xA => parseEngine r
      | 0xB => parseMatrix r
      | 0xC => parseUnits r
      | 0xD => parseCounters r
      | 0xE => parsePool r
      | 0xF => parseTrap r
      | _ => .error .opcode)

/-- Decodes a 96-bit word (R64): what it refuses raises ILLEGAL wherever it is reached. -/
def decodeWord (w : BitVec 96) : Except DecodeError Instr :=
  match parse (Raw.ofNat w.toNat) with
  | .ok x => if x.wf then .ok x else .error .operand
  | .error e => .error e

/-- Little-endian value of a byte list (R5). -/
def leWord : List Byte → Nat
  | [] => 0
  | b :: t => b.toNat + 256 * leWord t

/-- Decodes the first 12 bytes of a list and gives the rest (R48, R61). -/
def decode (bs : List Byte) : Except DecodeError (Instr × List Byte) :=
  if bs.length < 12 then .error .tooShort
  else
    match decodeWord (BitVec.ofNat 96 (leWord (bs.take 12))) with
    | .ok x => .ok (x, bs.drop 12)
    | .error e => .error e

/-- The 12 bytes of a word, lowest address first (R48). -/
def wordBytes (w : BitVec 96) : List Byte := (List.range 12).map (fun k => BitVec.ofNat 8 (w.toNat / 2 ^ (8 * k)))

/-- The instruction that the decoder reads from bits `w`, bit 0 the least significant bit of the lowest byte; bits
above `nbits` are zero. -/
def decodeTableWord (nbits w : Nat) : Option Instr :=
  match decode (wordBytes (BitVec.ofNat 96 (w % 2 ^ nbits))) with
  | .ok (x, _) => some x
  | .error _ => none

/-! The encoder. -/

/-- TYPE codes (R54). -/
def typeCode (x : ElemType) : Nat :=
  match x with
  | .b32 => 0
  | .i8 => 1
  | .n8 => 2
  | .i16 => 3
  | .n16 => 4
  | .i32 => 5
  | .n32 => 6
  | .i64 => 7
  | .n64 => 8
  | .f16 => 9
  | .bf16 => 10
  | .f32 => 11
  | .e4m3 => 12
  | .e5m2 => 13
  | .e2m1 => 14
  | .t8 => 15
  | .t6 => 16
  | .e8m0 => 17
  | .b64 => 18

/-- RND codes (R55). -/
def rndCode (x : Rnd) : Nat :=
  match x with
  | .rne => 0
  | .rz => 1
  | .rup => 2
  | .rdn => 3
  | .rst => 4

/-- SCOPE codes (R60). -/
def scopeCode (x : Scope) : Nat :=
  match x with
  | .wave => 0
  | .group => 1
  | .gang => 2
  | .cluster => 3
  | .device => 4
  | .system => 5

/-- CACHE codes (R186). -/
def cacheCode (x : Cache) : Nat :=
  match x with
  | .dflt => 0
  | .ro => 1
  | .stream => 2
  | .nofill => 3
  | .keep => 4

/-- ORDER codes (R187). -/
def orderCode (x : MOrder) : Nat :=
  match x with
  | .relaxed => 0
  | .acquire => 1
  | .release => 2
  | .acqrel => 3

/-- BUF codes (R183). -/
def bufCode (x : Buf) : Nat :=
  match x with
  | .wb => 0
  | .ab => 1
  | .cb => 2

/-- OPC codes (R197). -/
def atomOpcCode (x : AtomOpc) : Nat :=
  match x with
  | .add => 0
  | .min => 1
  | .max => 2
  | .and => 3
  | .or => 4
  | .xor => 5
  | .exch => 6

/-- Relations (R115). -/
def relCode (x : Rel) : Nat :=
  match x with
  | .eq => 0
  | .ne => 1
  | .lt => 2
  | .le => 3
  | .gt => 4
  | .ge => 5
  | .un => 6
  | .ord => 7

/-- Conditions of BRV (R134). -/
def brvCode (x : BrvWhen) : Nat :=
  match x with
  | .any => 0
  | .all => 1
  | .none => 2

/-- Modes of SHFL (R131). -/
def shflCode (x : ShflMode) : Nat :=
  match x with
  | .idx => 0
  | .up => 1
  | .down => 2
  | .xor => 3

/-- Kinds of VOTE (R131). -/
def voteCode (x : VoteKind) : Nat :=
  match x with
  | .any => 0
  | .all => 1
  | .uni => 2

/-- Reductions (R132). -/
def redCode (x : RedOp) : Nat :=
  match x with
  | .add => 0
  | .min => 1
  | .max => 2
  | .and => 3
  | .or => 4
  | .xor => 5
  | .fadd => 6
  | .fmin => 7
  | .fmax => 8

/-- Paths of DRAIN (R183). -/
def drainCode (x : DrainPath) : Nat :=
  match x with
  | .wb => 0
  | .ab => 1
  | .cb => 2
  | .global => 3

/-- What REGQRY reads (R97). -/
def qryCode (x : QryWhat) : Nat :=
  match x with
  | .own => 0
  | .free => 1
  | .claims => 2

/-- An operand field (R49). -/
def operandCode (o : Operand) : Nat :=
  match o with
  | .v n => n.toNat
  | .s n => 256 + n.toNat
  | .x c => 512 + c.toNat
  | .i k => 768 + k.toNat

/-- The fields of a word with its header (R48). -/
def rawOf (h : Hdr) (op fn d a b ext : Nat) : Raw :=
  ⟨op, fn, d, a, b, h.guard.en, h.guard.neg, h.guard.reg, h.look, h.ra, h.rb, 0, ext⟩

/-- A word from its fields (R48). -/
def Raw.toNat (r : Raw) : Nat :=
  r.op * 2 ^ 88 + r.fn * 2 ^ 84 + r.d * 2 ^ 74 + r.a * 2 ^ 64 + r.b * 2 ^ 54 + r.ge.toNat * 2 ^ 53
    + r.gn.toNat * 2 ^ 52 + r.greg.toNat * 2 ^ 44 + r.look.toNat * 2 ^ 40 + r.ra.toNat * 2 ^ 39
    + r.rb.toNat * 2 ^ 38 + r.rsv * 2 ^ 36 + r.ext

def sCode (n : BitVec 8) : Nat := 256 + n.toNat

/-- The Typed layout: TYPE, RND and the entry's field of EXT (R60). -/
def rawLane (op fn : Nat) (o : LaneOp) (low : Nat) : Raw :=
  rawOf o.h op fn (operandCode o.d) (operandCode o.a) (operandCode o.b)
    (typeCode o.ty * 2 ^ 31 + rndCode o.rnd * 2 ^ 28 + low)

/-- The C field (R106). -/
def cLow (c : Operand) : Nat := operandCode c * 2 ^ 8

/-- The Memory layout. -/
def rawMem (op fn : Nat) (m : MemOp) : Raw :=
  rawOf m.h op (fn + m.a64.toNat * 8) (operandCode m.d) (operandCode m.a) (operandCode m.b)
    (typeCode m.ty * 2 ^ 31 + cacheCode m.cache * 2 ^ 28 + m.disp.toNat)

/-- The Atomic layout. -/
def rawAtomic (op fn : Nat) (m : AtomOp) : Raw :=
  rawOf m.h op (fn + m.a64.toNat * 8) (operandCode m.d) (operandCode m.a) (operandCode m.b)
    (typeCode m.ty * 2 ^ 31 + scopeCode m.scope * 2 ^ 28 + orderCode m.order * 2 ^ 26 + m.disp.toNat)

/-- The matrix sub-fields. -/
def matExt (m : MatOp) (spec : Nat) : Nat :=
  m.fb.toNat * 2 ^ 29 + m.wait.toNat * 2 ^ 13 + m.setEn.toNat * 2 ^ 12 + m.set.toNat * 2 ^ 8 + spec

/-- The fields of COPY. -/
def rawCopy (fn : Nat) (c : CopyOp) : Raw :=
  rawOf c.h 0xA0 fn (sCode c.d) (sCode c.a) (operandCode c.b)
    (c.sk.toNat * 2 ^ 34 + c.dk.toNat * 2 ^ 32 + c.pbuf.toNat * 2 ^ 31 + c.pgrp.toNat * 2 ^ 25 + c.pab.toNat * 2 ^ 21
      + c.trn.toNat * 2 ^ 20 + c.tw.toNat * 2 ^ 18 + c.kgm1.toNat * 2 ^ 6 + c.gen.toNat * 2 ^ 5 + c.gpol.toNat * 2 ^ 4
      + c.gsl.toNat)

/-- The fields of an instruction's word, from the encoding tables of its entry; an event has no word. -/
def unparse (x : Instr) : Option Raw :=
  match x with
  | .nop h => some (rawOf h 0x00 0 0 0 0 0)
  | .bra h off => some (rawOf h 0x01 0 0 0 0 off.toNat)
  | .braCond h c off nz => some (rawOf h 0x01 (if nz then 1 else 2) 0 (operandCode c) 0 off.toNat)
  | .brv h a off w => some (rawOf h 0x02 (brvCode w) 0 a.toNat 0 off.toNat)
  | .bru h a off inv => some (rawOf h 0x03 inv.toNat 0 a.toNat 0 off.toNat)
  | .bruReg h a => some (rawOf h 0x03 2 0 a.toNat 0 0)
  | .call h d off => some (rawOf h 0x04 0 (sCode d) 0 0 off.toNat)
  | .ret h a => some (rawOf h 0x05 0 0 (sCode a) 0 0)
  | .jmpi h a b => some (rawOf h 0x06 0 0 (sCode a) (operandCode b) 0)
  | .vmask h d a inv => some (rawOf h 0x07 inv.toNat (operandCode d) a.toNat 0 0)
  | .bar h sc => some (rawOf h 0x08 0 0 0 0 (scopeCode sc * 2 ^ 28))
  | .yield h => some (rawOf h 0x09 0 0 0 0 0)
  | .halt h => some (rawOf h 0x0A 0 0 0 0 0)
  | .add o => some (rawLane 0x10 0 o 0)
  | .sub o => some (rawLane 0x11 0 o 0)
  | .mul o => some (rawLane 0x12 0 o 0)
  | .mulhi o => some (rawLane 0x13 0 o 0)
  | .mad o => some (rawLane 0x14 0 o 0)
  | .div o => some (rawLane 0x15 0 o 0)
  | .rem o => some (rawLane 0x16 0 o 0)
  | .min o => some (rawLane 0x17 0 o 0)
  | .max o => some (rawLane 0x18 0 o 0)
  | .abs o => some (rawLane 0x19 0 o 0)
  | .neg o => some (rawLane 0x1A 0 o 0)
  | .and o => some (rawLane 0x1C 0 o 0)
  | .or o => some (rawLane 0x1D 0 o 0)
  | .xor o => some (rawLane 0x1E 0 o 0)
  | .andn o => some (rawLane 0x1F 0 o 0)
  | .not o => some (rawLane 0x20 0 o 0)
  | .shl o => some (rawLane 0x21 0 o 0)
  | .shr o => some (rawLane 0x22 0 o 0)
  | .sar o => some (rawLane 0x23 0 o 0)
  | .bfi o => some (rawLane 0x26 0 o 0)
  | .popc o => some (rawLane 0x27 0 o 0)
  | .clz o => some (rawLane 0x28 0 o 0)
  | .ctz o => some (rawLane 0x29 0 o 0)
  | .brev o => some (rawLane 0x2A 0 o 0)
  | .pfxpop o => some (rawLane 0x2B 0 o 0)
  | .isect o => some (rawLane 0x2C 0 o 0)
  | .setv o => some (rawLane 0x32 0 o 0)
  | .mkv o => some (rawLane 0x33 0 o 0)
  | .inv o => some (rawLane 0x34 0 o 0)
  | .isv o => some (rawLane 0x35 0 o 0)
  | .mov o => some (rawLane 0x36 0 o 0)
  | .fadd o => some (rawLane 0x40 0 o 0)
  | .fsub o => some (rawLane 0x41 0 o 0)
  | .fmul o => some (rawLane 0x42 0 o 0)
  | .ffma o => some (rawLane 0x43 0 o 0)
  | .fmin o => some (rawLane 0x44 0 o 0)
  | .fmax o => some (rawLane 0x45 0 o 0)
  | .fabs o => some (rawLane 0x46 0 o 0)
  | .fneg o => some (rawLane 0x47 0 o 0)
  | .fdiv o => some (rawLane 0x48 0 o 0)
  | .fsqrt o => some (rawLane 0x49 0 o 0)
  | .frcp o => some (rawLane 0x4A 0 o 0)
  | .frsq o => some (rawLane 0x4B 0 o 0)
  | .fexp2 o => some (rawLane 0x4C 0 o 0)
  | .flog2 o => some (rawLane 0x4D 0 o 0)
  | .fsin o => some (rawLane 0x4E 0 o 0)
  | .fcos o => some (rawLane 0x4F 0 o 0)
  | .fclass o => some (rawLane 0x51 0 o 0)
  | .fdp4 o => some (rawLane 0x52 0 o 0)
  | .ftanh o => some (rawLane 0x53 0 o 0)
  | .frnd o => some (rawLane 0x54 0 o 0)
  | .addsat o sub => some (rawLane 0x1B sub.toNat o 0)
  | .rot o right => some (rawLane 0x24 right.toNat o 0)
  | .bfe o sign => some (rawLane 0x25 sign.toNat o 0)
  | .bclr o low => some (rawLane 0x2D low.toNat o 0)
  | .dot4 o mix => some (rawLane 0x2E mix.toNat o 0)
  | .cmp o r => some (rawLane 0x30 (relCode r) o 0)
  | .sel o c => some (rawLane 0x31 0 o (cLow c))
  | .movi h d ty imm => some (rawOf h 0x37 0 (operandCode d) 0 0 (typeCode ty * 2 ^ 31 + imm.toNat))
  | .movh h d imm => some (rawOf h 0x38 0 (operandCode d) 0 0 imm.toNat)
  | .fcmp o r => some (rawLane 0x50 (relCode r) o 0)
  | .cvt o fr => some (rawLane 0x60 0 o (typeCode fr * 2 ^ 23))
  | .pack o fr slot => some (rawLane 0x61 0 o (typeCode fr * 2 ^ 23 + slot.toNat * 2 ^ 20))
  | .unpack o fr idx => some (rawLane 0x62 0 o (typeCode fr * 2 ^ 23 + idx.toNat * 2 ^ 20))
  | .blkpk o fr len scale => some (rawLane 0x63 0 o (typeCode fr * 2 ^ 23 + len.toNat * 2 ^ 18 + cLow scale))
  | .blkup o fr => some (rawLane 0x64 0 o (typeCode fr * 2 ^ 23))
  | .shfl o m mask => some (rawLane 0x70 (shflCode m) o (cLow mask))
  | .ballot o mask => some (rawLane 0x71 0 o (cLow mask))
  | .vote o k mask => some (rawLane 0x72 (voteCode k) o (cLow mask))
  | .redux o op mask => some (rawLane 0x73 (redCode op) o (cLow mask))
  | .scan o op excl mask => some (rawLane 0x74 (redCode op + excl.toNat * 8) o (cLow mask))
  | .v2s o => some (rawLane 0x75 0 o 0)
  | .matchLanes o mask => some (rawLane 0x76 0 o (cLow mask))
  | .firstl o mask => some (rawLane 0x77 0 o (cLow mask))
  | .ld m => some (rawMem 0x80 0 m)
  | .st m => some (rawMem 0x81 0 m)
  | .lds m => some (rawMem 0x82 0 m)
  | .sts m => some (rawMem 0x83 0 m)
  | .ldtb m buf => some (rawMem 0x84 (bufCode buf) m)
  | .sttb m buf => some (rawMem 0x85 (bufCode buf) m)
  | .ldc m buf => some (rawMem 0x86 (bufCode buf) m)
  | .stc m buf => some (rawMem 0x87 (bufCode buf) m)
  | .atom m op => some (rawAtomic 0x88 (atomOpcCode op) m)
  | .cas m => some (rawAtomic 0x89 0 m)
  | .red m op => some (rawAtomic 0x8A (atomOpcCode op) m)
  | .fence h k sc =>
    some (rawOf h 0x8B (match k with | .acq => 1 | .rel => 2 | .acqrel => 3) 0 0 0 (scopeCode sc * 2 ^ 28))
  | .pref m => some (rawMem 0x8C 0 m)
  | .pgreq h tok a64 a b disp =>
    some (rawOf h 0x8D (a64.toNat * 8) tok.toNat (operandCode a) (operandCode b) disp.toNat)
  | .drain h p => some (rawOf h 0x8F (drainCode p) 0 0 0 0)
  | .copy c => some (rawCopy 0 c)
  | .copyIndexed c => some (rawCopy 1 c)
  | .copyChecksum c => some (rawCopy 2 c)
  | .gset h n c => some (rawOf h 0xA1 0 0 (operandCode c) 0 n.toNat)
  | .gclr h n => some (rawOf h 0xA2 0 0 0 0 n.toNat)
  | .gclrFree h n => some (rawOf h 0xA2 1 0 0 0 n.toNat)
  | .xkick h e v => some (rawOf h 0xA3 0 0 (operandCode e) (operandCode v) 0)
  | .tlwait h e v => some (rawOf h 0xA4 0 0 (operandCode e) (operandCode v) 0)
  | .tlwaitToken h e v tok => some (rawOf h 0xA4 1 0 (operandCode e) (operandCode v) tok.toNat)
  | .tlread h d e => some (rawOf h 0xA5 0 (sCode d) (operandCode e) 0 0)
  | .mma m c a b => some (rawOf m.h 0xB0 0 (sCode c) (sCode a) (sCode b) (matExt m 0))
  | .mmas m c a b nsp => some (rawOf m.h 0xB1 0 (sCode c) (sCode a) (sCode b) (matExt m nsp.toNat))
  | .mmae m c a b => some (rawOf m.h 0xB2 0 (sCode c) (sCode a) (sCode b) (matExt m 0))
  | .mmaeSparse m c a b nsp => some (rawOf m.h 0xB2 1 (sCode c) (sCode a) (sCode b) (matExt m nsp.toNat))
  | .mzero m c mtClr mtk => some (rawOf m.h 0xB3 0 (sCode c) 0 0 (matExt m (mtClr.toNat * 4 + mtk.toNat)))
  | .mcvt m d c rnd => some (rawOf m.h 0xB4 0 (sCode d) (sCode c) 0 (matExt m (rndCode rnd)))
  | .mmerge m c p t => some (rawOf m.h 0xB5 0 (sCode c) (sCode p) (sCode t) (matExt m 0))
  | .dectab m a slot => some (rawOf m.h 0xB6 0 0 (sCode a) 0 (matExt m slot.toNat))
  | .mwait h d wait => some (rawOf h 0xB7 0 (sCode d) 0 0 (wait.toNat * 2 ^ 13))
  | .ncall h tok d a hnd nin1 nout1 =>
    some (rawOf h 0xC0 0 d.toNat a.toNat (operandCode hnd) (nin1.toNat * 2 ^ 16 + nout1.toNat * 2 ^ 12 + tok.toNat))
  | .wpin h d hnd => some (rawOf h 0xC1 0 (sCode d) (operandCode hnd) 0 0)
  | .wunpin h hnd => some (rawOf h 0xC2 0 0 (operandCode hnd) 0 0)
  | .wpref h hnd => some (rawOf h 0xC3 0 0 (operandCode hnd) 0 0)
  | .wprefDrop h hnd => some (rawOf h 0xC3 1 0 (operandCode hnd) 0 0)
  | .trace h tok d a b => some (rawOf h 0xC4 0 d.toNat a.toNat (sCode b) tok.toNat)
  | .traceNext h tok d a => some (rawOf h 0xC4 1 d.toNat a.toNat 0 tok.toNat)
  | .trend h d => some (rawOf h 0xC5 0 d.toNat 0 0 0)
  | .gemit h a => some (rawOf h 0xC6 0 0 a.toNat 0 0)
  | .gdone h => some (rawOf h 0xC7 0 0 0 0 0)
  | .abinit h n bytes arr => some (rawOf h 0xD0 0 0 (operandCode bytes) (operandCode arr) n.toNat)
  | .abinitReset h n => some (rawOf h 0xD0 1 0 0 0 n.toNat)
  | .abinitFree h n => some (rawOf h 0xD0 2 0 0 0 n.toNat)
  | .abarr h n g cnt => some (rawOf h 0xD1 0 0 (operandCode g) (operandCode cnt) n.toNat)
  | .abwait h n d p => some (rawOf h 0xD2 0 (sCode d) (operandCode p) 0 n.toNat)
  | .tkwait h d a v sc => some (rawOf h 0xD3 0 (sCode d) (sCode a) (operandCode v) (scopeCode sc * 2 ^ 28))
  | .tkadv h d a n sc => some (rawOf h 0xD4 0 (sCode d) (sCode a) (operandCode n) (scopeCode sc * 2 ^ 28))
  | .ctnew h d p => some (rawOf h 0xD5 0 (sCode d) (operandCode p) 0 0)
  | .ctenr h d n b => some (rawOf h 0xD6 0 (sCode d) (sCode n) (sCode b) 0)
  | .ctread h d n => some (rawOf h 0xD7 0 (sCode d) (sCode n) 0 0)
  | .ctsettle h n => some (rawOf h 0xD8 0 0 (sCode n) 0 0)
  | .ctrepar h d n p => some (rawOf h 0xD9 0 (sCode d) (sCode n) (operandCode p) 0)
  | .ctleave h d n b => some (rawOf h 0xDA 0 (sCode d) (sCode n) (sCode b) 0)
  | .ctfree h d n => some (rawOf h 0xDB 0 (sCode d) (sCode n) 0 0)
  | .regrel h n => some (rawOf h 0xE0 0 0 0 0 n.toNat)
  | .regrelS h a => some (rawOf h 0xE0 1 0 (sCode a) 0 0)
  | .regclm h n => some (rawOf h 0xE1 0 0 0 0 n.toNat)
  | .regclmS h a => some (rawOf h 0xE1 1 0 (sCode a) 0 0)
  | .regqry h d w => some (rawOf h 0xE2 (qryCode w) (sCode d) 0 0 0)
  | .waitq h d tok => some (rawOf h 0xE3 0 (sCode d) 0 0 tok.toNat)
  | .recruit h d want any => some (rawOf h 0xE4 any.toNat (sCode d) (operandCode want) 0 0)
  | .hget h d a => some (rawOf h 0xE5 0 (operandCode d) (operandCode a) 0 0)
  | .hred h r a op ty rnd =>
    some (rawOf h 0xE6 (redCode op) r.toNat (operandCode a) 0 (typeCode ty * 2 ^ 31 + rndCode rnd * 2 ^ 28))
  | .hjoin h d => some (rawOf h 0xE7 0 (sCode d) 0 0 0)
  | .hexit h => some (rawOf h 0xE8 0 0 0 0 0)
  | .hrel h => some (rawOf h 0xE9 0 0 0 0 0)
  | .pollq h d tok => some (rawOf h 0xEA 0 (sCode d) 0 0 tok.toNat)
  | .trap h code => some (rawOf h 0xF0 0 0 0 0 code.toNat)
  | .tret h => some (rawOf h 0xF1 0 0 0 0 0)
  | .tretSkip h => some (rawOf h 0xF1 1 0 0 0 0)
  | .rqrd h d e fld => some (rawOf h 0xF2 0 (operandCode d) (operandCode e) 0 fld.toNat)
  | .rqwr h e v fld => some (rawOf h 0xF3 0 0 (operandCode e) (operandCode v) fld.toNat)
  | .rqdel h e => some (rawOf h 0xF4 0 0 (operandCode e) 0 0)
  | .cxrd h d item => some (rawOf h 0xF5 0 (sCode d) 0 0 item.toNat)
  | .cxwr h v item => some (rawOf h 0xF6 0 0 0 (operandCode v) item.toNat)
  | _ => none

/-- The word of an instruction (R48); an event has none. -/
def encode (x : Instr) : Option (BitVec 96) :=
  match unparse x with
  | some r => some (BitVec.ofNat 96 r.toNat)
  | none => none

end Sys2Proof
end

