-- ==== Sys2Proof/Machine/State.lean ====
section
/-! DEFINITION. The state of the machine as plain data, and the machine right after reset. -/

namespace Sys2Proof.Machine

/-- Bytes by address, in canonical form: addresses strictly rising, no byte 0 (an unlisted byte reads 0). -/
abbrev Mem := List Host.Cell

/-- A vector register: one word for each of 32 lanes (R86). -/
abbrev VReg := List RWord

/-- A register name, as dependence compares them (R24). -/
inductive Reg where
  | v (n : Nat)
  | s (n : Nat)
deriving DecidableEq, Repr

/-- Trap causes (R394), in code order from 1. -/
inductive Cause where
  | illegal | pcrange | lookahead | regbound | uniformity | member | tokbusy | rangefault | misalign | dataerr
  | bufrange | poolarg | regdead | helperfault | guardstate | engperm | matarg | matfault | malformed | gridstate
  | rayarg | ctarg | abarg | abstate | swtrap | rqarg | hredarg
deriving DecidableEq, Repr

/-- STATE of a token register (R93). -/
inductive TokState where
  | empty | pending | ready
deriving DecidableEq, Repr

/-- A token register (R93). `fail` is set while the outputs of its NCALL or TRACE hold a failure not yet
reported (R287); `tl` marks a token of TLWAIT, whose consumer acquires (R307). -/
structure Token where
  st : TokState
  valid : Bool
  value : Word
  fail : Bool
  tl : Bool
deriving DecidableEq, Repr

/-- A lookahead window (R23): how many following instructions it still covers, what its instruction writes, and
its PC. -/
structure Window where
  left : Nat
  regs : List Reg
  pc : Word
deriving DecidableEq, Repr

/-- State of a replay entry (R400). -/
inductive EntState where
  | waiting | landed | failed
deriving DecidableEq, Repr

/-- A long-latency instruction that has not finished (R400), also an entry of the replay queue (R401). `lanes`
acts, `wlanes` are the lanes whose destinations are written (nullified ones included), `res` holds the result
words of each destination register, `waits` the park or remote numbers it still awaits, `bad` the lanes that
read uncorrectable bytes. `addr` holds the address words and `data` the other consumed words, each with its validity. -/
structure Entry where
  id : Nat
  word : BitVec 96
  pc : Word
  uniform : Bool
  st : EntState
  lanes : Word
  wlanes : Word
  addr : List VReg
  data : List VReg
  res : List VReg
  dests : List Reg
  waits : List Nat
  bad : Word
  badAddr : BitVec 64
deriving DecidableEq, Repr

/-- What a wave waits for (R266, R410). `remote` is the wait of an instruction for accesses, and `parked` that of one which is
a blocking point for parked accesses only (R266); `merges` is the wait of a load at its home slices, each line that it has reached
with the number that was next when it did: the merges with lower numbers come first (R170); `drain` is the wait of DRAIN for what was
issued before `seq` (R211), `answer` the wait of a containment instruction for firmware (R372), and `busy` any other wait that is no
blocking point. -/
inductive Wait where
  | none
  | bar (gen : Nat)
  | abwait (b phase : Nat)
  | waitq (tok : Nat)
  | tlwait (e : Nat) (v : Nat)
  | tkwait (va v : Nat)
  | regclm (n : Nat)
  | gemit
  | drain (seq : Nat)
  | remote (ids : List Nat)
  | parked (ids : List Nat)
  | merges (reached : List (Nat × Nat))
  | yield (scyc : Nat)
  | slots (mask : BitVec 16)
  | answer
  | busy
deriving DecidableEq, Repr

/-- A fault of a helper lane, charged to the recruiter (R157). -/
structure HFault where
  h : Nat
  cause : Cause
  pc : Word
  addr : BitVec 64
  word : BitVec 96
deriving DecidableEq, Repr

/-- A recruiter register named by HRED (R154). -/
structure HTarget where
  reg : Nat
  op : RedOp
  ty : ElemType
  rnd : Rnd
deriving DecidableEq, Repr

/-- A helper's partial for a recruiter register (R154). -/
structure HPartial where
  h : Nat
  reg : Nat
  val : Val
deriving DecidableEq, Repr

/-- An instruction that a front end has taken (R19): its PC and its word; for one that it has pushed, the scalar and immediate values
captured at the push (R20, R409); for one that it has executed itself (`front`), the scalar registers it wrote. `specials` holds
the special operands that it read, each with its value (R53). -/
structure QEnt where
  pc : Word
  word : BitVec 96
  front : Bool
  vals : List RWord
  sets : List (Nat × RWord)
  specials : List (Nat × BitVec 64)
deriving DecidableEq, Repr

/-- How far a front end stands ahead of its program order (R19 to R22): its PC, the instructions it has taken from the one at
the program order's PC on, whether the first of them has issued, and whether it has pushed HALT. -/
structure Ahead where
  pc : Word
  taken : List QEnt
  issued : Bool
  halted : Bool
deriving DecidableEq, Repr

/-- A part of a team (R150): the own part (`lender = none`) or the part a lending wave owns. `faulted` are its halted lanes
(R157), `owed` the accesses it has issued whose completion it awaits, and `stopping` tells that it issues no more and is
released at its boundary (R156). `drain` is where a DRAIN that waits in it began (R211), `reached` what a load that waits in it has
reached, as in `Wait.merges`, and `ahead` its front end where that stands ahead. -/
structure HPart where
  lender : Option WaveId
  lanes : Word
  hbase : Nat
  running : Bool
  pc : Word
  prev : Word
  exec : Word
  s : Tab RWord
  v : Tab VReg
  seed : List Word
  windows : List Window
  inflight : List Entry
  faulted : Word
  owed : List Nat
  stopping : Bool
  drain : Option Nat
  reached : List (Nat × Nat)
  ahead : Option Ahead
deriving DecidableEq, Repr

/-- A helper team (R150, R160). -/
structure Team where
  lane : Nat
  hcount : Nat
  snapV : List RWord
  snapS : List RWord
  parts : List HPart
  completed : Word
  faults : List HFault
  reported : Bool
  targets : List HTarget
  partials : List HPartial
deriving DecidableEq, Repr

/-- The ray of a lane (R332): its geometry, its descriptor and its stack of (node, entry value). -/
structure Ray where
  org : List Word
  dir : List Word
  tmin : Word
  tmax : Word
  base : Nat
  depth : Nat
  lp : Nat
  stack : List (Nat × Word)
deriving DecidableEq, Repr

/-- An NCALL or TRACE whose outputs are scoreboarded (R273, R332): registers `first … first+count-1`, the acting
lanes, those still to land, those whose result is valid, those that failed, and the address of the byte they failed on (R287,
R394). -/
structure OutJob where
  id : Nat
  isTrace : Bool
  tok : Nat
  first : Nat
  count : Nat
  acting : Word
  todo : Word
  ok : Word
  failed : Word
  addr : BitVec 64
deriving DecidableEq, Repr

/-- A latched error of a copy or a remote store (R299, R424): its cause, address and the path whose DRAIN
raises it (none for a peer copy's, which HALT raises); a remote one is raised by a release at system scope too, and `due` tells that
it is of an access that a release fence at system scope orders before every later write of the wave (R205). -/
structure CopyErr where
  remote : Bool
  cause : Cause
  addr : BitVec 64
  path : Option DrainPath
  word : BitVec 96
  pc : Word
  due : Bool
deriving DecidableEq, Repr

/-- What a gang is launched for: a node of a graph, a bound shader of a draw, or the shading of a grid. -/
inductive GangKind where
  | node (n : Nat)
  | bound
  | shade (grid : Nat)
deriving DecidableEq, Repr

/-- The place of a wave in its launch, constant for its life (R12, R14). -/
structure Place where
  stage : Nat
  nlane : Nat
  nwave : Nat
  ngroup : Nat
  gx : Nat
  gy : Nat
  gz : Nat
  ngx : Nat
  ngy : Nat
  ngz : Nat
  part : Nat
  ctx : Nat
  qslot : Nat
  code : Nat
  clen : Nat
  bruFree : Bool
  helper : Option Word
  lend : Bool
  present : Word
  wbSize : Nat
  abSize : Nat
  cbSize : Nat
  kind : GangKind
deriving DecidableEq, Repr

/-- A stream: a wave (R9), or the belay stream of a gang (R214), which uses the scalar part only. `sel` picks the
helper part that executes, if any. `prev` is the PC of the instruction executed last (R62). `fence` lists the
unperformed accesses that an acquire or a fence orders before later stores, and before later loads too where marked (R203,
R209). `ahead` is there while the front end stands ahead of `pc`. -/
structure Wave where
  live : Bool
  id : WaveId
  belay : Bool
  core : Nat
  slot : Nat
  place : Place
  pc : Word
  prev : Word
  exec : Word
  cxm : Word
  seed : List Word
  c : Nat
  v : Tab VReg
  s : Tab RWord
  q : Tab Token
  handler : Bool
  xpc : Word
  xcause : Word
  xword : BitVec 96
  xaddr : BitVec 64
  xlane : Word
  xhpc : Word
  xsave : List Word
  windows : List Window
  inflight : List Entry
  replay : List Entry
  wait : Wait
  halted : Bool
  stopped : Bool
  team : Option Team
  sel : Option Nat
  lentTo : Option WaveId
  rays : Tab Ray
  jobs : List OutJob
  errs : List CopyErr
  fence : List (Nat × Bool)
  gdone : Bool
  request : Option Nat
  ahead : Option Ahead
deriving DecidableEq, Repr

/-- A launch (R14, R44, R355). `initV` and `masks` give the start registers and present lanes of the waves that the
dicing unit places (R314, R317). -/
structure Launch where
  part : Nat
  ctx : Nat
  queue : Nat
  kind : GangKind
  code : Nat
  clen : Nat
  gx : Nat
  gy : Nat
  gz : Nat
  nlane : Nat
  ngrp : Nat
  smap : List Nat
  stab : List (Nat × Nat)
  wb : Nat
  ab : Nat
  cb : Nat
  bruFree : Bool
  helper : Option Nat
  lend : Bool
  belay : Option Nat
  cluster : Option Nat
  initV : List (Tab VReg)
  masks : List Word
deriving DecidableEq, Repr

/-- A pending MMERGE at its destination (R229). `seq` is its place in the order in which operations reach the core. -/
structure Merge where
  seq : Nat
  ticket : Nat
  mtk : Nat
  src : Nat
  dst : Nat
  cDst : List Word
  cSrc : List Word
  m : Nat
  n : Nat
  set : Option Nat
deriving DecidableEq, Repr

/-- A decoder slot (R238): its SST and the frequencies it holds. -/
inductive DSlot where
  | empty
  | loaded (freq : Tab Nat)
  | malformed (freq : Tab Nat)
deriving DecidableEq, Repr

/-- How far a copy in chunks has come (R302, R308): the chunks that are copied and verified, the CRC computed last, and whether it is
that of the next chunk, whose bytes have been copied and whose expected value has not been read yet. -/
structure Sums where
  next : Nat
  crc : Nat
  copied : Bool
deriving DecidableEq, Repr

/-- A command of the copy engine (R295 to R302). `seq` is its place in the order in which operations reach the core, and `sums` how
far a checksum form has come (R302). `asked` lists the VAs from which it has asked other nodes for bytes, and `lost` those whose
request failed (R424). -/
structure CopyCmd where
  seq : Nat
  op : CopyOp
  form : Nat
  wave : WaveId
  word : BitVec 96
  pc : Word
  dst : Nat
  layout : List Word
  src : Nat
  cnt : Nat
  chunk : Nat
  crcVa : Nat
  recVa : Nat
  bound : Bool
  go : Option Bool
  started : Bool
  done : Bool
  waits : List Nat
  sums : Sums
  asked : List Nat
  lost : List Nat
deriving DecidableEq, Repr

/-- State of a held guard slot (R292). -/
inductive GState where
  | unresolved | yes | no
deriving DecidableEq, Repr

/-- A held guard slot and its owner. -/
structure GSlot where
  gang : Nat
  group : Nat
  st : GState
deriving DecidableEq, Repr

/-- A held arrival barrier (R381). -/
structure ABar where
  gang : Nat
  group : Nat
  armed : Bool
  ef : Bool
  ecause : Nat
  phase : Nat
  arr : Int
  pend : Int
deriving DecidableEq, Repr

/-- A group of a gang: its regions, barrier, merge counters, decoder slots, copy queue, and, while its gang is
evicted, its saved guard slots and arrival barriers. -/
structure Grp where
  wb : Mem
  ab : Mem
  cb : Mem
  gen : Nat
  joined : List Nat
  mt : List Nat
  merges : List Merge
  ds : List DSlot
  copyq : List CopyCmd
  guards : Tab GSlot
  bars : Tab ABar
  retired : Bool
deriving DecidableEq, Repr

/-- The first fault of the belay's fault record (R232). -/
structure BFault where
  cause : Cause
  word : BitVec 96
  pc : Word
  group : Nat
  sub : Nat
  segment : Nat
  offset : Nat
deriving DecidableEq, Repr

/-- A dispatched matrix instruction with the words it read at issue: the layouts that its D, A and B name and the
format block (R221). `todo` lists the groups whose cores have yet to perform it, `set` the slot it holds. For an MMAE `prog`
gives the next segment of a group's multiply pass, once its check pass has ended, and `rseg` its restart segment (R246). -/
structure MatJob where
  seq : Nat
  op : Instr
  pc : Word
  d : List Word
  a : List Word
  b : List Word
  fmt : List Word
  set : Option Nat
  todo : List Nat
  prog : List (Nat × Nat)
  rseg : List (Nat × Nat)
deriving DecidableEq, Repr

/-- The belay state of a gang beside its stream's registers (R223, R232). -/
structure Belay where
  pend : List Nat
  cxn : Nat
  fault : Option BFault
  later : Nat
  flight : List MatJob
deriving DecidableEq, Repr

/-- Where a gang is: waiting for its first placement, on cores, saved as an image, or retired. -/
inductive GangState where
  | pending | resident | evicted | retired
deriving DecidableEq, Repr

/-- A gang (R9). `image` is the first page and the number of pages of its saved image (R408); `chosen` tells that it is
chosen for eviction and its helper parts are coming to their end (R156), `leaving` that they have, and that the eviction is past
its first step (R267). -/
structure Gang where
  launch : Launch
  lin : Nat
  st : GangState
  cluster : Nat
  base : Nat
  groups : List Grp
  belay : Option Belay
  image : Option (Nat × Nat)
  chosen : Bool
  leaving : Bool
deriving DecidableEq, Repr

/-- A line of an L1: the IA of its first byte, the page kind it was filled under, its 128 bytes. -/
structure L1Line where
  ia : Nat
  kind : Nat
  data : List Byte
deriving DecidableEq, Repr

/-- A full word slot of an update-only line (R170): `waves` are the waves whose REDs it has combined, `ids` the numbers of
those REDs. -/
structure UpdSlot where
  ia : Nat
  op : AtomOpc
  ty : ElemType
  val : BitVec 64
  waves : List WaveId
  ids : List Nat
  ctx : Nat
deriving DecidableEq, Repr

/-- An entry of the page-kind cache (R180): context, first IA, size and kind of the page. -/
structure KindEnt where
  ctx : Nat
  page : Nat
  size : Nat
  kind : Nat
deriving DecidableEq, Repr

/-- A pending register claim (R100), with the word of its REGCLM. -/
structure Claim where
  wave : WaveId
  slot : Nat
  n : Nat
  need : Nat
  stamp : Nat
  word : BitVec 96
deriving DecidableEq, Repr

/-- A core (R15, R27, R28). `ccBase` is the clock of the core's slice when its CCYC was 0; `hold` counts the registers freed
in this cycle, and `poolUsed` those in use after the grant pass of this cycle (R101, R102). `dead` lists the claims withdrawn for
a REGDEAD that is still to be taken (R103). `efs` lists the free arrival
barriers whose EF is set, with their ECAUSE (R381, R382). -/
structure Core where
  ccBase : Nat
  temp : BitVec 8
  hot : Bool
  droop : Bool
  quiet : Nat
  guards : Tab GSlot
  bars : Tab ABar
  efs : Tab Nat
  l1 : List L1Line
  upd : List UpdSlot
  kinds : List KindEnt
  claims : List Claim
  dead : List Claim
  hold : Nat
  poolUsed : Nat
deriving DecidableEq, Repr

/-- A leaf as an MTU holds it (R341, R343): `frame` is the physical address of the 4 KiB page, `ent` the entry read. -/
structure Leaf where
  cnode : Nat
  frame : Nat
  ord : Nat
  cow : Bool
  cmp : Bool
  w : Bool
  pres : Bool
  level : Nat
  ent : Nat
deriving DecidableEq, Repr

/-- What the home slice of an IA holds of a line (R173, R365): whether it is modified, its containment node, and, of the
translation that filled it, whether its page is compressible and its physical address. Its bytes stand in device memory, and
the cores that hold an update-only copy of it (R170) are those whose `upd` lists one. -/
structure L2Line where
  line : Nat
  dirty : Bool
  cnode : Nat
  cmp : Bool
  pa : Nat
deriving DecidableEq, Repr

/-- Who made a parked access (R345): a wave's entry or store, a copy engine, an engine context, a sampling unit, the host, or
another node. -/
inductive Agent where
  | wave (w : WaveId) (core : Nat) (entry : Option Nat)
  | copyEng (gang group : Nat) (core : Nat)
  | engine (e : Nat)
  | sampler (cl : Nat)
  | host
  | fabric
deriving DecidableEq, Repr

/-- What a parked access does when it performs: a write of bytes, a write of the scheduler, which no rule counts, an atomic on
one word for a lane, the merge of an update-only line (R170), an update of a sample record (R326), or a read. -/
inductive ParkOp where
  | write (bytes : List Host.Cell)
  | quiet (bytes : List Host.Cell)
  | atomic (op : AtomOpc) (ty : ElemType) (lane : Nat) (x : BitVec 64)
  | cas (ty : ElemType) (lane : Nat) (cmp new : BitVec 64)
  | tkadv (n : Word) (dreg : Nat)
  | merge (slots : List UpdSlot)
  | sample (depth attr key : Word)
  | read
deriving DecidableEq, Repr

/-- A parked access (R345, R346). `seq = 0` while it waits for room in the park buffer; `id` never changes; `kind` is
the kind its page had when it parked. -/
structure Parked where
  id : Nat
  seq : Nat
  kind : Nat
  agent : Agent
  ctx : Nat
  ia : Nat
  op : ParkOp
deriving DecidableEq, Repr

/-- A line as its home slice, or an L1, has served it: its bytes, and which of them hold an uncorrectable error. -/
structure LineRead where
  data : List Byte
  bad : List Bool
deriving DecidableEq, Repr

/-- A line that a home slice has served a copy engine or a transform engine, for the read that it makes (R170, R298). -/
structure Reply where
  part : Nat
  agent : Agent
  line : Nat
  read : LineRead
deriving DecidableEq, Repr

/-- A page request of PGREQ (R213, R347). -/
structure PgReq where
  rseq : Nat
  ctx : Nat
  page : Nat
  verdict : Option Bool
deriving DecidableEq, Repr

/-- A PGREQ whose token waits for its pages (R213): each page, by its first 4 KiB page, with the lanes it stands for. -/
structure PgWait where
  wave : WaveId
  tok : Nat
  pages : List (Nat × Word × Option Bool)
deriving DecidableEq, Repr

/-- A containment request posted to firmware (R372), and the RESULT that answered it (R373). `olds` gives the node that the
leaf of each of its pages held when it was posted, or, of one mapped since, when it was mapped. -/
structure CtReq where
  seq : Nat
  leave : Bool
  node : Nat
  ia : Nat
  pages : Nat
  wave : WaveId
  answer : Option Nat
  olds : List (Nat × Nat)
deriving DecidableEq, Repr

/-- A shoot-down (R349): first page, pages, and whether firmware started it through SDCTL. -/
structure Shoot where
  page : Nat
  n : Nat
  byFw : Bool
deriving DecidableEq, Repr

/-- An import window of a partition (R424). -/
structure ImportWin where
  node : Nat
  ia : Nat
  len : Nat
  off : Nat
  ro : Bool
deriving DecidableEq, Repr

/-- Power states of a partition (R423). -/
inductive Power where
  | noon | dusk | umbra | eclipse
deriving DecidableEq, Repr

/-- A partition: its register window (R415, R416), scheduler, MTUs, L2 slices, tree unit and power state. `rplyIds` are the
accesses that a replay waiting for a shoot-down will retry, and `rplyHeld` those that it has retried and that have neither performed nor
parked again (R348). The translation caches of its MTUs (R343) are `mtu`, leaves by
MTU and 4 KiB page, and `ptrs`, the tables that pointer entries name, by MTU, level and IA above that level's index. -/
structure Partn where
  prst : Bool
  pstop : Bool
  ltol : Word
  power : Power
  dbbase : Nat
  hwbase : Nat
  tagbase : Nat
  evbase : Nat
  evk : Nat
  evw : Nat
  evr : Nat
  hott : Nat
  hyst : Nat
  drpen : Bool
  pslice : Nat
  ptroot : Nat
  frbase : Nat
  frk : Nat
  frw : Nat
  frr : Nat
  sdia : Nat
  sdnpg : Nat
  sdbusy : Bool
  rplybusy : Bool
  rplyIds : List Nat
  rplyHeld : List Nat
  qtbase : Nat
  ctbase : Nat
  ctk : Nat
  imgbase : Nat
  imgpg : Nat
  crgn : Tab (BitVec 64)
  pmeas : List Byte
  scyc : Nat
  rr : List Nat
  parkSeq : Nat
  rseq : Nat
  ctseq : Nat
  parked : List Parked
  parkWait : List Parked
  pgreqs : List PgReq
  pgwaits : List PgWait
  faultQ : List (List Byte)
  eventQ : List (List Byte)
  notifyQ : List Notify
  waking : Bool
  idle : Nat
  windows : Tab ImportWin
  shoots : List Shoot
  mtu : List ((Nat × Nat) × Leaf)
  ptrs : List ((Nat × Nat × Nat) × Nat)
  l2 : List L2Line
  rollup : Tab Nat
  ctreqs : List CtReq
deriving DecidableEq, Repr

/-- A hardware queue slot (R256). `xcyc` is X of R265; `mapped` is the queue it holds, whose pending list is the slot's. -/
structure QSlot where
  en : Bool
  guar : Bool
  admerr : Bool
  queue : Nat
  period : Nat
  budget : Nat
  grace : Nat
  ylead : Nat
  rem : Nat
  dl : Nat
  ovr : Bool
  yreq : Bool
  head : Bool
  work : Bool
  xcyc : Option Nat
  mapped : Option Nat
deriving DecidableEq, Repr

/-- A launch node as the scheduler holds it (R355, R356). -/
structure NodeRun where
  launch : Launch
  init : Nat
  pred : Nat
  succ : List Nat
  nb : Nat
  left : Nat
deriving DecidableEq, Repr

/-- The current command of a queue. -/
inductive Cmd where
  | graph (table : Nat) (nodes : List NodeRun) (status : Nat)
  | draw (cluster : Nat)
  | tlwait (e v : Nat)
deriving DecidableEq, Repr

/-- A user queue as the scheduler knows it (R249, R357 to R359). `hdr` and `recIa` are the header word and the record
address of the current command, as read when it started. -/
structure QRun where
  part : Nat
  known : Bool
  en : Bool
  guar : Bool
  ctx : Nat
  ring : Nat
  k : Nat
  gen : Nat
  widx : Word
  ridx : Word
  status : Nat
  fridx : Word
  cmd : Option Cmd
  hdr : Nat
  recIa : Nat
  pending : List Nat
deriving DecidableEq, Repr

/-- A transform-engine request between its operation and its completion (R306). -/
structure ReqDone where
  opn : Nat
  crec : Bool
  tag : Nat
  status : Nat
  count : Nat
  val : Nat
  done : Nat
  recIa : Nat
deriving DecidableEq, Repr

/-- A token that becomes ready once TL reaches a value (R307). -/
structure TlWatch where
  wave : WaveId
  tok : Nat
  v : Nat
deriving DecidableEq, Repr

/-- Progress of a dedup-copy (R430): NB of its table, 0 while its header has not been read, the next page, the pages shared, those
copied, and whether one met an error. -/
structure Dedup where
  nb : Nat
  page : Nat
  shared : Nat
  copied : Nat
  err : Bool
deriving DecidableEq, Repr

/-- An engine context (R303). `req` is the request taken and not yet performed, `cur` the one performed and not yet
complete; `waits` are the park numbers it awaits, and `sums` tells how far a checksum-copy has come (R302, R308). -/
structure EngCtx where
  en : Bool
  stop : Bool
  err : Bool
  ctx : Nat
  rk : Nat
  base : Nat
  widx : Word
  ridx : Word
  num : Nat
  tl : Nat
  req : Option (List Byte)
  dedup : Dedup
  cur : Option ReqDone
  waits : List Nat
  sums : Sums
  watch : List TlWatch
deriving DecidableEq, Repr

/-- A row of a bin or a tile (R281). -/
structure Row where
  wave : WaveId
  job : Nat
  lane : Nat
  first : Nat
  nout : Nat
  inputs : List Word
  rcyc : Nat
deriving DecidableEq, Repr

/-- A bin of the regroup unit: open, or sealed until the run queue has room (R281, R282). -/
structure Bin where
  ctx : Nat
  handle : Nat
  rows : List Row
  sealed : Bool
deriving DecidableEq, Repr

/-- A tile of the run queue (R282). -/
structure Tile where
  ctx : Nat
  handle : Nat
  rows : List Row
deriving DecidableEq, Repr

/-- An entry of the weight cache (R278, R280). `ia` is where its image was read, and `bad` lists the offsets of cached bytes
that hold an uncorrectable error (R287). -/
structure WSet where
  ctx : Nat
  handle : Nat
  image : List Byte
  pin : Nat
  drop : Bool
  last : Nat
  ia : Nat
  bad : List Nat
deriving DecidableEq, Repr

/-- A call on its way to the bins: its lanes with handle and inputs (R273, R281), and the sets found bad, each with what the
fill found (R277; 9 for an uncorrectable error) and the address of that error. `taken` is set once the intake has accepted
it (R270). -/
structure Call where
  taken : Bool
  core : Nat
  ctx : Nat
  part : Nat
  wave : WaveId
  job : Nat
  first : Nat
  nin : Nat
  nout : Nat
  lanes : List (Nat × Nat × List Word)
  bad : List (Nat × Nat × Nat)
  waits : List Nat
deriving DecidableEq, Repr

/-- A region of a patch (R314) in depth-first order, or a decided grid not yet launched. -/
structure Region where
  p : Nat
  u0 : Word
  u1 : Word
  w0 : Word
  w1 : Word
  splits : Nat
  owner : Option Nat
  grid : Option (Nat × Nat)
deriving DecidableEq, Repr

/-- A grid (R317, R318): its size, number and the records of its vertices. -/
structure Grid where
  gang : Nat
  queue : Nat
  ctx : Nat
  nu : Nat
  nw : Nat
  gseq : Nat
  reserved : Bool
  closed : List Nat
  recs : Tab (List Word)
deriving DecidableEq, Repr

/-- A draw in progress on a cluster (R313). -/
structure DrawRun where
  queue : Nat
  part : Nat
  ctx : Nat
  code : Nat
  bent : Nat
  gent : Nat
  bregs : Nat
  gregs : Nat
  npatch : Nat
  nextPatch : Nat
  rate : Word
  width : Nat
  height : Nat
  spp : Nat
  spat : Nat
  sbuf : Nat
  regions : List Region
  gseq : Nat
deriving DecidableEq, Repr

/-- A superblock of nodes in a traversal unit's node cache (R332): the unit of the cluster, the context and the superblock's
number. The cache affects timing only. -/
structure NodeEnt where
  unit : Nat
  ctx : Nat
  sb : Nat
deriving DecidableEq, Repr

/-- A cluster: belay core owner, regroup unit (R270), dicing and sampling (R312), the node caches of its traversal units. `wanted`
names the NCALLs that a wave has waited for, or for an output of which it has, since the unit last flushed (R282). -/
structure Cluster where
  belayGang : Option Nat
  belayBase : Nat
  rcBase : Nat
  turn : Nat
  intake : List Call
  bins : Tab Bin
  sealOrder : List Nat
  wanted : List (WaveId × Nat)
  runq : List Tile
  cache : List WSet
  useClock : Nat
  draws : List DrawRun
  grids : Tab Grid
  nextGrid : Nat
  nodes : List NodeEnt
deriving DecidableEq, Repr

/-- A neighbour as the Lantern knows it (R424, R425). `heard` tells that a beacon of it has arrived in this period of the own
oscillator. -/
structure Neigh where
  registered : Bool
  missed : Nat
  last : Nat
  heard : Bool
deriving DecidableEq, Repr

/-- The corrected errors of a unit since its last record of each class, and the cycles its own counter still lets pass before
it may post another record (R3, R419). -/
structure CorrCount where
  sram : Nat
  dram : Nat
  quiet : Nat
deriving DecidableEq, Repr

/-- Where the firmware complex stands (R426, R427): it runs, a mismatch has stopped it, its last start has failed, or the
device is in minimal mode. -/
inductive FwState where
  | running | stopped | failed | minimal
deriving DecidableEq, Repr

/-- The device window (R417), the fabric and the Lantern (R424 to R427). `pmap` gives the four bits of PMAP of each slice,
`kick` the ms since firmware last kicked the watchdog. `held` lists the outside accesses that wait for a shoot-down, for Noon
or for room in a notify queue; `arrived` gives, for reads among them, each line that they have reached with the number that was next
when they did (R170); `codeTold` lists the physical addresses of the instruction bytes, and of the page-table entries of fetches, whose
uncorrectable error has its record (R419); `hostReads` and `fabricReads` are the replies given (none where an access is refused, and no byte for
a write), `fabWrites` the accepted writes of other nodes that have not performed, each by its partition and its numbers, `reports`
the attestation reports, `sentResets` the reset messages sent, each with the node it goes to. -/
structure Dev where
  ctxbase : Nat
  tvbase : Nat
  pmap : Tab Nat
  pmapErr : Bool
  herbase : Nat
  herk : Nat
  herw : Nat
  herr : Nat
  herq : List (List Byte)
  hostMem : Mem
  wdt : Nat
  kick : Nat
  fw : FwState
  fails : Nat
  ready : Bool
  bootrec : List Byte
  nodeId : Nat
  routes : Tab Nat
  ms : Nat
  beacon : Nat
  neigh : Tab Neigh
  accepted : List (Nat × Nat)
  sentResets : List (Nat × List Byte)
  manifests : List (List Byte)
  fwDigest : List Byte
  corrected : Tab CorrCount
  reports : List (List Byte)
  hostReads : List (List Byte)
  fabricReads : List (Option (List Byte))
  fabWrites : List (Nat × List Nat)
  held : List Instr
  arrived : List (Instr × List (Nat × Nat))
  codeTold : List Nat
deriving DecidableEq, Repr

/-- An access that has left its agent and has not performed: held by a shoot-down (R349), behind the merges of its line (R170), or by a
sleeping partition (R423). -/
structure HeldStore where
  part : Nat
  acc : Parked
deriving DecidableEq, Repr

/-- A remote access on its way (R424): `len` bytes at `ia` of a node, bytes `pos` up of the access of lane `lane`;
`bytes` is what a write stores, and `entry` the long-latency instruction that awaits a reply. `va`, `word`, `pc` and
`path` are what an error of it reports, and where; `rel` tells that a release fence at system scope orders it before every later
write of its wave (R205). -/
structure Remote where
  id : Nat
  wave : WaveId
  entry : Option Nat
  node : Nat
  ia : Nat
  len : Nat
  lane : Nat
  pos : Nat
  bytes : List Byte
  va : Nat
  word : BitVec 96
  pc : Word
  path : Option DrainPath
  age : Nat
  rel : Bool
deriving DecidableEq, Repr

/-- A byte of an SRAM: of an L2 line, by its physical address; of the L1 of a core, by its IA; of a typed buffer of a group; or
of a record of a grid in the grid buffer of a cluster (R335, R419). -/
inductive SramByte where
  | l2 (pa : Nat)
  | l1 (core ia : Nat)
  | buf (gang group : Nat) (b : Buf) (off : Nat)
  | grid (cl g rec : Nat)
deriving DecidableEq, Repr

/-- The machine. `w` is the stream that has the turn and `waves` are all other streams; `inbox` holds the events
that happen next, `turn` the streams still to run in this round (a wave, or a helper part of its team). `clock` counts the cycles of
each slice's cores. `stores` holds the accesses that have left their agents and are held, `replies` the lines that engines have been
served for a read that is not complete. `ecc` lists the physical addresses that hold an uncorrectable error, and `sram` the bytes of
SRAMs that hold one (R419). `fresh` numbers free values. -/
structure State where
  w : Wave
  waves : List Wave
  gangs : Tab Gang
  nextGang : Nat
  nextId : Nat
  inbox : List Instr
  turn : List (WaveId × Option Nat)
  mem : Mem
  cairn : Mem
  ecc : List Nat
  sram : List SramByte
  clock : Tab Nat
  cores : Tab Core
  parts : Tab Partn
  slots : Tab QSlot
  queues : Tab QRun
  engs : Tab EngCtx
  clusters : Tab Cluster
  dev : Dev
  stores : List HeldStore
  replies : List Reply
  remotes : List Remote
  fresh : Nat
deriving DecidableEq, Repr

/-- Why a step can stop. -/
inductive Fault where
  /-- Raised by an instruction when no stream holds the turn: no run reaches it, since `step` executes an
  instruction for a live stream only. Safe. -/
  | noStream
  /-- Raised by `step` when the code page of the next instruction does not translate: the manual does not say
  what a fetch from an unfit page does (R61 to R63). Safe. -/
  | codeUnmapped
deriving DecidableEq, Repr

/-- Why a step can refuse. -/
inductive Refusal where
  /-- Raised by an arm of `exec` that has no meaning yet. Safe. -/
  | notModelled (mnemonic : String)
deriving DecidableEq, Repr

/-- Core state right after core reset (R28, R104, R182). -/
def Core.reset : Core := ⟨0, 0, false, false, 0, [], [], [], [], [], [], [], [], 0, 0⟩

/-- Queue slot after partition reset (R256). -/
def QSlot.reset : QSlot := ⟨false, false, false, 0, 0, 0, 0, 0, 0, 0, false, false, false, false, none, none⟩

/-- Engine context after partition reset (R303). -/
def EngCtx.reset : EngCtx := ⟨false, false, false, 0, 0, 0, 0, 0, 0, 0, none, ⟨0, 0, 0, 0, false⟩, none, [], ⟨0, 0, false⟩, []⟩

/-- A user queue the scheduler has not read yet. -/
def QRun.reset : QRun := ⟨0, false, false, false, 0, 0, 4, 0, 0, 0, 0, 0, none, 0, 0, []⟩

/-- Cluster after cluster reset (R270, R291, R338). -/
def Cluster.reset : Cluster := ⟨none, 0, 0, 0, [], [], [], [], [], [], 0, [], [], 0, []⟩

/-- Partition after partition reset: every register 0 but HOTT 95, HYST 5, DRPEN 1 (R29) and PSLICE 100,000
(R260); the park, page-request and containment sequences give 1 next. -/
def Partn.reset : Partn where
  prst := false
  pstop := false
  ltol := 0
  power := .noon
  dbbase := 0
  hwbase := 0
  tagbase := 0
  evbase := 0
  evk := 0
  evw := 0
  evr := 0
  hott := 95
  hyst := 5
  drpen := true
  pslice := 100000
  ptroot := 0
  frbase := 0
  frk := 0
  frw := 0
  frr := 0
  sdia := 0
  sdnpg := 0
  sdbusy := false
  rplybusy := false
  rplyIds := []
  rplyHeld := []
  qtbase := 0
  ctbase := 0
  ctk := 0
  imgbase := 0
  imgpg := 0
  crgn := []
  pmeas := List.replicate 64 0
  scyc := 0
  rr := []
  parkSeq := 1
  rseq := 1
  ctseq := 1
  parked := []
  parkWait := []
  pgreqs := []
  pgwaits := []
  faultQ := []
  eventQ := []
  notifyQ := []
  waking := false
  idle := 0
  windows := []
  shoots := []
  mtu := []
  ptrs := []
  l2 := []
  rollup := []
  ctreqs := []

/-- The device window after reset: WDT 1,000 (R417); PMAP as the boot configuration, which the manual does not
fix: every slice in partition 0 (DESIGN CHOICE). -/
def Dev.reset : Dev where
  ctxbase := 0
  tvbase := 0
  pmap := [(0, 8), (1, 8), (2, 8), (3, 8), (4, 8), (5, 8), (6, 8), (7, 8)]
  pmapErr := false
  herbase := 0
  herk := 0
  herw := 0
  herr := 0
  herq := []
  hostMem := []
  wdt := 1000
  kick := 0
  fw := .running
  fails := 0
  ready := false
  bootrec := List.replicate 32 0
  nodeId := 0
  routes := []
  ms := 0
  beacon := 0
  neigh := []
  accepted := []
  sentResets := []
  manifests := []
  fwDigest := List.replicate 64 0
  corrected := []
  reports := []
  hostReads := []
  fabricReads := []
  fabWrites := []
  held := []
  arrived := []
  codeTold := []

/-- The place of no wave. -/
def Place.idle : Place :=
  ⟨0, 0, 0, 0, 0, 0, 0, 0, 0, 0, 0, 0, 0, 0, 0, false, none, false, 0, 0, 0, 0, .node 0⟩

/-- A wave slot that holds no wave. -/
def Wave.idle : Wave where
  live := false
  id := ⟨0, 0, 0⟩
  belay := false
  core := 0
  slot := 0
  place := Place.idle
  pc := 0
  prev := 0
  exec := 0
  cxm := 0
  seed := []
  c := 0
  v := []
  s := []
  q := []
  handler := false
  xpc := 0
  xcause := 0
  xword := 0
  xaddr := 0
  xlane := 0
  xhpc := 0
  xsave := [0, 0, 0, 0]
  windows := []
  inflight := []
  replay := []
  wait := .none
  halted := false
  stopped := false
  team := none
  sel := none
  lentTo := none
  rays := []
  jobs := []
  errs := []
  fence := []
  gdone := false
  request := none
  ahead := none

/-- The machine right after device reset: no wave, no gang, every unit as its reset leaves it, device memory and
Cairn with nothing listed. -/
def State.reset : State where
  w := Wave.idle
  waves := []
  gangs := []
  nextGang := 0
  nextId := 1
  inbox := []
  turn := []
  mem := []
  cairn := []
  ecc := []
  sram := []
  clock := []
  cores := []
  parts := []
  slots := []
  queues := []
  engs := []
  clusters := []
  dev := Dev.reset
  stores := []
  replies := []
  remotes := []
  fresh := 0

end Sys2Proof.Machine
end

