-- ==== Sys2Proof/Machine/Data.lean ====
section
/-! DEFINITION. Plain data operations: tables, memory in canonical form, byte order, bit fields. -/

namespace Sys2Proof.Machine

/-- The value of a key, or the table's default. -/
def Tab.get {α : Type} (d : α) : Tab α → Nat → α
  | [], _ => d
  | (k, v) :: t, n => if k = n then v else Tab.get d t n

/-- Whether a key is listed. -/
def Tab.has {α : Type} : Tab α → Nat → Bool
  | [], _ => false
  | (k, _) :: t, n => k == n || Tab.has t n

/-- Sets a key, in place if it is listed. -/
def Tab.set {α : Type} : Tab α → Nat → α → Tab α
  | [], n, x => [(n, x)]
  | (k, v) :: t, n, x => if k = n then (k, x) :: t else (k, v) :: Tab.set t n x

/-- Removes a key. -/
def Tab.erase {α : Type} (t : Tab α) (n : Nat) : Tab α := t.filter (fun e => e.1 != n)

/-- Keeps the keys below `n` (REGREL, R99). -/
def Tab.below {α : Type} (t : Tab α) (n : Nat) : Tab α := t.filter (fun e => decide (e.1 < n))

/-- The listed keys. -/
def Tab.keys {α : Type} (t : Tab α) : List Nat := t.map (·.1)

/-- The listed value of a key. -/
def Tab.find {α : Type} (t : Tab α) (n : Nat) : Option α := (t.find? (fun e => e.1 == n)).map (·.2)

/-- What an unlisted byte of device memory, Cairn or a typed buffer reads as. DESIGN CHOICE for device memory and
Cairn (the manual gives no contents at power-on); R163 for typed buffers. -/
def Mem.dflt : Byte := 0

/-- Reads one byte. -/
def Mem.read : Mem → Nat → Byte
  | [], _ => Mem.dflt
  | (k, b) :: t, a => if k = a then b else if a < k then Mem.dflt else Mem.read t a

/-- Writes one byte and keeps the canonical form: addresses rise strictly and no listed byte is 0. -/
def Mem.write : Mem → Nat → Byte → Mem
  | [], a, x => if x = Mem.dflt then [] else [(a, x)]
  | (k, b) :: t, a, x =>
    if k = a then (if x = Mem.dflt then t else (k, x) :: t)
    else if a < k then (if x = Mem.dflt then (k, b) :: t else (a, x) :: (k, b) :: t)
    else (k, b) :: Mem.write t a x

/-- Every address is above `n`, addresses rise strictly, and no byte is the default. -/
def Mem.wfFrom : Nat → Mem → Bool
  | _, [] => true
  | n, (k, b) :: t => decide (n ≤ k) && decide (b ≠ Mem.dflt) && Mem.wfFrom (k + 1) t

/-- The canonical form of a memory. -/
def Mem.wf (m : Mem) : Bool := Mem.wfFrom 0 m

/-- Reads `n` bytes from `a` upward. -/
def Mem.readN (m : Mem) (a : Nat) : Nat → List Byte
  | 0 => []
  | n + 1 => Mem.read m a :: Mem.readN m (a + 1) n

/-- Writes bytes from `a` upward. -/
def Mem.writeN (m : Mem) (a : Nat) : List Byte → Mem
  | [] => m
  | b :: t => Mem.writeN (Mem.write m a b) (a + 1) t

/-- The cells of bytes from an address upward, those that read as unlisted left out. -/
def Mem.cells (a : Nat) : List Byte → Mem
  | [] => []
  | b :: t => if b = Mem.dflt then Mem.cells (a + 1) t else (a, b) :: Mem.cells (a + 1) t

/-- Writes a long run of bytes from `a` upward: what lies below, the run, and what lies above. -/
def Mem.splice (m : Mem) (a : Nat) (bs : List Byte) : Mem :=
  m.filter (fun c => decide (c.1 < a)) ++ Mem.cells a bs ++ m.filter (fun c => decide (a + bs.length ≤ c.1))

/-- Little-endian bytes to a number (R5). -/
def leNat : List Byte → Nat
  | [] => 0
  | b :: t => b.toNat + 256 * leNat t

/-- A number to `n` little-endian bytes (R5). -/
def leBytes : Nat → Nat → List Byte
  | 0, _ => []
  | n + 1, x => BitVec.ofNat 8 x :: leBytes n (x / 256)

/-- Bits [hi:lo] of a number. -/
def bits (x hi lo : Nat) : Nat := x / 2 ^ lo % 2 ^ (hi + 1 - lo)

/-- Bit `i` of a number. -/
def bit (x i : Nat) : Bool := x / 2 ^ i % 2 == 1

/-- A flag as 0 or 1. -/
def b2n (b : Bool) : Nat := if b then 1 else 0

/-- The 32 lanes, ascending. -/
def laneList : List Nat :=
  [0, 1, 2, 3, 4, 5, 6, 7, 8, 9, 10, 11, 12, 13, 14, 15, 16, 17, 18, 19, 20, 21, 22, 23, 24, 25, 26, 27, 28, 29, 30, 31]

/-- The mask of the lanes that satisfy `p`. -/
def laneMask (p : Nat → Bool) : Word :=
  laneList.foldl (fun m l => if p l then m ||| (1#32 <<< l) else m) 0

/-- The lanes of a mask, ascending. -/
def lanesOf (m : Word) : List Nat := laneList.filter (fun l => m.getLsbD l)

/-- The number of lanes of a mask. -/
def popLanes (m : Word) : Nat := (lanesOf m).length

/-- The lowest `n` lanes as a mask. -/
def lowLanes (n : Nat) : Word := laneMask (fun l => decide (l < n))

/-- The value of lane `L` of a register. -/
def VReg.lane (r : VReg) (l : Nat) : RWord := r.getD l RWord.none

/-- A register with the lanes of `m` replaced by those of `x`. -/
def VReg.merge (m : Word) (old x : VReg) : VReg :=
  laneList.map (fun l => if m.getLsbD l then VReg.lane x l else VReg.lane old l)

/-- The same word in every lane. -/
def VReg.splat (w : RWord) : VReg := laneList.map (fun _ => w)

/-- The register 0, invalid: the start value (R14). -/
def VReg.start : VReg := VReg.splat RWord.none

/-- The first index of a list that satisfies `p`. -/
def indexWhere {α : Type} (p : α → Bool) : List α → Nat → Option Nat
  | [], _ => none
  | x :: t, i => if p x then some i else indexWhere p t (i + 1)

/-- Removes the element at an index. -/
def dropAt {α : Type} : List α → Nat → List α
  | [], _ => []
  | _ :: t, 0 => t
  | x :: t, n + 1 => x :: dropAt t n

/-- Sum of a list. -/
def sumNat (l : List Nat) : Nat := l.foldl (· + ·) 0

/-- Applies a state change for each element in order. -/
def forEach {σ α : Type} (l : List α) (s : σ) (f : σ → α → σ) : σ := l.foldl f s

end Sys2Proof.Machine
end

