-- ==== Sys2Proof/Machine/Num.lean ====
section
/-! DEFINITION. Number formats, rounding and conversion (R70 to R85): exact values, and each format's codes. -/

namespace Sys2Proof.Machine

/-- An exact value: NaN, an infinity, or a signed quotient `num / den` with `den` not 0. A zero keeps its sign. -/
inductive XVal where
  | nan
  | inf (neg : Bool)
  | fin (neg : Bool) (num den : Nat)
deriving DecidableEq, Repr

/-- `m * 2^e` as numerator and denominator. -/
def scale2 (m : Nat) (e : Int) : Nat × Nat := if e < 0 then (m, 2 ^ e.natAbs) else (m * 2 ^ e.natAbs, 1)

/-- A signed dyadic value. -/
def XVal.dyadic (neg : Bool) (m : Nat) (e : Int) : XVal :=
  let q := scale2 m e
  .fin neg q.1 q.2

/-- The value of an integer. -/
def XVal.ofInt (x : Int) : XVal := .fin (decide (x < 0)) x.natAbs 1

def XVal.isNan (x : XVal) : Bool := match x with | .nan => true | _ => false
def XVal.isInf (x : XVal) : Bool := match x with | .inf _ => true | _ => false
def XVal.isZero (x : XVal) : Bool := match x with | .fin _ n _ => n == 0 | _ => false
def XVal.neg? (x : XVal) : Bool := match x with | .nan => false | .inf s => s | .fin s _ _ => s

/-- The value with its sign flipped. -/
def XVal.negate (x : XVal) : XVal :=
  match x with
  | .nan => .nan
  | .inf s => .inf (!s)
  | .fin s n d => .fin (!s) n d

/-- The value with its sign cleared. -/
def XVal.abs (x : XVal) : XVal :=
  match x with
  | .nan => .nan
  | .inf _ => .inf false
  | .fin _ n d => .fin false n d

/-- The signed numerator over the denominator. -/
def signedNum (neg : Bool) (n : Nat) : Int := if neg then -(n : Int) else n

/-- Exact product; 0 × ∞ is NaN (R118). -/
def XVal.mul (x y : XVal) : XVal :=
  match x, y with
  | .fin s n d, .fin s' n' d' => .fin (s != s') (n * n') (d * d')
  | .nan, _ => .nan
  | _, .nan => .nan
  | .inf s, y => if y.isZero then .nan else .inf (s != y.neg?)
  | x, .inf s => if x.isZero then .nan else .inf (s != x.neg?)

/-- Exact quotient: x/0 is an infinity, 0/0 and ∞/∞ are NaN (R118). The zeros 0/y and x/∞ and the infinity ∞/±0 take the XOR of the
signs too (DESIGN CHOICE: R118 gives a sign for x/0 with x finite and non-zero only). -/
def XVal.div (x y : XVal) : XVal :=
  match x, y with
  | .fin s n d, .fin s' n' d' =>
    if n' = 0 then (if n = 0 then .nan else .inf (s != s')) else .fin (s != s') (n * d') (d * n')
  | .nan, _ => .nan
  | _, .nan => .nan
  | .inf _, .inf _ => .nan
  | .inf s, .fin s' _ _ => .inf (s != s')
  | .fin s _ _, .inf s' => .fin (s != s') 0 1

/-- Exact sum of addends, with the sign of an exact zero sum under `rdn` or any other mode (R77). -/
def XVal.sum (rdn : Bool) (xs : List XVal) : XVal :=
  if xs.any XVal.isNan then .nan
  else
    let pinf := xs.any (fun x => x == .inf false)
    let ninf := xs.any (fun x => x == .inf true)
    if pinf && ninf then .nan
    else if pinf then .inf false
    else if ninf then .inf true
    else
      let q : Int × Nat := xs.foldl (fun acc x =>
        match x with
        | .fin s n d => (acc.1 * d + signedNum s n * acc.2, acc.2 * d)
        | _ => acc) (0, 1)
      if q.1 == 0 then
        if xs.all (fun x => x.isZero && x.neg?) then .fin true 0 1
        else if xs.all (fun x => x.isZero && !x.neg?) then .fin false 0 1
        else .fin rdn 0 1
      else .fin (decide (q.1 < 0)) q.1.natAbs q.2

/-- Order of two values that are not NaN, zeros equal. -/
def XVal.lt (x y : XVal) : Bool :=
  match x, y with
  | .nan, _ => false
  | _, .nan => false
  | .inf s, .inf s' => s && !s'
  | .inf s, .fin _ _ _ => s
  | .fin _ _ _, .inf s => !s
  | .fin s n d, .fin s' n' d' => decide (signedNum s n * d' < signedNum s' n' * d)

/-- Equality of value of two values that are not NaN (−0 = +0). -/
def XVal.same (x y : XVal) : Bool := !x.isNan && !y.isNan && !XVal.lt x y && !XVal.lt y x

/-- floor(log2 (n/d)) for n, d not 0. -/
def floorLog2 (n d : Nat) : Int :=
  let k : Int := (Nat.log2 n : Int) - (Nat.log2 d : Int)
  let q := scale2 1 k
  if n * q.2 < q.1 * d then k - 1 else k

/-- Whether rounding takes the magnitude above: `fn/fd` is the fraction of the step from the magnitude below, `odd`
whether the code below has bit 0 set (R77, R78). -/
def roundUp (rnd : Rnd) (seed : Word) (neg : Bool) (fn fd : Nat) (odd : Bool) : Bool :=
  if fn = 0 then false
  else
    match rnd with
    | .rne => decide (fd < 2 * fn) || (fd == 2 * fn && odd)
    | .rz => false
    | .rup => !neg
    | .rdn => neg
    | .rst => decide (2 ^ 24 ≤ fn * 2 ^ 24 / fd + seed.toNat % 2 ^ 24)

/-- A sign-magnitude format (R72): exponent and fraction widths, bias, and the largest finite code. -/
structure FFmt where
  eb : Nat
  fb : Nat
  bias : Nat
  maxFin : Nat
deriving DecidableEq, Repr

/-- The sign-magnitude formats (R72). -/
def ffmt (t : ElemType) : Option FFmt :=
  match t with
  | .f32 => some ⟨8, 23, 127, 0x7F7FFFFF⟩
  | .f16 => some ⟨5, 10, 15, 0x7BFF⟩
  | .bf16 => some ⟨8, 7, 127, 0x7F7F⟩
  | .e4m3 => some ⟨4, 3, 7, 0x7E⟩
  | .e5m2 => some ⟨5, 2, 15, 0x7B⟩
  | .e2m1 => some ⟨2, 1, 1, 0x7⟩
  | _ => none

/-- Width and signedness of the integer types (R70). -/
def intFmt (t : ElemType) : Option (Nat × Bool) :=
  match t with
  | .i8 => some (8, true)
  | .n8 => some (8, false)
  | .i16 => some (16, true)
  | .n16 => some (16, false)
  | .i32 => some (32, true)
  | .n32 => some (32, false)
  | .i64 => some (64, true)
  | .n64 => some (64, false)
  | _ => none

/-- The canonical NaN code of a format (R74); e2m1 has none. -/
def nanCode (t : ElemType) : Nat :=
  match t with
  | .f32 => 0x7FC00000
  | .f16 => 0x7E00
  | .bf16 => 0x7FC0
  | .e4m3 => 0x7F
  | .e5m2 => 0x7E
  | .e8m0 => 0xFF
  | .t8 => 0x80
  | .t6 => 0x20
  | _ => 0

/-- Length of the run of `b` from bit `i` downward, at most `i + 1`. -/
def runLen (w : Nat) (b : Bool) : Nat → Nat
  | 0 => if bit w 0 == b then 1 else 0
  | i + 1 => if bit w (i + 1) == b then runLen w b i + 1 else 0

/-- The magnitude of a positive tapered code of `W` bits (R75). -/
def taperedMag (W es w : Nat) : Nat × Nat :=
  let b := bit w (W - 2)
  let k := runLen w b (W - 2)
  let reg : Int := if b then (k : Int) - 1 else -(k : Int)
  let rest := W - 1 - k - 1
  let w' := w % 2 ^ rest
  let e := if es = 0 then 0 else if rest = 0 then 0 else w' / 2 ^ (rest - 1)
  let fbits := rest - es
  let f := w' % 2 ^ fbits
  let ex : Int := reg * (2 ^ es : Nat) + (e : Int) - (fbits : Int)
  scale2 (2 ^ fbits + f) ex

/-- Decodes a tapered word of `W` bits (R75). -/
def decodeTapered (W es w : Nat) : XVal :=
  let w := w % 2 ^ W
  if w = 0 then .fin false 0 1
  else if w = 2 ^ (W - 1) then .nan
  else
    let neg := bit w (W - 1)
    let q := taperedMag W es (if neg then 2 ^ W - w else w)
    .fin neg q.1 q.2

/-- Decodes a sign-magnitude word (R72). -/
def decodeSM (t : ElemType) (f : FFmt) (w : Nat) : XVal :=
  let neg := bit w (f.eb + f.fb)
  let e := w / 2 ^ f.fb % 2 ^ f.eb
  let m := w % 2 ^ f.fb
  let mag := w % 2 ^ (f.eb + f.fb)
  let hasInf := t != .e4m3 && t != .e2m1
  if hasInf && e = 2 ^ f.eb - 1 then (if m = 0 then .inf neg else .nan)
  else if t == .e4m3 && mag = 0x7F then .nan
  else if e = 0 then XVal.dyadic neg m (1 - (f.bias : Int) - f.fb)
  else XVal.dyadic neg (2 ^ f.fb + m) ((e : Int) - f.bias - f.fb)

/-- The two's-complement reading of the low `n` bits. -/
def signedOf (n x : Nat) : Int := if bit x (n - 1) then (x % 2 ^ n : Nat) - (2 ^ n : Nat) else (x % 2 ^ n : Nat)

/-- The exact value of a word of a type: its low bits (R71). b32 and b64 have no numeric reading. -/
def decodeElem (t : ElemType) (w : Nat) : XVal :=
  match ffmt t with
  | some f => decodeSM t f w
  | none =>
    match intFmt t with
    | some (n, true) => XVal.ofInt (signedOf n w)
    | some (n, false) => .fin false (w % 2 ^ n) 1
    | none =>
      match t with
      | .t8 => decodeTapered 8 1 w
      | .t6 => decodeTapered 6 0 w
      | .e8m0 => if w % 256 = 255 then .nan else XVal.dyadic false 1 ((w % 256 : Nat) - 127)
      | _ => .fin false (w % 2 ^ 64) 1

/-- The largest magnitude code at or below `n/d`, the exponent unbounded above, and the fraction of the step to the
next code (R72, R77). -/
def floorCode (f : FFmt) (n d : Nat) : Nat × Nat × Nat :=
  if n = 0 then (0, 0, 1)
  else
    let e := max (floorLog2 n d) (1 - (f.bias : Int))
    let u := scale2 1 (e - f.fb)
    let a := n * u.2
    let b := d * u.1
    (((e - 1 + f.bias).toNat) * 2 ^ f.fb + a / b, a % b, b)

/-- Magnitude code after rounding, the exponent unbounded above. -/
def roundCode (f : FFmt) (rnd : Rnd) (seed : Word) (neg : Bool) (n d : Nat) : Nat :=
  let q := floorCode f n d
  if roundUp rnd seed neg q.2.1 q.2.2 (q.1 % 2 == 1) then q.1 + 1 else q.1

/-- Sign and magnitude code together. -/
def signCode (f : FFmt) (neg : Bool) (mag : Nat) : Nat := b2n neg * 2 ^ (f.eb + f.fb) + mag

/-- Rounds an arithmetic result into f32, f16 or bf16: overflow as IEEE 754-2019 (R77, R78). -/
def roundArith (t : ElemType) (rnd : Rnd) (seed : Word) (x : XVal) : Nat :=
  match ffmt t with
  | none => 0
  | some f =>
    match x with
    | .nan => nanCode t
    | .inf s => signCode f s (f.maxFin + 1)
    | .fin s n d =>
      let c := roundCode f rnd seed s n d
      if c ≤ f.maxFin then signCode f s c
      else
        match rnd with
        | .rne | .rst => signCode f s (f.maxFin + 1)
        | .rz => signCode f s f.maxFin
        | .rup => signCode f s (if s then f.maxFin else f.maxFin + 1)
        | .rdn => signCode f s (if s then f.maxFin + 1 else f.maxFin)

/-- Rounds a magnitude to an integer (R77), ties to the even one. -/
def roundIntMag (rnd : Rnd) (seed : Word) (neg : Bool) (n d : Nat) : Nat :=
  let q := n / d
  if roundUp rnd seed neg (n % d) d (q % 2 == 1) then q + 1 else q

/-- Codes of a tapered format from `c` down to 1: the largest at or below `n/d`, or 0. -/
def taperedFloor (W es n d : Nat) : Nat → Nat
  | 0 => 0
  | c + 1 =>
    let q := taperedMag W es (c + 1)
    if q.1 * d ≤ n * q.2 then c + 1 else taperedFloor W es n d c

/-- Rounds a magnitude into a tapered format; the second part tells whether it overflows (R77, R79). -/
def roundTapered (W es : Nat) (rnd : Rnd) (seed : Word) (neg : Bool) (n d : Nat) : Nat × Bool :=
  let top := 2 ^ (W - 1) - 1
  let qt := taperedMag W es top
  let sg (c : Nat) : Nat := if neg then (2 ^ W - c) % 2 ^ W else c
  if n = 0 then (0, false)
  else if qt.1 * d < n * qt.2 then (sg top, true)
  else
    let lo := taperedFloor W es n d top
    if lo = 0 then (sg 1, false)
    else if lo = top then (sg top, false)
    else
      let a := taperedMag W es lo
      let b := taperedMag W es (lo + 1)
      let fn := (n * a.2 - a.1 * d) * b.2
      let fd := (b.1 * a.2 - a.1 * b.2) * d
      (sg (if roundUp rnd seed neg fn fd (lo % 2 == 1) then lo + 1 else lo), false)

/-- Converts an exact value into a type (R79): the code and the cause, 0 where none. Into e8m0 the sign is dropped before the
overflow is judged (DESIGN CHOICE: the row that judges it stands before the row that drops the sign, which a directed rounding of a
negative value can tell). -/
def convert (t : ElemType) (rnd : Rnd) (seed : Word) (x : XVal) : Nat × Nat :=
  match intFmt t with
  | some (w, sg) =>
    let hi : Int := if sg then 2 ^ (w - 1) - 1 else 2 ^ w - 1
    let lo : Int := if sg then -(2 ^ (w - 1)) else 0
    let code (v : Int) : Nat := (v % (2 ^ w : Int)).toNat
    match x with
    | .nan => (0, 1)
    | .inf s => (code (if s then lo else hi), 2)
    | .fin s n d =>
      let v := signedNum s (roundIntMag rnd seed s n d)
      if hi < v then (code hi, 3) else if v < lo then (code lo, 3) else (code v, 0)
  | none =>
    match ffmt t with
    | some f =>
      match x with
      | .nan => if t == .e2m1 then (0, 1) else (nanCode t, 0)
      | .inf s => if t == .f32 then (signCode f s (f.maxFin + 1), 0) else (signCode f s f.maxFin, 2)
      | .fin s n d =>
        let c := roundCode f rnd seed s n d
        if c ≤ f.maxFin then (signCode f s c, 0) else (signCode f s f.maxFin, 3)
    | none =>
      match t with
      | .e8m0 =>
        match x with
        | .nan => (0xFF, 0)
        | .inf _ => (0xFE, 2)
        | .fin _ n d =>
          if n * 2 ^ 127 < d then (0, 0)
          else
            let k := floorLog2 n d
            let u := scale2 1 k
            let lo := (k + 127).toNat
            let fn := n * u.2 - u.1 * d
            let c := if roundUp rnd seed false fn (u.1 * d) (lo % 2 == 1) then lo + 1 else lo
            if c ≤ 0xFE then (c, 0) else (0xFE, 3)
      | .t8 | .t6 =>
        let W := if t == .t8 then 8 else 6
        let es := if t == .t8 then 1 else 0
        match x with
        | .nan => (nanCode t, 0)
        | .inf s => (if s then 2 ^ W - (2 ^ (W - 1) - 1) else 2 ^ (W - 1) - 1, 2)
        | .fin s n d =>
          let r := roundTapered W es rnd seed s n d
          (r.1, if r.2 then 3 else 0)
      | _ =>
        match x with
        | .fin _ n d => (n / d % 2 ^ 64, 0)
        | _ => (0, 0)

/-- A narrow code as an instruction writes it: i8 and i16 sign-extended, all others zero-extended (R71). -/
def widen (t : ElemType) (c : Nat) : Nat :=
  match t with
  | .i8 => (signedOf 8 c % (2 ^ 32 : Int)).toNat
  | .i16 => (signedOf 16 c % (2 ^ 32 : Int)).toNat
  | _ => c

/-- CVT (R124): with FROM equal to TYPE the value is unchanged, except that a NaN becomes canonical. -/
def cvtElem (dst fr : ElemType) (rnd : Rnd) (seed : Word) (w : Nat) : Nat × Nat :=
  if dst = fr then
    match decodeElem fr w with
    | .nan => (nanCode dst, 0)
    | _ =>
      match intFmt dst with
      | some (n, _) => (w % 2 ^ n, 0)
      | none =>
        match dst with
        | .f32 => (w % 2 ^ 32, 0)
        | .f16 | .bf16 => (w % 2 ^ 16, 0)
        | .e2m1 => (w % 2 ^ 4, 0)
        | .t6 => (w % 2 ^ 6, 0)
        | _ => (w % 2 ^ 8, 0)
  else convert dst rnd seed (decodeElem fr w)

/-- xorshift32 (R78). -/
def advanceSeed (s : Word) : Word :=
  let a := s ^^^ (s <<< 13)
  let b := a ^^^ (a >>> 17)
  b ^^^ (b <<< 5)

/-- A write to SEED (R78): 0 stores 1. -/
def seedWrite (w : Word) : Word := if w = 0 then 1 else w

/-- The largest exponent of an element type for a block scale (R83). -/
def blockEmax (t : ElemType) : Int :=
  match t with
  | .e4m3 => 8
  | .e5m2 => 15
  | .e2m1 => 2
  | .t8 => 12
  | .t6 => 4
  | _ => 7

/-- The value divided by 2^(X - 127) (R83). -/
def XVal.unscale (x : XVal) (X : Nat) : XVal :=
  x.mul (XVal.dyadic false 1 (127 - (X : Int)))

/-- Chooses the scale of a block of f32 values (R83) and tells whether the block holds a NaN. -/
def blockScale (t : ElemType) (vs : List XVal) : Nat × Bool :=
  if vs.any XVal.isNan then (0xFF, true)
  else if vs.all XVal.isZero then (127, false)
  else
    let big : XVal := XVal.dyadic false (2 ^ 24 - 1) 104
    let m := vs.foldl (fun a v => let w := if v.isInf then big else v.abs; if XVal.lt a w then w else a) (.fin false 0 1)
    match m with
    | .fin _ n d =>
      let X := floorLog2 n d - blockEmax t + 127
      ((max 0 (min X 254)).toNat, false)
    | _ => (127, false)

/-- One element of a block with its chosen scale (R83): its code and cause. -/
def blockElem (t : ElemType) (rnd : Rnd) (seed : Word) (X : Nat) (hasNan : Bool) (v : XVal) : Nat × Nat :=
  if hasNan then (nanCode t, if v.isNan && nanCode t == 0 then 1 else 0)
  else convert t rnd seed (v.unscale X)

/-- Rounds a sum of f32 addends to f32 under rne (R85, R197, R229). -/
def addF32 (rnd : Rnd) (a b : Nat) : Nat :=
  roundArith .f32 rnd 0 (XVal.sum (rnd == .rdn) [decodeElem .f32 a, decodeElem .f32 b])

/-- The smaller or larger of two floats (R118): a NaN gives way to the other, and −0 < +0. -/
def minMaxF (t : ElemType) (isMax : Bool) (a b : Nat) : Nat :=
  let x := decodeElem t a
  let y := decodeElem t b
  if x.isNan && y.isNan then nanCode t
  else if x.isNan then roundArith t .rne 0 y
  else if y.isNan then roundArith t .rne 0 x
  else
    let less := XVal.lt x y || (XVal.same x y && x.neg? && !y.neg?)
    roundArith t .rne 0 (if less != isMax then x else y)

end Sys2Proof.Machine
end

