-- ==== Sys2Proof/Machine/Regs.lean ====
section
/-! DEFINITION. The registers an instruction names (R24, R96): as sources, the guard among them, and as
destinations. -/

namespace Sys2Proof.Machine

/-- The registers of an operand of `k` words. -/
def opRegs (k : Nat) (o : Operand) : List Reg :=
  match o with
  | .v n => (List.range k).map (fun j => Reg.v (n.toNat + j))
  | .s n => (List.range k).map (fun j => Reg.s (n.toNat + j))
  | .x _ => []
  | .i _ => []

def vRegs (k : Nat) (n : BitVec 8) : List Reg := opRegs k (.v n)
def sRegs (k : Nat) (n : BitVec 8) : List Reg := opRegs k (.s n)

/-- The header of an ISA instruction; events carry none. -/
def hdrOf (x : Instr) : Option Hdr :=
  match x with
  | .nop h | .bra h _ | .braCond h _ _ _ | .brv h _ _ _ | .bru h _ _ _ | .bruReg h _ | .call h _ _ | .ret h _
  | .jmpi h _ _ | .vmask h _ _ _ | .bar h _ | .yield h | .halt h => some h
  | .add o | .sub o | .mul o | .mulhi o | .mad o | .div o | .rem o | .min o | .max o | .abs o | .neg o | .addsat o _
  | .and o | .or o | .xor o | .andn o | .not o | .shl o | .shr o | .sar o | .rot o _ | .bfe o _ | .bfi o | .popc o
  | .clz o | .ctz o | .brev o | .pfxpop o | .isect o | .bclr o _ | .dot4 o _ | .cmp o _ | .sel o _ | .setv o | .mkv o
  | .inv o | .isv o | .mov o | .fadd o | .fsub o | .fmul o | .ffma o | .fmin o | .fmax o | .fabs o | .fneg o | .fdiv o
  | .fsqrt o | .frcp o | .frsq o | .fexp2 o | .flog2 o | .fsin o | .fcos o | .fcmp o _ | .fclass o | .fdp4 o | .ftanh o
  | .frnd o | .cvt o _ | .pack o _ _ | .unpack o _ _ | .blkpk o _ _ _ | .blkup o _ | .shfl o _ _ | .ballot o _
  | .vote o _ _ | .redux o _ _ | .scan o _ _ _ | .v2s o | .matchLanes o _ | .firstl o _ => some o.h
  | .movi h _ _ _ | .movh h _ _ => some h
  | .ld m | .st m | .lds m | .sts m | .ldtb m _ | .sttb m _ | .ldc m _ | .stc m _ | .pref m => some m.h
  | .atom m _ | .cas m | .red m _ => some m.h
  | .fence h _ _ | .pgreq h _ _ _ _ _ | .drain h _ => some h
  | .copy c | .copyIndexed c | .copyChecksum c => some c.h
  | .gset h _ _ | .gclr h _ | .gclrFree h _ | .xkick h _ _ | .tlwait h _ _ | .tlwaitToken h _ _ _ | .tlread h _ _ => some h
  | .mma m _ _ _ | .mmas m _ _ _ _ | .mmae m _ _ _ | .mmaeSparse m _ _ _ _ | .mzero m _ _ _ | .mcvt m _ _ _
  | .mmerge m _ _ _ | .dectab m _ _ => some m.h
  | .mwait h _ _ => some h
  | .ncall h _ _ _ _ _ _ | .wpin h _ _ | .wunpin h _ | .wpref h _ | .wprefDrop h _ | .trace h _ _ _ _
  | .traceNext h _ _ _ | .trend h _ | .gemit h _ | .gdone h => some h
  | .abinit h _ _ _ | .abinitReset h _ | .abinitFree h _ | .abarr h _ _ _ | .abwait h _ _ _ | .tkwait h _ _ _ _
  | .tkadv h _ _ _ _ | .ctnew h _ _ | .ctenr h _ _ _ | .ctread h _ _ | .ctsettle h _ | .ctrepar h _ _ _
  | .ctleave h _ _ _ | .ctfree h _ _ => some h
  | .regrel h _ | .regrelS h _ | .regclm h _ | .regclmS h _ | .regqry h _ _ | .waitq h _ _ | .pollq h _ _
  | .recruit h _ _ _ | .hget h _ _ | .hred h _ _ _ _ _ | .hjoin h _ | .hexit h | .hrel h => some h
  | .trap h _ | .tret h | .tretSkip h | .rqrd h _ _ _ | .rqwr h _ _ _ | .rqdel h _ | .cxrd h _ _ | .cxwr h _ _ => some h
  | _ => none

/-- A source operand: the type an immediate is read as, its words, and the operand. -/
structure SrcOp where
  ty : ElemType
  k : Nat
  o : Operand
deriving DecidableEq, Repr

/-- A source operand of `k` words read as integers. -/
def srcI (k : Nat) (o : Operand) : List SrcOp := [⟨.b32, k, o⟩]
def srcV (k : Nat) (n : BitVec 8) : List SrcOp := srcI k (.v n)
def srcS (k : Nat) (n : BitVec 8) : List SrcOp := srcI k (.s n)

/-- Sources of a Typed instruction with the words of its operands, 0 for one that is not consumed. -/
def laneSrc (o : LaneOp) (ka kb kd : Nat) : List SrcOp := [⟨o.ty, ka, o.a⟩, ⟨o.ty, kb, o.b⟩, ⟨o.ty, kd, o.d⟩]

/-- The source operands of an instruction, its guard register excepted. A matrix instruction names all eight registers of its format
block, those that it does not use among them (DESIGN CHOICE: R219 says that the operand fills eight registers, R220 which of them an
instruction uses, and R24 that names count). -/
def srcOps (x : Instr) : List SrcOp :=
  match x with
  | .braCond _ c _ _ => srcI 1 c
  | .brv _ a _ _ | .bru _ a _ _ | .bruReg _ a => srcV 1 a
  | .ret _ a => srcS 1 a
  | .jmpi _ a b => srcS 1 a ++ srcI 1 b
  | .vmask _ _ a _ => srcV 1 a
  | .add o | .sub o | .mul o | .mulhi o | .div o | .rem o | .min o | .max o | .addsat o _ | .and o | .or o | .xor o
  | .andn o | .isect o | .cmp o _ | .mkv o | .fadd o | .fsub o | .fmul o | .fmin o | .fmax o | .fdiv o | .fcmp o _ =>
    laneSrc o (typeWords o.ty) (typeWords o.ty) 0
  | .shfl o _ m => laneSrc o (typeWords o.ty) (typeWords o.ty) 0 ++ srcI 1 m
  | .mad o | .ffma o => laneSrc o (typeWords o.ty) (typeWords o.ty) (typeWords o.ty)
  | .abs o | .neg o | .not o | .popc o | .clz o | .ctz o | .brev o | .setv o | .inv o | .isv o | .mov o | .fabs o
  | .fneg o | .fsqrt o | .frcp o | .frsq o | .fexp2 o | .flog2 o | .fsin o | .fcos o | .fclass o | .ftanh o
  | .frnd o => laneSrc o (typeWords o.ty) 0 0
  | .vote o _ m | .redux o _ m | .scan o _ _ m | .matchLanes o m | .firstl o m | .ballot o m =>
    laneSrc o (typeWords o.ty) 0 0 ++ srcI 1 m
  | .shl o | .shr o | .sar o | .rot o _ | .bfe o _ | .pfxpop o => laneSrc o (typeWords o.ty) 1 0
  | .bfi o => laneSrc o (typeWords o.ty) 1 (typeWords o.ty)
  | .bclr o low => laneSrc o (typeWords o.ty) (if low then 0 else 1) 0
  | .dot4 o _ | .fdp4 o => laneSrc o 1 1 1
  | .sel o c => laneSrc o (typeWords o.ty) (typeWords o.ty) 0 ++ srcI 1 c
  | .movh _ d _ => srcI 1 d
  | .cvt o fr => [⟨fr, typeWords fr, o.a⟩]
  | .pack o _ _ => laneSrc o 1 1 (if packWidth o.ty < 16 then 1 else 0)
  | .unpack o _ _ | .blkpk o _ _ _ => laneSrc o 1 0 0
  | .blkup o _ => laneSrc o 1 1 0
  | .v2s o => laneSrc o (typeWords o.ty) (if isV o.a then 1 else 0) 0
  | .ld m | .lds m | .ldtb m _ => srcI (if m.a64 then 2 else 1) m.a ++ srcI 1 m.b
  | .st m | .sts m | .sttb m _ => srcI (if m.a64 then 2 else 1) m.a ++ srcI 1 m.b ++ srcI (typeWords m.ty) m.d
  | .ldc m _ => srcI 1 m.a ++ srcI 1 m.b
  | .stc m _ => srcI 1 m.a ++ srcI 1 m.b ++ srcI (typeWords m.ty) m.d
  | .atom m _ | .red m _ => srcI (if m.a64 then 2 else 1) m.a ++ srcI 1 m.b ++ srcI (typeWords m.ty) m.d
  | .cas m => srcI (if m.a64 then 2 else 1) m.a ++ srcI 1 m.b ++ srcI (2 * typeWords m.ty) m.d
  | .pref m => srcI (if m.a64 then 2 else 1) m.a ++ srcI 1 m.b
  | .pgreq _ _ a64 a b _ => srcI (if a64 then 2 else 1) a ++ srcI 1 b
  | .copy c => srcS (if c.trn then 3 else if c.dk == 0 then 2 else 1) c.d ++ srcS (if c.sk == 0 then 2 else 1) c.a
      ++ srcI 1 c.b
  | .copyIndexed c => srcS (if c.trn then 3 else 1) c.d ++ srcS 2 c.a ++ srcI 1 c.b
  | .copyChecksum c => srcS 1 c.d ++ srcS (if c.sk == 0 then 2 else 1) c.a ++ srcI 6 c.b
  | .gset _ _ c => srcI 1 c
  | .xkick _ e v => srcI 1 e ++ srcI 1 v
  | .tlwait _ e v | .tlwaitToken _ e v _ => srcI 1 e ++ srcI 2 v
  | .tlread _ _ e => srcI 1 e
  | .mma m c a b | .mmas m c a b _ | .mmae m c a b | .mmaeSparse m c a b _ =>
    srcS 3 c ++ srcS 3 a ++ srcS 3 b ++ srcS 8 (BitVec.ofNat 8 m.fb.toNat)
  | .mzero m c _ _ => srcS 3 c ++ srcS 8 (BitVec.ofNat 8 m.fb.toNat)
  | .mcvt m d c _ => srcS 3 d ++ srcS 3 c ++ srcS 8 (BitVec.ofNat 8 m.fb.toNat)
  | .mmerge m c p t => srcS 3 c ++ srcS 3 p ++ srcS 1 t ++ srcS 8 (BitVec.ofNat 8 m.fb.toNat)
  | .dectab m a _ => srcS 1 a ++ srcS 8 (BitVec.ofNat 8 m.fb.toNat)
  | .ncall _ _ _ a hnd nin1 _ => srcV (nin1.toNat + 1) a ++ srcI 1 hnd
  | .wpin _ _ hnd | .wunpin _ hnd | .wpref _ hnd | .wprefDrop _ hnd => srcI 1 hnd
  | .trace _ _ _ a b => srcV 8 a ++ srcS 3 b
  | .traceNext _ _ _ a => srcV 1 a
  | .gemit _ a => srcV 8 a
  | .abinit _ _ bytes arr => srcI 1 bytes ++ srcI 1 arr
  | .abarr _ _ g cnt => srcI 1 g ++ srcI 1 cnt
  | .abwait _ _ _ p => srcI 1 p
  | .tkwait _ _ a v _ | .tkadv _ _ a v _ => srcS 2 a ++ srcI 1 v
  | .ctnew _ _ p => srcI 1 p
  | .ctenr _ _ n b | .ctleave _ _ n b => srcS 1 n ++ srcS 3 b
  | .ctread _ _ n | .ctsettle _ n | .ctfree _ _ n => srcS 1 n
  | .ctrepar _ _ n p => srcS 1 n ++ srcI 1 p
  | .regrelS _ a | .regclmS _ a => srcS 1 a
  | .recruit _ _ want _ => srcI 1 want
  | .hred _ _ a _ ty _ => srcI (typeWords ty) a
  | .rqrd _ _ e _ | .rqdel _ e => srcI 1 e
  | .rqwr _ e v _ => srcI 1 e ++ srcI 1 v
  | .cxwr _ v _ => srcI 1 v
  | _ => []

/-- The registers an instruction reads, its guard register excepted. -/
def bodyReads (x : Instr) : List Reg := (srcOps x).flatMap (fun p => opRegs p.k p.o)

/-- The registers an instruction reads (R24): its guard register and its sources. -/
def reads (x : Instr) : List Reg :=
  match hdrOf x with
  | some h => (if h.guard.en then vRegs 1 h.guard.reg else []) ++ bodyReads x
  | none => []

/-- The registers an instruction writes (R24). -/
def writes (x : Instr) : List Reg :=
  match x with
  | .call _ d _ => sRegs 1 d
  | .vmask _ d _ _ => opRegs 1 d
  | .add o | .sub o | .mul o | .mulhi o | .div o | .rem o | .min o | .max o | .addsat o _ | .and o | .or o | .xor o
  | .andn o | .isect o | .mkv o | .fadd o | .fsub o | .fmul o | .fmin o | .fmax o | .fdiv o | .shfl o _ _ | .mad o
  | .ffma o | .abs o | .neg o | .not o | .brev o | .setv o | .inv o | .isv o | .mov o | .fabs o | .fneg o | .fsqrt o
  | .frcp o | .frsq o | .fexp2 o | .flog2 o | .fsin o | .fcos o | .ftanh o | .frnd o | .vote o _ _ | .redux o _ _
  | .scan o _ _ _ | .firstl o _ | .shl o | .shr o | .sar o | .rot o _ | .bfe o _ | .bfi o | .bclr o _ | .sel o _
  | .cvt o _ | .v2s o | .ballot o _ => opRegs (typeWords o.ty) o.d
  | .popc o | .clz o | .ctz o | .pfxpop o | .cmp o _ | .fcmp o _ | .fclass o | .matchLanes o _ | .dot4 o _
  | .fdp4 o | .pack o _ _ | .unpack o _ _ | .blkup o _ => opRegs 1 o.d
  | .blkpk o _ _ scale => opRegs 1 o.d ++ opRegs 1 scale
  | .movi _ d ty _ => opRegs (typeWords ty) d
  | .movh _ d _ => opRegs 1 d
  | .ld m | .lds m | .ldtb m _ | .ldc m _ => opRegs (typeWords m.ty) m.d
  | .atom m _ => opRegs (typeWords m.ty) m.d
  | .cas m => opRegs (if m.ty == .b64 then 3 else 2) m.d
  | .tlread _ d _ | .ctread _ d _ => sRegs 2 d
  | .mwait _ d _ | .wpin _ d _ | .abwait _ _ d _ | .tkwait _ d _ _ _ | .tkadv _ d _ _ _ | .ctnew _ d _ | .ctenr _ d _ _
  | .ctleave _ d _ _ | .ctrepar _ d _ _ | .ctfree _ d _ | .regqry _ d _ | .waitq _ d _ | .pollq _ d _ | .recruit _ d _ _
  | .hjoin _ d | .cxrd _ d _ => sRegs 1 d
  | .ncall _ _ d _ _ _ nout1 => vRegs (nout1.toNat + 1) d
  | .trace _ _ d _ _ | .traceNext _ _ d _ => vRegs 2 d
  | .trend _ d => vRegs 1 d
  | .hget _ d _ => opRegs 1 d
  | .rqrd _ d _ _ => opRegs 1 d
  | _ => []

/-- The registers that the issue of an instruction must find landed (R26): those it reads or writes. -/
def touches (x : Instr) : List Reg := reads x ++ writes x

/-- The vector registers an instruction names, as REGBOUND checks them (R96). HRED's D and HGET's A name registers
of the recruiter and are not among them. -/
def vNamed (x : Instr) : List Nat := (touches x).filterMap (fun r => match r with | .v n => some n | .s _ => none)

/-- The long-latency instructions (R69). -/
def longLatency (x : Instr) : Bool :=
  match x with
  | .ld _ | .lds _ | .ldtb _ _ | .ldc _ _ | .atom _ _ | .cas _ | .red _ _ | .div _ | .rem _ | .fdiv _ | .fsqrt _
  | .frcp _ | .frsq _ | .fexp2 _ | .flog2 _ | .fsin _ | .fcos _ | .ftanh _ | .ctread _ _ _ => true
  | _ => false

/-- The lane operands of an instruction. -/
def laneOp? (x : Instr) : Option LaneOp :=
  match x with
  | .sel o _ | .shfl o _ _ | .ballot o _ | .vote o _ _ | .redux o _ _ | .scan o _ _ _ | .matchLanes o _ | .firstl o _ => some o
  | .add o | .sub o | .mul o | .mulhi o | .mad o | .div o | .rem o | .min o | .max o | .abs o | .neg o | .addsat o _
  | .and o | .or o | .xor o | .andn o | .not o | .shl o | .shr o | .sar o | .rot o _ | .bfe o _ | .bfi o | .popc o
  | .clz o | .ctz o | .brev o | .pfxpop o | .isect o | .bclr o _ | .dot4 o _ | .cmp o _ | .setv o | .mkv o
  | .inv o | .isv o | .mov o | .fadd o | .fsub o | .fmul o | .ffma o | .fmin o | .fmax o | .fabs o | .fneg o | .fdiv o
  | .fsqrt o | .frcp o | .frsq o | .fexp2 o | .flog2 o | .fsin o | .fcos o | .fcmp o _ | .fclass o | .fdp4 o | .ftanh o
  | .frnd o | .cvt o _ | .pack o _ _ | .unpack o _ _ | .blkpk o _ _ _ | .blkup o _ | .v2s o => some o
  | _ => none

/-- The special operand that an instruction writes (R52). -/
def dstSpecial (x : Instr) : List (BitVec 8) :=
  let f (o : Operand) : List (BitVec 8) := match o with | .x c => [c] | _ => []
  match x with
  | .vmask _ d _ _ | .movi _ d _ _ | .movh _ d _ => f d
  | _ => match laneOp? x with | some o => f o.d | none => []

/-- The special operands that an instruction reads (R52). -/
def srcSpecials (x : Instr) : List (BitVec 8) :=
  (srcOps x).flatMap (fun p => match p.o with | .x c => if p.k = 0 then [] else [c] | _ => [])

/-- The special operand codes an instruction names (R52, R215). -/
def specials (x : Instr) : List (BitVec 8) :=
  let f (o : Operand) : List (BitVec 8) := match o with | .x c => [c] | _ => []
  dstSpecial x ++ (match laneOp? x with | some o => f o.a ++ f o.b | none => [])
    ++ (match x with
      | .braCond _ c _ _ | .sel _ c => f c
      | .shfl _ _ m | .ballot _ m | .vote _ _ m | .redux _ _ m | .scan _ _ _ m | .matchLanes _ m | .firstl _ m => f m
      | _ => [])

end Sys2Proof.Machine
end

