-- ==== Sys2Proof/Machine/Ops.lean ====
section
/-! DEFINITION. The named operations over registers, units and device memory, taking a trap, and the return from
one. -/

namespace Sys2Proof.Machine

/-- The outcome of a step. -/
abbrev Out := Host.Outcome State Fault Refusal

/-! Units. -/

def State.core (s : State) (c : Nat) : Core := Tab.get Core.reset s.cores c
def State.setCore (s : State) (c : Nat) (x : Core) : State := { s with cores := Tab.set s.cores c x }
def State.part (s : State) (p : Nat) : Partn := Tab.get Partn.reset s.parts p
def State.setPart (s : State) (p : Nat) (x : Partn) : State := { s with parts := Tab.set s.parts p x }
def State.qslot (s : State) (n : Nat) : QSlot := Tab.get QSlot.reset s.slots n
def State.setQslot (s : State) (n : Nat) (x : QSlot) : State := { s with slots := Tab.set s.slots n x }
def State.queue (s : State) (q : Nat) : QRun := Tab.get QRun.reset s.queues q
def State.setQueue (s : State) (q : Nat) (x : QRun) : State := { s with queues := Tab.set s.queues q x }
def State.eng (s : State) (e : Nat) : EngCtx := Tab.get EngCtx.reset s.engs e
def State.setEng (s : State) (e : Nat) (x : EngCtx) : State := { s with engs := Tab.set s.engs e x }
def State.cluster (s : State) (c : Nat) : Cluster := Tab.get Cluster.reset s.clusters c
def State.setCluster (s : State) (c : Nat) (x : Cluster) : State := { s with clusters := Tab.set s.clusters c x }
def State.gang? (s : State) (g : Nat) : Option Gang := Tab.find s.gangs g
def State.setGang (s : State) (g : Nat) (x : Gang) : State := { s with gangs := Tab.set s.gangs g x }
def State.setW (s : State) (w : Wave) : State := { s with w := w }

/-- The slice of a core: a pair of clusters (R421). -/
def sliceOf (core : Nat) : Nat := core / 128

/-- The partition that owns a slice, 8 for none (R417, R421). -/
def State.ownerOf (s : State) (slice : Nat) : Nat :=
  let v := Tab.get 8 s.dev.pmap slice
  if 8 ≤ v then v - 8 else 8

/-- The slot that holds a queue (R256). -/
def State.slotOf (s : State) (q : Nat) : Option Nat :=
  (List.range Config.nSlot).find? (fun n => (s.qslot n).en && (s.qslot n).mapped == some q)

/-- YREQ as a wave reads it: that of the slot that now holds its queue; of the slot it was placed from while none does (R264). -/
def State.yreqOf (s : State) (w : Wave) : Bool :=
  (s.qslot (((s.gang? w.id.gang).bind (fun x => s.slotOf x.launch.queue)).getD w.place.qslot)).yreq

/-- CCYC of a core (R104, R391): the cycles its slice's clock has counted since its core reset. -/
def State.ccyc (s : State) (core : Nat) : Nat :=
  (Tab.get 0 s.clock (sliceOf core) - (s.core core).ccBase) % 2 ^ 64

/-- The belay core's own cycle count (R215). -/
def State.belayCcyc (s : State) (cl : Nat) : Nat :=
  (Tab.get 0 s.clock (cl / 2) - (s.cluster cl).belayBase) % 2 ^ 64

/-- RCYC of a cluster's regroup unit (R270). -/
def State.rcyc (s : State) (cl : Nat) : Nat := (Tab.get 0 s.clock (cl / 2) - (s.cluster cl).rcBase) % 2 ^ 64

/-- Appends an event that happens next. -/
def State.post (s : State) (e : Instr) : State := { s with inbox := s.inbox ++ [e] }

/-- A fresh number for a free value. -/
def State.tick (s : State) : State := { s with fresh := s.fresh + 1 }

/-! Registers of the stream or helper part that executes (R86, R150). -/

/-- The helper part that executes, if one does. -/
def Wave.cur (w : Wave) : Option HPart :=
  match w.sel, w.team with
  | some k, some t => t.parts[k]?
  | _, _ => none

/-- Replaces the executing helper part. -/
def Wave.setCur (w : Wave) (p : HPart) : Wave :=
  match w.sel, w.team with
  | some k, some t => { w with team := some { t with parts := t.parts.set k p } }
  | _, _ => w

/-- Reads a scalar register; s0 reads 0, valid (R87). -/
def Wave.rdS (w : Wave) (n : Nat) : RWord :=
  if n = 0 then RWord.zero
  else
    match w.cur with
    | some p => Tab.get RWord.zero p.s n
    | none => Tab.get RWord.zero w.s n

/-- Writes a scalar register; a write to s0 is discarded (R87). -/
def Wave.wrS (w : Wave) (n : Nat) (x : RWord) : Wave :=
  if n = 0 then w
  else
    match w.cur with
    | some p => w.setCur { p with s := Tab.set p.s n x }
    | none => { w with s := Tab.set w.s n x }

/-- Whether the executing part uses helper registers of a lending wave (R150). -/
def Wave.lent (w : Wave) : Bool :=
  match w.cur with
  | some p => p.lender.isSome
  | none => false

/-- Reads a vector register. -/
def Wave.rdV (w : Wave) (n : Nat) : VReg :=
  match w.cur with
  | some p => if p.lender.isSome then Tab.get VReg.start p.v n else Tab.get VReg.start w.v n
  | none => Tab.get VReg.start w.v n

/-- Writes the lanes of `m` of a vector register. -/
def Wave.wrV (w : Wave) (n : Nat) (m : Word) (x : VReg) : Wave :=
  match w.cur with
  | some p =>
    if p.lender.isSome then w.setCur { p with v := Tab.set p.v n (VReg.merge m (Tab.get VReg.start p.v n) x) }
    else { w with v := Tab.set w.v n (VReg.merge m (Tab.get VReg.start w.v n) x) }
  | none => { w with v := Tab.set w.v n (VReg.merge m (Tab.get VReg.start w.v n) x) }

/-- The allocation count that REGBOUND is judged against: 16 in a lent part (R96, R150). -/
def Wave.count (w : Wave) : Nat := if w.lent then 16 else w.c

/-- EXEC of the stream or part that executes. -/
def Wave.execM (w : Wave) : Word :=
  match w.cur with
  | some p => p.exec
  | none => w.exec

/-- Writes EXEC: never the bit of an absent lane (R143), nor one outside the part (R150), nor that of a helper lane that a
fault has halted (R157). -/
def Wave.setExec (w : Wave) (m : Word) : Wave :=
  match w.cur with
  | some p => w.setCur { p with exec := m &&& p.lanes &&& ~~~p.faulted }
  | none => { w with exec := m &&& w.place.present }

/-- SEED of a lane (R78). -/
def Wave.seedOf (w : Wave) (l : Nat) : Word :=
  match w.cur with
  | some p => p.seed.getD l 1
  | none => w.seed.getD l 1

/-- Replaces the SEEDs. -/
def Wave.setSeeds (w : Wave) (x : List Word) : Wave :=
  match w.cur with
  | some p => w.setCur { p with seed := x }
  | none => { w with seed := x }

def Wave.pcNow (w : Wave) : Word :=
  match w.cur with
  | some p => p.pc
  | none => w.pc

/-- Moves the PC and remembers the instruction left behind (R62). -/
def Wave.setPc (w : Wave) (pc : Word) : Wave :=
  match w.cur with
  | some p => w.setCur { p with pc := pc, prev := p.pc }
  | none => { w with pc := pc, prev := w.pc }

def Wave.prevPc (w : Wave) : Word :=
  match w.cur with
  | some p => p.prev
  | none => w.prev

/-- How far the front end of the stream or part that executes stands ahead. -/
def Wave.aheadNow (w : Wave) : Option Ahead :=
  match w.cur with
  | some p => p.ahead
  | none => w.ahead

def Wave.setAhead (w : Wave) (a : Option Ahead) : Wave :=
  match w.cur with
  | some p => w.setCur { p with ahead := a }
  | none => { w with ahead := a }

/-- The stream or part has left the instruction at the head of what its front end has taken: the next one comes up where it stands
at the PC, else the front end starts anew there. -/
def Wave.popAhead (w : Wave) : Wave :=
  match w.aheadNow with
  | some a =>
    (match a.taken.drop 1 with
      | e :: es => w.setAhead (if e.pc == w.pcNow then some { a with taken := e :: es, issued := false } else none)
      | [] => w.setAhead none)
  | none => w

def Wave.wins (w : Wave) : List Window :=
  match w.cur with
  | some p => p.windows
  | none => w.windows

def Wave.setWins (w : Wave) (x : List Window) : Wave :=
  match w.cur with
  | some p => w.setCur { p with windows := x }
  | none => { w with windows := x }

def Wave.flight (w : Wave) : List Entry :=
  match w.cur with
  | some p => p.inflight
  | none => w.inflight

def Wave.setFlight (w : Wave) (x : List Entry) : Wave :=
  match w.cur with
  | some p => w.setCur { p with inflight := x }
  | none => { w with inflight := x }

/-- The helper index of a lane of the executing part (R150): its rank among the part's lanes. -/
def Wave.helperIdx (w : Wave) (l : Nat) : Option Nat :=
  match w.cur with
  | some p => if p.lanes.getLsbD l then some (p.hbase + popLanes (p.lanes &&& lowLanes l)) else none
  | none => none

/-- The core of a wave that stands on none: its gang is evicted (R408). -/
def noCore : Nat := 1024

/-- A stream that can execute. -/
def Wave.runs (w : Wave) : Bool := w.live && !w.halted && !w.stopped && decide (w.core < noCore)

/-- The scalar sources of register pairs. -/
def Wave.rdPair (w : Wave) (n : Nat) : Val :=
  let lo := w.rdS n
  let hi := w.rdS (n + 1)
  ⟨BitVec.ofNat 64 (lo.data.toNat + hi.data.toNat * 2 ^ 32), lo.valid && hi.valid⟩

/-- Writes a scalar pair, both words with one validity (R51). -/
def Wave.wrPair (w : Wave) (n : Nat) (x : Nat) (v : Bool) : Wave :=
  (w.wrS n ⟨BitVec.ofNat 32 x, v⟩).wrS (n + 1) ⟨BitVec.ofNat 32 (x / 2 ^ 32), v⟩

/-! Streams by name. -/

/-- Finds a stream. -/
def State.stream? (s : State) (id : WaveId) : Option Wave :=
  if s.w.live && s.w.id == id then some s.w else s.waves.find? (fun x => x.live && x.id == id)

/-- Replaces a stream. -/
def State.setStream (s : State) (x : Wave) : State :=
  if s.w.live && s.w.id == x.id then { s with w := x }
  else { s with waves := s.waves.map (fun y => if y.live && y.id == x.id then x else y) }

/-- Changes a stream, if it exists. -/
def State.onStream (s : State) (id : WaveId) (f : Wave → Wave) : State :=
  match s.stream? id with
  | some x => s.setStream (f x)
  | none => s

/-- Removes a stream. -/
def State.dropStream (s : State) (id : WaveId) : State :=
  if s.w.live && s.w.id == id then { s with w := { s.w with live := false } }
  else { s with waves := s.waves.filter (fun y => !(y.live && y.id == id)) }

/-- Every stream. -/
def State.streams (s : State) : List Wave := (s.w :: s.waves).filter (fun x => x.live)

/-- The name of a gang's belay stream. -/
def belayId (g : Nat) : WaveId := ⟨g, 0, 16⟩

/-- A group of a gang. -/
def State.grp? (s : State) (g j : Nat) : Option Grp := (s.gang? g).bind (fun x => x.groups[j]?)

/-- Changes a group of a gang, if it exists. -/
def State.onGrp (s : State) (g j : Nat) (f : Grp → Grp) : State :=
  match s.gang? g with
  | some x => s.setGang g { x with groups := x.groups.modify j f }
  | none => s

/-- The core that holds a group of a resident gang (R31). -/
def Gang.coreOf (x : Gang) (j : Nat) : Nat := 64 * x.cluster + x.base + j

/-! Device memory by physical address. -/

/-- Reads a little-endian value. -/
def State.rdPhys (s : State) (pa n : Nat) : Nat := leNat (Mem.readN s.mem pa n)

/-- Writes bytes. -/
def State.wrPhys (s : State) (pa : Nat) (bs : List Byte) : State := { s with mem := Mem.writeN s.mem pa bs }

/-- The numbers under which a parked or held access is awaited: its own, and those of the REDs that a merge holds (R170, R200). -/
def Parked.ids (a : Parked) : List Nat :=
  a.id :: (match a.op with
    | .merge us => us.flatMap (fun u => u.ids)
    | _ => [])

/-- The accesses of a partition that have left their agents and have not performed. -/
def State.pendingAccs (s : State) (p : Nat) : List Parked :=
  (s.part p).parked ++ (s.part p).parkWait ++ (s.stores.filter (fun h => h.part == p)).map (fun h => h.acc)

/-- Which accesses of a list have not performed. -/
def State.outstanding (s : State) (p : Nat) (ids : List Nat) : List Nat :=
  let xs := s.pendingAccs p
  ids.filter (fun i =>
    xs.any (fun a => a.ids.contains i) || s.remotes.any (fun a => a.id == i)
      || s.cores.any (fun c => c.2.upd.any (fun u => u.ids.contains i)))

/-- Registers freed in this cycle (R101). -/
def State.addFreed (s : State) (core n : Nat) : State :=
  let c := s.core core
  s.setCore core { c with hold := c.hold + n }

/-! Events to the firmware pair and host error records (R418, R419). -/

/-- An event record of 64 bytes (R418). -/
def eventRecord (kind p scyc : Nat) (body : List Byte) : List Byte :=
  leBytes 4 (kind * 2 ^ 24 + p * 2 ^ 16) ++ leBytes 4 0 ++ leBytes 8 scyc ++ List.replicate 16 0
    ++ (body ++ List.replicate 32 0).take 32

/-- Queues an event record (R418). -/
def State.event (s : State) (p kind : Nat) (body : List Byte) : State :=
  let x := s.part p
  s.setPart p { x with eventQ := x.eventQ ++ [eventRecord kind p x.scyc body] }

/-- A host error record of 32 bytes (R419). -/
def hostRecord (cls p : Nat) (unit : Config.HwUnit) (ctx addr count : Nat) : List Byte :=
  leBytes 1 cls ++ leBytes 1 p ++ leBytes 2 (Config.unitCode unit).toNat ++ leBytes 2 ctx ++ leBytes 2 0 ++ leBytes 8 addr ++ leBytes 4 count
    ++ List.replicate 12 0

/-- Queues a host error record and its copy to the firmware pair (R418, R419). -/
def State.hostError (s : State) (cls p : Nat) (unit : Config.HwUnit) (ctx addr count : Nat) : State :=
  let r := hostRecord cls p unit ctx addr count
  let s := { s with dev := { s.dev with herq := s.dev.herq ++ [r] } }
  s.event p 6 r

/-- The channels of device memory (R175). -/
def channelOf (pa : Nat) : Nat := pa / Config.channelBytes

/-- A unit reads `n` bytes of a table at a physical address: an uncorrectable error in them posts its record (R419), and the bytes are
what device memory holds. -/
def State.physNote (s : State) (p ctx pa n : Nat) : State :=
  match (List.range n).find? (fun k => s.ecc.contains (pa + k)) with
  | some k => s.hostError 4 p (.channel (channelOf (pa + k))) ctx (pa + k) 1
  | none => s

/-! Accesses from outside that wait. -/

/-- Holds an access from outside until a later cycle. -/
def State.hold (s : State) (e : Instr) : State := { s with dev := { s.dev with held := s.dev.held ++ [e] } }

/-- Whether a write of firmware to device memory is held (R423). -/
def State.fwOwes (s : State) : Bool :=
  s.dev.held.any (fun e => match e with | .firmwareRegisterWrite (.memory _ _) _ => true | _ => false)

/-- A write of firmware to a register: it takes its effect `go` after every earlier write of firmware to device memory, and waits
behind one that is held (R350). -/
def State.fwWrite (s : State) (e : Instr) (go : State → State) : State := if s.fwOwes then s.hold e else go s

/-! Results that land. -/

/-- Writes the result of a finished long-latency instruction into its destinations in the lanes of the entry, a scalar one
where lane 0 is among them (R26, R401, R404). -/
def landEntry (w : Wave) (e : Entry) : Wave :=
  (e.dests.zip e.res).foldl (fun w p =>
    match p.1 with
    | .v n => w.wrV n e.wlanes p.2
    | .s n => if e.wlanes.getLsbD 0 then w.wrS n (p.2.getD 0 RWord.none) else w) w

/-! Taking a trap (R394 to R399). -/

/-- Codes of XCAUSE (R394). -/
def Cause.code (c : Cause) : Nat :=
  match c with
  | .illegal => 1 | .pcrange => 2 | .lookahead => 3 | .regbound => 4 | .uniformity => 5 | .member => 6 | .tokbusy => 7
  | .rangefault => 8 | .misalign => 9 | .dataerr => 10 | .bufrange => 11 | .poolarg => 12 | .regdead => 13
  | .helperfault => 14 | .guardstate => 15 | .engperm => 16 | .matarg => 17 | .matfault => 18 | .malformed => 19
  | .gridstate => 20 | .rayarg => 21 | .ctarg => 22 | .abarg => 23 | .abstate => 24 | .swtrap => 25 | .rqarg => 26
  | .hredarg => 27

/-- What a trap reports: cause, SUB, HIDX, XADDR, XLANE, and the word and PC of the instruction whose fault raised
it where that is not the instruction at P (R395, R396). -/
structure TrapInfo where
  cause : Cause
  sub : Nat := 0
  hidx : Nat := 0
  addr : BitVec 64 := 0
  lanes : Word := 0
  word : Option (BitVec 96) := none
  hpc : Option Word := none
deriving DecidableEq, Repr

/-- XCAUSE of a taken trap (R395). -/
def causeWord (t : TrapInfo) : Word :=
  BitVec.ofNat 32 (t.hidx % 32 * 2 ^ 16 + t.sub % 256 * 2 ^ 8 + t.cause.code)

/-- XCAUSE after a trap in handler mode: the outer frame with NEST and ICAUSE (R395, R399). -/
def nestWord (old : Word) (t : TrapInfo) : Word :=
  BitVec.ofNat 32 (2 ^ 31 + t.cause.code * 2 ^ 24 + old.toNat % 2 ^ 24)

/-- The trap-vector entry of a context (R397): EN, HCODE and HLEN. -/
def State.vector (s : State) (ctx : Nat) : Bool × Nat × Nat :=
  let a := s.dev.tvbase + 16 * ctx
  (bit (s.rdPhys (a + 12) 1) 0, s.rdPhys a 8, s.rdPhys (a + 8) 4)

/-- Whether a result in flight is one of TKADV or of the containment instructions other than CTREAD: no long-latency
instruction, so a trap waits until it has been written (R400). -/
def Entry.slow (e : Entry) : Bool :=
  let op := e.word.toNat / 2 ^ 88
  decide (0xD0 ≤ op) && op != 0xD7

/-- Whether a result in flight finishes before a trap is taken (R216, R400). -/
def Wave.finishes (w : Wave) (e : Entry) : Bool := w.belay || e.slow

/-- The replay queue as it stands after a trap: RED writes no register and is no entry (R400). -/
def replayOf (es : List Entry) : List Entry := es.filter (fun e => !e.dests.isEmpty && !e.slow)

/-- A fault of a context drops its rays in every traversal unit and its unresolved grids (R335). -/
def State.dropTraced (s : State) (ctx : Nat) : State :=
  let drop (w : Wave) : Wave := if w.place.ctx = ctx then { w with rays := [] } else w
  { s with
    w := drop s.w
    waves := s.waves.map drop
    clusters := s.clusters.map (fun c => (c.1, { c.2 with grids := c.2.grids.filter (fun g => g.2.ctx != ctx) })) }

/-- Posts the event of an untaken trap: the frame, in seven words and XADDR (R399, R418). An untaken trap is the fault of a
context that R335 names (DEDUCED: a trap that its handler takes ends nothing). -/
def State.untaken (s : State) (w : Wave) : State :=
  (s.dropTraced w.place.ctx).event w.place.part 5
    (leBytes 4 w.place.ctx ++ leBytes 4 w.core ++ leBytes 4 w.slot ++ leBytes 4 w.xcause.toNat ++ leBytes 4 w.xpc.toNat
      ++ leBytes 8 w.xaddr.toNat ++ leBytes 4 w.xlane.toNat)

/-- The trap frame (R396): XPC, XHPC, XCAUSE, XADDR, XLANE and the logged word; the unfinished long-latency
instructions become the replay queue, and what the front end has done ahead is undone (R22). A belay stream holds no replay
queue: its results finish first (R216). Of the results that finish first, one that met an error writes nothing: the one that
the trap reports is dropped, and its destination keeps its old contents (DESIGN CHOICE: the manual does not say what becomes of
it without a replay queue); another one stays for a DATAERR of its own after the return. -/
def trapFrame (w : Wave) (pc : Word) (word : BitVec 96) (t : TrapInfo) : Wave :=
  let first := w.inflight.filter w.finishes
  let w1 := (first.filter (fun e => e.bad == 0)).foldl landEntry w
  { w1 with
    xpc := pc, xhpc := t.hpc.getD pc, xcause := causeWord t, xaddr := t.addr, xlane := t.lanes,
    xword := t.word.getD word, replay := if w.belay then [] else replayOf w.inflight,
    inflight := (first.filter (fun e => e.bad != 0 && e.st != .failed)).map (fun e => { e with st := .landed }),
    windows := [], wait := .none, ahead := none }

/-- Takes a trap of a stream at P = `pc` (R396): the handler starts at 0, or the wave stops where the trap is untaken
(R399). -/
def State.takeTrap (s : State) (w : Wave) (pc : Word) (word : BitVec 96) (t : TrapInfo) : State × Wave :=
  if w.handler then
    let w' := { w with xcause := nestWord w.xcause t, stopped := true, wait := .none, ahead := none, rays := [] }
    (s.untaken w', w')
  else
    let w' := trapFrame w pc word t
    let s := s.physNote w.place.part w.place.ctx (s.dev.tvbase + 16 * w.place.ctx) 16
    if (s.vector w.place.ctx).1 then (s, { w' with handler := true, pc := 0, prev := pc })
    else
      let w' := { w' with stopped := true, rays := [] }
      (s.untaken w', w')

/-- The accesses that must perform before a trap of the stream is taken: those whose result is written before it
(R400), and every one of a belay stream (R216). A helper's trap waits for none. -/
def Wave.trapWaits (w : Wave) : List Nat :=
  if w.sel.isSome || w.handler then []
  else w.inflight.flatMap (fun e => if w.finishes e then e.waits else [])

/-- The oldest result that must finish before a trap and has met an uncorrectable error: its DATAERR is taken first (R193,
R216, R400). -/
def Wave.owedError (w : Wave) : Option Entry :=
  if w.sel.isSome || w.handler then none
  else w.inflight.find? (fun e => w.finishes e && e.bad != 0 && e.st != .failed && e.waits.isEmpty)

/-- The lines that the load at which the stream stands has reached, as `Wait.merges` has them (R170). -/
def Wave.reached (w : Wave) : List (Nat × Nat) :=
  match w.cur, w.wait with
  | some p, _ => p.reached
  | none, .merges ls => ls
  | none, _ => []

/-- Word-level traps (R157). -/
def Cause.wordLevel (c : Cause) : Bool :=
  match c with
  | .illegal | .lookahead | .regbound | .pcrange => true
  | _ => false

/-- The lanes of a part that a trap faults (R157): every EXEC lane for a word-level one; for one of an instruction that acts as a
whole and so names no lane of the part, its EXEC lanes too, or with none left all that have not faulted (DESIGN CHOICE: the
manual charges a fault to helper lanes only); else the lanes that it names, in EXEC or, for an access made before, out of it
since. -/
def HPart.faulting (p : HPart) (i : TrapInfo) (scalar : Bool) : Word :=
  let left := p.lanes &&& ~~~p.faulted
  if i.cause.wordLevel then p.exec
  else if scalar || (i.lanes &&& p.lanes) == 0 then (if p.exec == 0 then left else p.exec)
  else i.lanes &&& left

/-- Whether a word is an LDS or an STS, which act as a whole (R192). -/
def actsWhole (word : BitVec 96) : Bool := word.toNat / 2 ^ 88 == 0x82 || word.toNat / 2 ^ 88 == 0x83

/-- Marks helpers faulted and takes them out of EXEC (R157). A word-level trap faults every EXEC lane and ends the
part: results of it still in flight are dropped (DESIGN CHOICE: the manual does not say whether they land). Else the faulting
lanes halt and the part goes on with its next instruction, even where no lane is left in EXEC: it then acts in no lane until it
reaches HEXIT or is released (DESIGN CHOICE: the manual ends a part by HEXIT, by a word-level trap or by release only). -/
def helperTrap (w : Wave) (p : HPart) (t : Team) (word : BitVec 96) (i : TrapInfo) : Wave :=
  let whole := i.cause.wordLevel
  let ls := p.faulting i (actsWhole (i.word.getD word))
  let fs := (lanesOf ls).map (fun l =>
    (⟨p.hbase + popLanes (p.lanes &&& lowLanes l), i.cause, i.hpc.getD p.pc, i.addr, i.word.getD word⟩ : HFault))
  let left := p.exec &&& ~~~ls
  let p1 := { p with faulted := p.faulted ||| ls }
  let p' := if whole then { p1 with exec := 0, running := false, windows := [], inflight := [], reached := [], ahead := none }
            else { p1 with exec := left, pc := p.pc + 12, prev := p.pc, reached := [], ahead := none }
  match w.sel with
  | some k => { w with team := some { t with faults := t.faults ++ fs, parts := t.parts.set k p' } }
  | none => w

/-- Takes a trap at the instruction that executes: in a helper part a helper fault (R157), else R396. -/
def State.trapNow (s : State) (word : BitVec 96) (t : TrapInfo) : State :=
  match s.w.cur, s.w.team with
  | some p, some tm => { s with w := helperTrap s.w p tm word t }
  | _, _ =>
    let r := s.takeTrap s.w s.w.pc word t
    { r.1 with w := r.2 }

/-- Return from a trap (R404): landed entries write their results, waiting ones are pending again, and failed ones
stand ready to be issued again; what the handler itself has in flight stays pending, and the windows that it opened stay open. -/
def trapReturn (w : Wave) (pc : Word) : Wave :=
  let w' := (w.replay.filter (fun e => e.st == .landed)).foldl landEntry { w with handler := false }
  { w' with
      replay := []
      inflight := w.replay.filter (fun e => e.st != .landed)
        ++ w.inflight.map (fun e => if e.st == .landed then { e with st := .waiting } else e)
      wait := .none, pc := pc, prev := w.pc, ahead := none }

end Sys2Proof.Machine
end

