-- ==== Sys2Proof/Machine/Access.lean ====
section
/-! DEFINITION. Global memory: ranges, translation, the L1 and L2, update-only lines, change counts, parking, and the
loads, stores and atomics of every agent. -/

namespace Sys2Proof.Machine

/-! Page kinds (R180): 0 strongly ordered, 1 release-consistent, 2 unordered. -/

/-- Whether a physical address lies in a channel that a partition owns: two channels to a slice (R175, R421). -/
def State.owns (s : State) (p pa : Nat) : Bool :=
  decide (channelOf pa < 16) && s.ownerOf (channelOf pa / 2) == p

/-- The result of a walk (R341): a leaf with the physical address of its 4 KiB page, or where and on which entry the
walk stopped. `reason` is 1 unmapped, 5 malformed, 6 outside the partition (R345). -/
inductive Walk where
  | leaf (l : Leaf)
  | stop (reason level ent : Nat)
deriving DecidableEq, Repr

/-- A leaf from its entry; `off` is the 4 KiB page within a larger page. -/
def leafOf (pte level off : Nat) : Leaf where
  cnode := bits pte 63 40
  frame := bits pte 39 12 * 4096 + off
  ord := bits pte 11 10
  cow := bit pte 9
  cmp := bit pte 8
  w := bit pte 7
  pres := bit pte 6
  level := level
  ent := pte

/-- One entry of a walk judged (R340): the next table, a leaf, or a stop. -/
def judge (s : State) (p ia level pte : Nat) : Walk ⊕ Nat :=
  let size := bits pte 5 4
  let leafBad := bits pte 3 1 != 0 || bits pte 11 10 == 3
  let fin (off : Nat) : Walk ⊕ Nat :=
    let l := leafOf pte level off
    if s.owns p l.frame then .inl (.leaf l) else .inl (.stop 6 level pte)
  if !bit pte 0 then .inl (.stop 1 level pte)
  else if 1 ≤ level && size == 3 then
    if bits pte 63 40 != 0 || bits pte 11 6 != 0 then .inl (.stop 5 level pte) else .inr (bits pte 39 12 * 4096)
  else if level == 1 && size == 2 then
    if bits pte 20 12 != 0 || leafBad then .inl (.stop 5 level pte) else fin (bits ia 20 12 * 4096)
  else if level == 0 && size == 0 then
    if leafBad then .inl (.stop 5 level pte) else fin 0
  else if level == 0 && size == 1 then
    if leafBad || bits pte 15 12 != bits ia 15 12 then .inl (.stop 5 level pte) else fin 0
  else .inl (.stop 5 level pte)

/-- The walk from a table at `table`, level `n - 1` first (R341). -/
def walkFrom (s : State) (p ia : Nat) : Nat → Nat → Walk
  | 0, _ => .stop 5 0 0
  | n + 1, table =>
    let pte := s.rdPhys (table + 8 * bits ia (20 + 9 * n) (12 + 9 * n)) 8
    match judge s p ia n pte with
    | .inl r => r
    | .inr t => walkFrom s p ia n t

/-- A walk of the partition's page table (R341). -/
def State.walk (s : State) (p ia : Nat) : Walk := walkFrom s p ia 4 (bits (s.part p).ptroot 39 12 * 4096)


/-- Why a leaf is unfit: not resident, copy-on-write, not writable; else `k`. -/
def Leaf.reason (l : Leaf) (write : Bool) (k : Nat) : Nat :=
  if !l.pres then 2 else if write && l.cow then 3 else if write && !l.w then 4 else k

/-- Why a page is unfit (R189, R191, R345), the lowest reason that applies; 0 where it is fit. A malformed entry that stands
where a leaf does, and a leaf outside the partition, are judged by their PRES, COW and W first. -/
def Walk.reason (r : Walk) (write : Bool) : Nat :=
  match r with
  | .stop k lvl ent =>
    if k = 1 || !(lvl == 0 || (lvl == 1 && bits ent 5 4 == 2)) then k else (leafOf ent lvl 0).reason write k
  | .leaf l => l.reason write 0

/-- The page kind a walk gives; a page with no leaf is treated as strongly ordered (R180). -/
def Walk.kind (r : Walk) : Nat :=
  match r with
  | .leaf l => l.ord
  | .stop _ _ _ => 0

def Walk.level (r : Walk) : Nat := match r with | .leaf l => l.level | .stop _ l _ => l
def Walk.ent (r : Walk) : Nat := match r with | .leaf l => l.ent | .stop _ _ e => e

/-! Ranges (R177, R178). -/

/-- A context's range register i: RBASE, RLIM, ROFF, RATTR (R354). -/
def State.rangeReg (s : State) (ctx i : Nat) : Nat × Nat × Nat × Nat :=
  let a := bits s.dev.ctxbase 39 9 * 512 + 512 * ctx + 32 * i
  (s.rdPhys a 8, s.rdPhys (a + 8) 8, s.rdPhys (a + 16) 8, s.rdPhys (a + 24) 8)

/-- Translates one byte of a VA by the first enabled range that holds it (R178): IA and attributes, or a range
fault. -/
def rangeFrom (s : State) (ctx va : Nat) (write : Bool) : Nat → Nat → Option (Nat × Nat)
  | 0, _ => none
  | n + 1, i =>
    let r := s.rangeReg ctx i
    if bit r.2.1 0 && va / 2 ^ 48 == 0 && decide (bits r.1 47 12 ≤ bits va 47 12)
        && decide (bits va 47 12 ≤ bits r.2.1 47 12) then
      if write && bit r.2.2.2 2 then none else some ((va + bits r.2.2.1 47 0) % 2 ^ 48, r.2.2.2)
    else rangeFrom s ctx va write n (i + 1)

def State.range (s : State) (ctx va : Nat) (write : Bool) : Option (Nat × Nat) := rangeFrom s ctx va write 8 0

def attrRemote (a : Nat) : Bool := bit a 3
def attrNode (a : Nat) : Nat := bits a 23 16
def attrNoL1 (a : Nat) : Bool := bit a 1

/-! Home slices (R172). -/

/-- The L2 slices of a partition: eight to a slice of the device, in ascending order (R421). -/
def State.l2Slices (s : State) (p : Nat) : List Nat :=
  ((List.range 8).filter (fun k => s.ownerOf k == p)).flatMap (fun k => (List.range 8).map (fun j => 8 * k + j))

/-- The home slice of an IA (R172). -/
def State.home (s : State) (p ia : Nat) : Nat :=
  let sb := ia / 512
  let h := Nat.xor (Nat.xor (sb % 65536) (sb / 65536 % 65536)) (sb / 2 ^ 32 % 128)
  let l := s.l2Slices p
  l.getD (h % l.length) 0

/-- The MTU that serves a home slice: one to each channel of the partition (R343). -/
def State.mtuOf (s : State) (p ia : Nat) : Nat := s.home p ia % (2 * ((s.l2Slices p).length / 8))

/-! Translation caches (R343). -/

/-- A pointer entry that a cache holds: its MTU, its level and the IA above that level's index, with the table it names. -/
abbrev PtrEnt := (Nat × Nat × Nat) × Nat

/-- A walk of MTU `m` from a table, level `n - 1` first, that takes the pointer entries its cache holds; those it reads on the way
are returned. -/
def walkVia (s : State) (p ia m : Nat) (ptrs : List PtrEnt) : Nat → Nat → Walk × List PtrEnt
  | 0, _ => (.stop 5 0 0, [])
  | n + 1, table =>
    let key := (m, n, ia / 2 ^ (12 + 9 * n))
    match ptrs.find? (fun e => e.1 == key) with
    | some e => walkVia s p ia m ptrs n e.2
    | none =>
      match judge s p ia n (s.rdPhys (table + 8 * bits ia (20 + 9 * n) (12 + 9 * n)) 8) with
      | .inl r => (r, [])
      | .inr t =>
        let q := walkVia s p ia m ptrs n t
        (q.1, (key, t) :: q.2)

/-- The entries that such a walk reads, by physical address. -/
def entriesRead (s : State) (p ia m : Nat) (ptrs : List PtrEnt) : Nat → Nat → List Nat
  | 0, _ => []
  | n + 1, table =>
    match ptrs.find? (fun e => e.1 == (m, n, ia / 2 ^ (12 + 9 * n))) with
    | some e => entriesRead s p ia m ptrs n e.2
    | none =>
      let a := table + 8 * bits ia (20 + 9 * n) (12 + 9 * n)
      match judge s p ia n (s.rdPhys a 8) with
      | .inl _ => [a]
      | .inr t => a :: entriesRead s p ia m ptrs n t

/-- The entries that the translation of an IA reads: none where the cache holds its leaf. -/
def State.walkReads (s : State) (p ia : Nat) : List Nat :=
  let x := s.part p
  let m := s.mtuOf p ia
  if x.mtu.any (fun e => e.1 == (m, ia / 4096)) then []
  else entriesRead s p ia m x.ptrs 4 (bits x.ptroot 39 12 * 4096)

/-- A walk posts the records of the uncorrectable errors that it meets (R419). It names no context. -/
def State.walkNote (s : State) (p ia : Nat) : State :=
  if s.ecc.isEmpty then s else (s.walkReads p ia).foldl (fun s a => s.physNote p 0 a 8) s

/-- Translates an IA through the cache of the MTU that serves its home slice: a leaf that the cache holds is the translation, fit
for the access or not, until a shoot-down drops it; a walk fills the pointer entries and a resident leaf (R343). -/
def State.xlate (s : State) (p ia : Nat) : State × Walk :=
  let x := s.part p
  let m := s.mtuOf p ia
  match x.mtu.find? (fun e => e.1 == (m, ia / 4096)) with
  | some e => (s, .leaf e.2)
  | none =>
    let r := walkVia s p ia m x.ptrs 4 (bits x.ptroot 39 12 * 4096)
    let s := s.walkNote p ia
    let y := { (s.part p) with ptrs := r.2 ++ x.ptrs }
    match r.1 with
    | .leaf l => (s.setPart p (if l.pres then { y with mtu := ((m, ia / 4096), l) :: y.mtu } else y), .leaf l)
    | w => (s.setPart p y, w)

/-- Bytes of the page of a leaf (R340). -/
def Leaf.size (l : Leaf) : Nat := if l.level = 1 then 2 ^ 21 else if bits l.ent 5 4 = 1 then 65536 else 4096

/-- The first 4 KiB page of the page of a leaf, of which `page` is one (R340). -/
def Leaf.first (l : Leaf) (page : Nat) : Nat := page / (l.size / 4096) * (l.size / 4096)

/-- The first 4 KiB page of the page that a walk of `page` ends in (R340): a leaf gives the page its size,
whether it is fit or not; where no entry or a malformed one stands, the page is one of 4 KiB (log 186). -/
def Walk.first (r : Walk) (page : Nat) : Nat :=
  match r with
  | .leaf l => l.first page
  | .stop k lvl ent => if k = 6 then (leafOf ent lvl 0).first page else page

/-- The first 4 KiB page of the page of an IA. -/
def State.pageOf (s : State) (p ia : Nat) : Nat := (s.walk p ia).first (ia / 4096)

/-- The caches without the entries that overlap `n` pages of 4 KiB from `first` on (R349): a leaf covers the whole of its page, and a
pointer entry at level `n` covers 2^9n pages. -/
def Partn.forget (x : Partn) (first n : Nat) : Partn :=
  { x with
    mtu := x.mtu.filter (fun e =>
      let lo := e.2.first e.1.2
      !(decide (lo < first + n) && decide (first < lo + e.2.size / 4096)))
    ptrs := x.ptrs.filter (fun e =>
      let lo := e.1.2.2 * 2 ^ (9 * e.1.2.1)
      !(decide (lo < first + n) && decide (first < lo + 2 ^ (9 * e.1.2.1)))) }

/-! Change counts (R361 to R367). -/

/-- The physical address of a node (R362). -/
def State.nodeAt (s : State) (p n : Nat) : Nat := bits (s.part p).ctbase 39 12 * 4096 + 32 * n

/-- A node exists: the table is on, the ID is in range, and its USED is 1 (R362, R364). -/
def State.nodeUsed (s : State) (p n : Nat) : Bool :=
  let k := (s.part p).ctk
  k != 0 && n != 0 && decide (n < 2 ^ k) && bit (s.rdPhys (s.nodeAt p n + 15) 1) 7

def State.nodeCount (s : State) (p n : Nat) : Nat := s.rdPhys (s.nodeAt p n) 6
def State.nodeSat (s : State) (p n : Nat) : Bool := bit (s.rdPhys (s.nodeAt p n + 15) 1) 6
def State.nodeParent (s : State) (p n : Nat) : Nat := s.rdPhys (s.nodeAt p n + 8) 3
def State.nodeOwner (s : State) (p n : Nat) : Nat := s.rdPhys (s.nodeAt p n + 12) 2 % 4096
def State.nodeChildren (s : State) (p n : Nat) : Nat := s.rdPhys (s.nodeAt p n + 16) 3
def State.nodePages (s : State) (p n : Nat) : Nat := s.rdPhys (s.nodeAt p n + 20) 4

/-- Adds to a node's COUNT; past 2^48 − 1 it stays there and SAT is set (R367). -/
def State.addCount (s : State) (p n k : Nat) : State :=
  let a := s.nodeAt p n
  let c := s.nodeCount p n + k
  let s := s.physNote p (s.nodeOwner p n) a 16
  if c < 2 ^ 48 then s.wrPhys a (leBytes 6 c)
  else
    let b := s.rdPhys (a + 15) 1
    (s.wrPhys a (leBytes 6 (2 ^ 48 - 1))).wrPhys (a + 15) (leBytes 1 (if bit b 6 then b else b + 64))

/-- Adds to PEND(n) (R366). -/
def State.addPend (s : State) (p n k : Nat) : State :=
  let x := s.part p
  s.setPart p { x with rollup := Tab.set x.rollup n (Tab.get 0 x.rollup n + k) }

/-- A bump that rolls up: COUNT and PEND rise together (R366). -/
def State.bump (s : State) (p n k : Nat) : State := if s.nodeUsed p n then (s.addCount p n k).addPend p n k else s

/-! The L2: a line takes its node from the translation that fills it (R365); bytes stand in device memory. -/

/-- The rank of a channel among the partition's channels (R416). -/
def State.chanRank (s : State) (p ch : Nat) : Nat := ((List.range ch).filter (fun c => s.ownerOf (c / 2) == p)).length

/-- The address of the compression tag of a superblock (R416). -/
def State.tagAt (s : State) (p pa : Nat) : Nat :=
  let ch := channelOf pa
  (s.part p).tagbase + (pa - ch * Config.channelBytes) / 512 + s.chanRank p ch * (12 * 2 ^ 20)

/-- L2_WRITE_BACK: a modified line is written back; on a compressible page the superblock's tag becomes its sector
count, which belongs to the implementation (R173, R174). -/
def State.writeBack (s : State) (p line : Nat) : State :=
  let x := s.part p
  match x.l2.find? (fun e => e.line == line && e.dirty) with
  | none => s
  | some e =>
    let s1 := s.setPart p { x with l2 := x.l2.map (fun e => if e.line == line then { e with dirty := false } else e) }
    if e.cmp then
      s1.tick.wrPhys (s.tagAt p e.pa) [BitVec.ofNat 8 ((Config.sectors s1.fresh).toNat + 1)]
    else s1

/-- Whether an SRAM byte is one of the L2 line that holds a physical line. -/
def SramByte.inLine (b : SramByte) (pa : Nat) : Bool :=
  match b with
  | .l2 a => decide (pa ≤ a) && decide (a < pa + 128)
  | .l1 _ _ | .buf _ _ _ _ | .grid _ _ _ => false

/-- Makes room for a line in its home slice: a full slice writes back and drops the line it has held longest (R2, R161; which
line leaves is a DESIGN CHOICE, and no program sees it). -/
def State.l2Room (s : State) (p line : Nat) : State :=
  if (s.part p).l2.length < Config.l2Lines then s
  else
    let h := s.home p (line * 128)
    let mine := (s.part p).l2.filter (fun e => s.home p (e.line * 128) == h)
    match if mine.length < Config.l2Lines then none else mine.getLast? with
    | none => s
    | some v =>
      let s1 := s.writeBack p v.line
      { s1.setPart p { (s1.part p) with l2 := (s1.part p).l2.filter (fun e => e.line != v.line) } with
        sram := s1.sram.filter (fun b => !b.inLine v.pa) }

/-- The node that a line takes from a leaf (R365). Under an enrolment that has not been acknowledged, of which the leaf already
shows the node, it is the one that the leaf held when the enrolment was posted: what performs before the refresh point bumps the
old node or none (R373). -/
def State.fillNode (s : State) (p line : Nat) (l : Leaf) : Nat :=
  let base := line * 128 / l.size * l.size
  match (s.part p).ctreqs.find? (fun r => !r.leave && r.answer.isNone && r.node == l.cnode
      && decide (base < r.ia + 4096 * r.pages) && decide (r.ia < base + l.size)) with
  | some r => Tab.get 0 r.olds (base / 4096)
  | none => l.cnode

/-- The node of a line: the one its home slice holds, else that of the leaf which would fill it. -/
def State.lineNode (s : State) (p line : Nat) (l : Leaf) : Nat :=
  match (s.part p).l2.find? (fun e => e.line == line) with
  | some e => e.cnode
  | none => s.fillNode p line l

/-- The line of an IA as its home slice holds it; filled from the leaf where absent. `write` marks it modified. -/
def State.touchLine (s : State) (p line : Nat) (l : Leaf) (write : Bool) : State × Nat :=
  let x := s.part p
  match x.l2.find? (fun e => e.line == line) with
  | some e =>
    if write && !e.dirty then
      (s.setPart p { x with l2 := x.l2.map (fun y => if y.line == line then { y with dirty := true } else y) }, e.cnode)
    else (s, e.cnode)
  | none =>
    let s1 := s.l2Room p line
    let y := s1.part p
    let n := s.fillNode p line l
    (s1.setPart p { y with l2 := ⟨line, write, n, l.cmp, l.frame + line * 128 % 4096⟩ :: y.l2 }, n)

/-- The doorbells that a write of bytes rings: those whose 32-bit word in the partition's aperture it covers (R249,
R414). A DBBASE of 0 names no aperture. Where lanes of one store overlap in a word, the later of the bytes counts (R190). -/
def State.bells (s : State) (p : Nat) (bs : List Host.Cell) : List Instr :=
  let base := (s.part p).dbbase
  let byte (a : Nat) : Option Byte := (bs.reverse.find? (fun c => c.1 == a)).map (·.2)
  if base = 0 then []
  else
    (bs.map (·.1)).eraseDups.filterMap (fun a =>
      let ws := (List.range 4).filterMap (fun k => byte (a + k))
      if base ≤ a && decide (a < base + 262144) && a % 4 == 0 && ws.length == 4 then
        some (.doorbellWrite ((a - base) / 4) (BitVec.ofNat 32 (leNat ws)))
      else none)

/-- Whether a span of IAs meets the doorbell aperture of a partition (R249, R414). -/
def Partn.inAperture (x : Partn) (ia n : Nat) : Bool :=
  x.dbbase != 0 && decide (ia < x.dbbase + 262144) && decide (x.dbbase < ia + n)

/-- What an access has made of `s`, with the doorbells that it rang as the events that happen next: the later writes of its requester
come after them (R414, R420). -/
def State.bellsFirst (s t : State) : State := { t with inbox := t.inbox.drop s.inbox.length ++ s.inbox }

/-- Writes the bytes of one line as one write event (R202, R364). -/
def State.writeLine (s : State) (p line : Nat) (l : Leaf) (bs : List Host.Cell) : State :=
  let r := s.touchLine p line l true
  let s := bs.foldl (fun s b => { s with mem := Mem.write s.mem (l.frame + b.1 % 4096) b.2 }) r.1
  let s := { s with inbox := s.inbox ++ s.bells p bs }
  s.bump p r.2 1

/-- Reads bytes of one line. -/
def State.readLine (s : State) (l : Leaf) (ia n : Nat) : List Byte := Mem.readN s.mem (l.frame + ia % 4096) n

/-- Whether a byte holds an uncorrectable error, in device memory or in its L2 line. -/
def State.badByte (s : State) (l : Leaf) (ia : Nat) : Bool :=
  s.ecc.contains (l.frame + ia % 4096) || s.sram.contains (.l2 (l.frame + ia % 4096))

/-! Fault records and parking (R345, R346). -/

/-- SRC of an agent (R345). -/
def Agent.src (a : Agent) : Nat :=
  match a with
  | .wave _ core _ => core
  | .copyEng _ _ core => core
  | .engine e => 0x8000 + e
  | .sampler cl => (Config.unitCode (.sampler cl)).toNat
  | .host | .fabric => 0xC000

/-- A fault record (R345). -/
def faultRec (kind reason ctx level seq ia ent src : Nat) : List Byte :=
  leBytes 4 (kind * 2 ^ 28 + reason * 2 ^ 24 + ctx % 4096 * 2 ^ 12 + level) ++ leBytes 4 seq ++ leBytes 8 ia
    ++ leBytes 8 ent ++ leBytes 4 src ++ leBytes 4 0

def State.fault (s : State) (p : Nat) (r : List Byte) : State :=
  let x := s.part p
  s.setPart p { x with faultQ := x.faultQ ++ [r] }

/-- Parks an access (R346): the next park number and one record, or, with its MTU's buffer full, a place in front of
the MTU. -/
def State.park (s : State) (p : Nat) (a : Parked) (r : Walk) (write : Bool) : State :=
  let x := s.part p
  let m := s.mtuOf p a.ia
  let n := (x.parked.filter (fun e => s.mtuOf p e.ia == m)).length
  if n < Config.parkRoom then
    let s := s.setPart p { x with parked := x.parked ++ [{ a with seq := x.parkSeq }], parkSeq := (x.parkSeq + 1) % 2 ^ 32 }
    s.fault p (faultRec 1 (r.reason write) a.ctx r.level x.parkSeq a.ia r.ent a.agent.src)
  else s.setPart p { x with parkWait := x.parkWait ++ [{ a with seq := 0 }] }

/-- A new park or remote number that never changes. -/
def State.newId (s : State) : State × Nat := ({ s with nextId := s.nextId + 1 }, s.nextId)

/-- Kind under which the L1 of a core issues an access: strongly ordered while its page-kind cache holds no entry
(R180). -/
def State.l1Kind (s : State) (core ctx ia : Nat) : Nat :=
  match (s.core core).kinds.find? (fun k => k.ctx == ctx && decide (k.page ≤ ia) && decide (ia < k.page + k.size)) with
  | some k => k.kind
  | none => 0

/-- Kind under which an agent issues an access to a page: a wave's L1 names it (R180), any other agent takes the page's own. -/
def State.issueKind (s : State) (agent : Agent) (ctx ia : Nat) (r : Walk) : Nat :=
  match agent with
  | .wave w core _ => if w.wave = 16 then r.kind else s.l1Kind core ctx ia
  | .copyEng _ _ _ | .engine _ | .sampler _ | .host | .fabric => r.kind

/-- Parks an access under a new number, behind those that wait in front of its MTU (R346). -/
def State.parkNew (s : State) (p : Nat) (agent : Agent) (ctx ia : Nat) (op : ParkOp) (r : Walk) (write : Bool) :
    State × Nat :=
  let k := s.newId
  let a : Parked := ⟨k.2, 0, s.issueKind agent ctx ia r, agent, ctx, ia, op⟩
  let x := k.1.part p
  (if x.parkWait.any (fun e => s.mtuOf p e.ia == s.mtuOf p ia) then k.1.setPart p { x with parkWait := x.parkWait ++ [a] }
   else k.1.park p a r write, k.2)

/-! Atomic operations (R197). -/

/-- The two's-complement order of a type: the smaller or larger. -/
def minMaxI (t : ElemType) (isMax : Bool) (a b : Nat) : Nat :=
  match intFmt t with
  | some (n, true) => if decide (signedOf n a < signedOf n b) != isMax then a else b
  | _ => if decide (a < b) != isMax then a else b

/-- The new word of an atomic (R197): w in memory, x the operand. -/
def atomNew (op : AtomOpc) (t : ElemType) (w x : Nat) : Nat :=
  let m := if wide64 t then 2 ^ 64 else 2 ^ 32
  match op with
  | .add => if t == .f32 then addF32 .rne w x else (w + x) % m
  | .min => if t == .f32 then minMaxF .f32 false w x else minMaxI t false w x
  | .max => if t == .f32 then minMaxF .f32 true w x else minMaxI t true w x
  | .and => Nat.land w x
  | .or => Nat.lor w x
  | .xor => Nat.xor w x
  | .exch => x

/-- Bytes of an element in memory (R185). -/
def typeBytes (t : ElemType) : Nat :=
  match t with
  | .i8 | .n8 | .e4m3 | .e5m2 | .t8 | .t6 | .e8m0 | .e2m1 => 1
  | .i16 | .n16 | .f16 | .bf16 => 2
  | .b32 | .i32 | .n32 | .f32 => 4
  | .b64 | .i64 | .n64 => 8

/-- Cells of a value at an IA. -/
def cellsOf (ia n x : Nat) : List Host.Cell := (List.range n).zip (leBytes n x) |>.map (fun q => (ia + q.1, q.2))

/-- The lines of a list of cells, in the order in which they first occur. -/
def linesOf (bs : List Host.Cell) : List Nat :=
  bs.foldl (fun ls b => if ls.contains (b.1 / 128) then ls else ls ++ [b.1 / 128]) []

/-- The lowest IA of a list of cells. -/
def lowIa (bs : List Host.Cell) : Nat := bs.foldl (fun m b => Nat.min m b.1) ((bs.headD (0, 0)).1)

/-- The unit and the host record of an uncorrectable error that a home slice meets at an IA: of its L2 line, or of device memory
(R193, R419). -/
def State.dramError (s : State) (p ctx ia : Nat) : State :=
  let pa := match (s.xlate p ia).2 with | .leaf l => l.frame + ia % 4096 | .stop _ _ _ => 0
  if s.sram.contains (.l2 pa) then s.hostError 3 p (.l2Slice (s.home p ia)) ctx ia 1 else s.hostError 4 p (.channel (channelOf pa)) ctx ia 1

/-! What the L1 of a core learns from the memory side (R169, R180). -/

/-- A response carries its page's kind and size; the cache of 256 entries fills from it, and the L1's lines of the page are of
that kind (R180). -/
def State.learnKind (s : State) (core ctx ia : Nat) (l : Leaf) : State :=
  let c := s.core core
  if c.kinds.any (fun k => k.ctx == ctx && decide (k.page ≤ ia) && decide (ia < k.page + k.size)) then s
  else
    let page := ia / l.size * l.size
    s.setCore core { c with
      kinds := (⟨ctx, page, l.size, l.ord⟩ :: c.kinds).take 256
      l1 := c.l1.map (fun e => if e.ia / l.size * l.size == page then { e with kind := l.ord } else e) }

/-- Drops the L1 copy of a line. -/
def State.l1Drop (s : State) (core line : Nat) : State :=
  let c := s.core core
  s.setCore core { c with l1 := c.l1.filter (fun e => e.ia != line * 128) }

/-- A store updates an L1 copy that is present (R169). -/
def State.l1Update (s : State) (core line : Nat) (bs : List Host.Cell) : State :=
  let c := s.core core
  s.setCore core { c with l1 := c.l1.map (fun e =>
    if e.ia == line * 128 then { e with data := bs.foldl (fun d b => d.set (b.1 % 128) b.2) e.data } else e) }

/-- What the performing of an access at the home slice does to the L1 of the core that issued it: a store updates its copy,
anything else discards it, as a COPY's write does (R169, R170, R298). A belay stream has no L1. -/
def State.l1After (s : State) (agent : Agent) (ctx ia : Nat) (l : Leaf) (stored : Option (List Host.Cell)) : State :=
  match agent with
  | .wave w core _ =>
    if w.wave = 16 then s
    else
      (match stored with
        | some bs => s.l1Update core (ia / 128) bs
        | none => s.l1Drop core (ia / 128)).learnKind core ctx ia l
  | .copyEng _ _ core => s.l1Drop core (ia / 128)
  | .engine _ | .sampler _ | .host | .fabric => s

/-! Update-only lines (R170). -/

/-- Whether a slot's word holds an uncorrectable error. -/
def State.slotBad (s : State) (l : Leaf) (u : UpdSlot) : Bool := (List.range (typeBytes u.ty)).any (fun k => s.badByte l (u.ia + k))

/-- One slot of an update-only line applied at the home slice: one RED on the stored word. -/
def State.applySlot (s : State) (p : Nat) (l : Leaf) (u : UpdSlot) : State :=
  let n := typeBytes u.ty
  let x := atomNew u.op u.ty (leNat (s.readLine l u.ia n)) u.val.toNat
  { s with mem := Mem.writeN s.mem (l.frame + u.ia % 4096) (leBytes n x), inbox := s.inbox ++ s.bells p (cellsOf u.ia n x) }

/-- The merge of an update-only line: its full slots are applied as one write event, those apart whose word holds an
uncorrectable error (R170, R201, R364). -/
def State.mergeLine (s : State) (p line : Nat) (l : Leaf) (us : List UpdSlot) : State :=
  let s1 := (us.filter (s.slotBad l)).foldl (fun s u => s.dramError p u.ctx u.ia) s
  match us.filter (fun u => !s.slotBad l u) with
  | [] => (s1.touchLine p line l false).1
  | u :: us =>
    let t := s1.touchLine p line l true
    ((u :: us).foldl (fun s u => s.applySlot p l u) t.1).bump p t.2 1

/-! Accesses that reach a home slice (R190, R191, R349). -/

/-- Whether a page of the partition stands under a shoot-down that is running (R349). -/
def Partn.held (x : Partn) (ia : Nat) : Bool :=
  match x.shoots with
  | [] => false
  | d :: _ => decide (d.page ≤ ia / 4096) && decide (ia / 4096 < d.page + d.n)

/-- Whether a shoot-down runs in a partition. The units that read through the home slices wait for its end (R349). -/
def State.shooting (s : State) (p : Nat) : Bool := !(s.part p).shoots.isEmpty

/-- Whether an access is the merge of an update-only line. -/
def Parked.isMerge (a : Parked) : Bool :=
  match a.op with
  | .merge _ => true
  | _ => false

/-- The merges of a line that have left their cores before access number `before` and have not performed: an access to the line,
a later merge too, is served after them (R170, R203). -/
def State.mergeDue (s : State) (p line before : Nat) : List Nat :=
  ((s.pendingAccs p).filter (fun a => a.isMerge && a.ia / 128 == line && decide (a.id < before))).map (·.id)

/-- The update-only lines of a partition's cores whose pages are not fit for their merge. -/
def State.unfitLines (s : State) (p : Nat) : List (Nat × Nat) :=
  (s.cores.filter (fun c => s.ownerOf (sliceOf c.1) == p)).flatMap (fun c =>
    (((c.2.upd.map (fun u => u.ia / 128)).eraseDups).filter (fun ln => (s.xlate p (ln * 128)).2.reason true != 0)).map
      (fun ln => (c.1, ln)))

/-- Whether the units that read through the home slices wait: for the end of a shoot-down (R349), or for the merges that a recall
has brought or would bring to a home slice where they park (R170). -/
def State.unitsWait (s : State) (p : Nat) : Bool :=
  s.shooting p || (s.pendingAccs p).any Parked.isMerge || !(s.unfitLines p).isEmpty

/-- Holds an access under a new number (R349, R423). -/
def State.holdOp (s : State) (p : Nat) (agent : Agent) (ctx ia : Nat) (op : ParkOp) : State × Nat :=
  let k := s.newId
  ({ k.1 with stores := k.1.stores ++ [⟨p, ⟨k.2, 0, s.issueKind agent ctx ia (s.walk p ia), agent, ctx, ia, op⟩⟩] }, k.2)

/-- Performs a write or a merge on a fit page. -/
def State.performOp (s : State) (p : Nat) (agent : Agent) (ctx ia : Nat) (l : Leaf) (op : ParkOp) : State :=
  let line := ia / 128
  match op with
  | .write [] => s
  | .write bs => (s.writeLine p line l bs).l1After agent ctx ia l (some bs)
  | .quiet bs => bs.foldl (fun s b => { s with mem := Mem.write s.mem (l.frame + b.1 % 4096) b.2 }) (s.touchLine p line l true).1
  | .merge us => (s.mergeLine p line l us).l1After agent ctx ia l none
  | .read | .atomic _ _ _ _ | .cas _ _ _ _ | .tkadv _ _ | .sample _ _ _ => s

/-- Whether merges of a line are held at its home slice: what arrives after them keeps its place behind them. -/
def State.mergesHeld (s : State) (p line : Nat) : Bool :=
  s.stores.any (fun h => h.part == p && h.acc.isMerge && h.acc.ia / 128 == line)

/-- A write, an atomic or a merge that reaches its home slice, whose recall of the line has been made: held while a shoot-down
covers its page (R349) or behind the merges of its line (R170), parked on an unfit page (R191), else it performs with the leaf
returned. The number of one that has not performed is returned. -/
def State.arrive (s : State) (p : Nat) (agent : Agent) (ctx ia : Nat) (op : ParkOp) : State × (Leaf ⊕ Nat) :=
  let held (s : State) : State × (Leaf ⊕ Nat) := let k := s.holdOp p agent ctx ia op; (k.1, .inr k.2)
  let r := s.xlate p ia
  let park : State × (Leaf ⊕ Nat) := let k := r.1.parkNew p agent ctx ia op r.2 true; (k.1, .inr k.2)
  if (s.part p).held ia || s.mergesHeld p (ia / 128) then held s
  else
    match r.2 with
    | .leaf l =>
      if r.2.reason true != 0 then park
      else if (r.1.mergeDue p (ia / 128) r.1.nextId).isEmpty then (r.1, .inl l)
      else held r.1
    | .stop _ _ _ => park

/-- A write or a merge that reaches its home slice; the number of one that has not performed is returned. -/
def State.deliver (s : State) (p : Nat) (agent : Agent) (ctx ia : Nat) (op : ParkOp) : State × Option Nat :=
  let r := s.arrive p agent ctx ia op
  match r.2 with
  | .inl l => (r.1.performOp p agent ctx ia l op, none)
  | .inr k => (r.1, some k)

/-- Sends an update-only line of a core to its home slice: every full slot is applied (R170). -/
def State.sendLine (s : State) (p core line : Nat) : State :=
  let c := s.core core
  match c.upd.filter (fun u => u.ia / 128 == line) with
  | [] => s
  | u :: us =>
    ((s.setCore core { c with upd := c.upd.filter (fun u => u.ia / 128 != line) }).deliver p
      (.wave (u.waves.headD ⟨0, 0, 0⟩) core none) u.ctx u.ia (.merge (u :: us))).1

/-- Recalls every update-only copy of a line in the partition (R170). -/
def State.recall (s : State) (p line : Nat) : State :=
  (Tab.keys s.cores).foldl (fun s c =>
    if s.ownerOf (sliceOf c) == p && (s.core c).upd.any (fun u => u.ia / 128 == line) then s.sendLine p c line else s) s

/-- Whether a read that has reached a line at its home slice, when `e.2` was the next number, waits: the page stands under a
shoot-down (R349), or a merge that was recalled for it must perform first (R170). -/
def State.lineWaits (s : State) (p : Nat) (e : Nat × Nat) : Bool :=
  (s.part p).held (e.1 * 128) || !(s.mergeDue p e.1 e.2).isEmpty

/-- A read reaches a line at its home slice, once: every update-only copy is recalled, and no copy that begins later is any matter
of this read (R170). What it has reached is returned. -/
def State.reachLine (s : State) (p : Nat) (reached : List (Nat × Nat)) (line : Nat) : State × List (Nat × Nat) :=
  if reached.any (fun e => e.1 == line) then (s, reached)
  else
    let t := s.recall p line
    (t, reached ++ [(line, t.nextId)])

/-- A read reaches lines one after another. -/
def State.reachLines (s : State) (p : Nat) (reached : List (Nat × Nat)) (lines : List Nat) : State × List (Nat × Nat) :=
  lines.foldl (fun r ln => r.1.reachLine p r.2 ln) (s, reached)

/-- Whether a read of an IA is held at its home slice: its page stands under a shoot-down (R349), or a merge that its recall has
brought must perform first (R170). -/
def State.readHeld (s : State) (p ia : Nat) : Bool :=
  let t := s.recall p (ia / 128)
  t.lineWaits p (ia / 128, t.nextId)

/-! The L1 (R169, R180). -/

/-- The L1 copy of a line, by its first IA. -/
def State.l1Copy (s : State) (core line : Nat) : Option L1Line := (s.core core).l1.find? (fun e => e.ia == line * 128)

/-- Whether a byte of an L1 copy holds an uncorrectable error. -/
def State.l1Bad (s : State) (core ia : Nat) : Bool := (s.l1Copy core (ia / 128)).isSome && s.sram.contains (.l1 core ia)

/-- Makes room for a line in its set of 8 ways, which copies and update-only lines share (R169): the copy filled first leaves,
and where the set holds none, the update-only line allocated first is sent (R170). -/
def State.l1Room (s : State) (p core line : Nat) : State :=
  let c := s.core core
  let near (k : Nat) : Bool := k % 128 == line % 128 && k != line
  let ds := c.l1.filter (fun e => near (e.ia / 128))
  let us := (linesOf (c.upd.map (fun u => (u.ia, 0)))).filter near
  if ds.length + us.length < Config.l1Ways then s
  else
    match ds.getLast?, us with
    | some v, _ => s.setCore core { c with l1 := c.l1.filter (fun e => e.ia != v.ia) }
    | none, u :: _ => s.sendLine p core u
    | none, [] => s

/-- Whether an SRAM byte is one of a line of a core's L1. -/
def SramByte.inL1 (b : SramByte) (core line : Nat) : Bool :=
  match b with
  | .l1 c ia => c == core && ia / 128 == line
  | .l2 _ | .buf _ _ _ _ | .grid _ _ _ => false

/-- Fills a line into the L1 (R169). -/
def State.l1Fill (s : State) (p core line kind : Nat) (bytes : List Byte) : State :=
  let s := s.l1Room p core line
  let c := s.core core
  { s.setCore core { c with l1 := ⟨line * 128, kind, bytes⟩ :: c.l1.filter (fun e => e.ia != line * 128) } with
    sram := s.sram.filter (fun b => !b.inL1 core line) }

/-- What an acquire discards: L1 copies of release-consistent lines, and of unordered ones where `unord` (R205,
R211, R307). -/
def State.l1Acquire (s : State) (core : Nat) (rc unord : Bool) : State :=
  let c := s.core core
  s.setCore core { c with l1 := c.l1.filter (fun e => !((rc && e.kind == 1) || (unord && e.kind == 2))) }

/-! Loads of one line (R188, R189). -/

/-- The bytes of a line as its home slice holds it. -/
def State.lineData (s : State) (l : Leaf) (line : Nat) : LineRead :=
  ⟨s.readLine l (line * 128) 128, (List.range 128).map (fun k => s.badByte l (line * 128 + k))⟩

/-- Serves the line of an IA at its home slice to an agent whose recall of it has been made; none where its page is unfit. -/
def State.homeServe (s : State) (p ia : Nat) : State × Walk × Option LineRead :=
  let line := ia / 128
  let r := s.xlate p ia
  match r.2 with
  | .leaf l =>
    if l.pres then
      let t := r.1.touchLine p line l false
      (t.1, r.2, some (t.1.lineData l line))
    else (r.1, r.2, none)
  | .stop _ _ _ => (r.1, r.2, none)

/-- Reads the line of an IA at its home slice for an agent: copies are recalled first (R170). -/
def State.homeRead (s : State) (p ia : Nat) : State × Walk × Option LineRead := (s.recall p (ia / 128)).homeServe p ia

/-- The record of a read that meets a malformed entry or a frame outside the partition (R189, R345). -/
def State.walkError (s : State) (p src ctx ia : Nat) (r : Walk) : State :=
  let reason := r.reason false
  if reason = 5 || reason = 6 then s.fault p (faultRec 3 reason ctx r.level 0 ia r.ent src) else s

/-- A line read at the home slice joins the L1, with its page's kind, where the range and the hint allow it; an older copy
never outlives it (R169, R180, R186, R193). -/
def State.l1Response (s : State) (p core ctx ia : Nat) (l : Leaf) (d : LineRead) (noL1 : Bool) : State :=
  let s := s.learnKind core ctx ia l
  if noL1 || d.bad.any id then s.l1Drop core (ia / 128) else s.l1Fill p core (ia / 128) l.ord d.data

/-- One line request of a load whose lowest byte is at an IA (R188): the L1 copy where the kind allows one, else the home
slice, with an L1 fill; walk errors post a record (R345). One that has `reached` its home slice is served there (R170). -/
def State.loadLine (s : State) (p core ctx ia : Nat) (noL1 reached : Bool) : State × Option LineRead :=
  let s := if reached then s else s.sendLine p core (ia / 128)
  match (if reached || s.l1Kind core ctx ia = 0 || noL1 then none else s.l1Copy core (ia / 128)) with
  | some e => (s, some ⟨e.data, (List.range 128).map (fun k => s.sram.contains (.l1 core (e.ia + k)))⟩)
  | none =>
    let r := if reached then s.homeServe p ia else s.homeRead p ia
    match r.2.1, r.2.2 with
    | .leaf l, some d => (r.1.l1Response p core ctx ia l d noL1, some d)
    | .leaf l, none => (r.1.learnKind core ctx ia l, none)
    | w, _ => (r.1.walkError p core ctx ia w, none)

/-! Stores of one line (R190, R191). -/

/-- Writes bytes of one line at the home slice, or parks or holds the write (R191, R349). -/
def State.homeWrite (s : State) (p : Nat) (agent : Agent) (ctx : Nat) (bs : List Host.Cell) : State × Option Nat :=
  (s.recall p (lowIa bs / 128)).deliver p agent ctx (lowIa bs) (.write bs)

/-- One line request of a store (R190). -/
def State.storeLine (s : State) (p core ctx : Nat) (w : WaveId) (bs : List Host.Cell) : State :=
  if (s.part p).power != .noon then ((s.recall p (lowIa bs / 128)).holdOp p (.wave w core none) ctx (lowIa bs) (.write bs)).1
  else (s.homeWrite p (.wave w core none) ctx bs).1

/-- Stores cells of any lines, line request by line request. -/
def State.storeCells (s : State) (p core ctx : Nat) (w : WaveId) (bs : List Host.Cell) : State :=
  (linesOf bs).foldl (fun s ln => s.storeLine p core ctx w (bs.filter (fun b => b.1 / 128 == ln))) s

/-- Accesses of an agent other than a wave: writes line by line at the home slices; those that have not performed are
returned. -/
def State.agentWrite (s : State) (p : Nat) (agent : Agent) (ctx : Nat) (bs : List Host.Cell) : State × List Nat :=
  (linesOf bs).foldl (fun acc ln =>
    let r := acc.1.homeWrite p agent ctx (bs.filter (fun b => b.1 / 128 == ln))
    (r.1, acc.2 ++ r.2.toList)) (s, [])

/-- One byte of an IA as its home slice reads it, after the recall of update-only copies (R170); none where the page is
unfit. -/
def State.peek (s : State) (p ia : Nat) : Option Byte :=
  let s := s.recall p (ia / 128)
  match (s.xlate p ia).2 with
  | .leaf l => if l.pres then some (Mem.read s.mem (l.frame + ia % 4096)) else none
  | .stop _ _ _ => none

/-- Reads a little-endian value at an IA for a unit whose reads the manual does not let fail; an unfit byte reads as
0. -/
def State.rdIA (s : State) (p ia n : Nat) : Nat :=
  leNat ((List.range n).map (fun k => (s.peek p (ia + k)).getD 0))

/-- Whether every byte of a span is resident. -/
def State.resident (s : State) (p ia n : Nat) : Bool := (List.range n).all (fun k => (s.peek p (ia + k)).isSome)

/-- Whether a byte of a span holds an uncorrectable error: its IA. -/
def State.eccAt (s : State) (p ia n : Nat) : Option Nat :=
  (List.range n).find? (fun k =>
    match (s.xlate p (ia + k)).2 with
    | .leaf l => l.pres && s.badByte l (ia + k)
    | .stop _ _ _ => false) |>.map (fun k => ia + k)

/-! One lane's atomic at its home slice (R198, R199, R201). -/

/-- The result of a lane's atomic: the old word and, for CAS, whether it swapped; none where it met an uncorrectable
error. -/
structure AtomRes where
  old : Nat
  done : Bool
  bad : Bool
deriving DecidableEq, Repr

/-- Performs a lane's atomic on a fit page as one event; a CAS that fails writes nothing (R364). -/
def State.atomicAt (s : State) (p : Nat) (l : Leaf) (ia n : Nat) (f : Nat → Option Nat) : State × AtomRes :=
  let bad := (List.range n).any (fun k => s.badByte l (ia + k))
  let w := leNat (s.readLine l ia n)
  if bad then (s, ⟨0, false, true⟩)
  else
    match f w with
    | some x =>
      let t := s.touchLine p (ia / 128) l true
      (({ t.1 with
          mem := Mem.writeN t.1.mem (l.frame + ia % 4096) (leBytes n x)
          inbox := t.1.inbox ++ s.bells p (cellsOf ia n x) }).bump p t.2 1, ⟨w, true, false⟩)
    | none => ((s.touchLine p (ia / 128) l false).1, ⟨w, false, false⟩)

/-- The new record of a sample (R326): none where the update does not take effect. -/
def sampleNew (z attr key w : Nat) : Option Nat :=
  let old := decodeElem .f32 (bits w 31 0)
  let new := decodeElem .f32 z
  if XVal.lt new old || (XVal.same new old && decide (key < bits w 95 64)) then some (z + attr * 2 ^ 32 + key * 2 ^ 64) else none

/-- What an atomic that parks does when it performs. -/
def ParkOp.fn (o : ParkOp) (w : Nat) : Option Nat :=
  match o with
  | .atomic op ty _ x => some (atomNew op ty w x.toNat)
  | .cas _ _ cmp new => if w = cmp.toNat then some new.toNat else none
  | .tkadv n _ => some ((w + n.toNat) % 2 ^ 32)
  | .sample z attr key => sampleNew z.toNat attr.toNat key.toNat w
  | .write _ | .quiet _ | .merge _ | .read => none

/-- Bytes that a parked atomic acts on. -/
def ParkOp.bytes (o : ParkOp) : Nat :=
  match o with
  | .atomic _ ty _ _ => typeBytes ty
  | .cas ty _ _ _ => typeBytes ty
  | .tkadv _ _ => 4
  | .sample _ _ _ => 16
  | .write _ | .quiet _ | .merge _ | .read => 0

/-- A lane's atomic: performed, with the discard of the issuing core's L1 copy (R169), or, under the number returned, parked on an
unfit page (R201) or held at its home slice (R170, R349). -/
def State.atomic (s : State) (p : Nat) (agent : Agent) (ctx ia : Nat) (op : ParkOp) : State × (AtomRes ⊕ Nat) :=
  let r := (s.recall p (ia / 128)).arrive p agent ctx ia op
  match r.2 with
  | .inl l =>
    let a := r.1.atomicAt p l ia op.bytes op.fn
    (a.1.l1After agent ctx ia l none, .inl a.2)
  | .inr k => (r.1, .inr k)

end Sys2Proof.Machine
end

