-- ==== Sys2Proof/Machine/Bins.lean ====
section
/-! DEFINITION. Flushing the bins of a regroup unit (R281, R282). -/

namespace Sys2Proof.Machine

/-- Tiles that the run queue holds (R270). -/
def runRoom : Nat := 16

/-- Flushes a bin: it becomes a tile, or is sealed while the run queue is full (R282). -/
def Cluster.flush (c : Cluster) (b : Nat) : Cluster :=
  match Tab.find c.bins b with
  | some x =>
    if x.sealed then c
    else if c.runq.length < runRoom then
      { c with runq := c.runq ++ [⟨x.ctx, x.handle, x.rows⟩], bins := Tab.erase c.bins b }
    else { c with bins := Tab.set c.bins b { x with sealed := true }, sealOrder := c.sealOrder ++ [b] }
  | none => c

/-- Flushes every open bin that satisfies `p`, in ascending index (R282). -/
def Cluster.flushWhere (c : Cluster) (p : Bin → Bool) : Cluster :=
  (List.range 8).foldl (fun c b =>
    match Tab.find c.bins b with
    | some x => if !x.sealed && p x then c.flush b else c
    | none => c) c

/-- Sealed bins enter the run queue in sealing order as room appears (R282). -/
def Cluster.unseal (c : Cluster) : Cluster :=
  c.sealOrder.foldl (fun (c : Cluster) b =>
    if c.runq.length < runRoom then
      match Tab.find c.bins b with
      | some x =>
        { c with runq := c.runq ++ [⟨x.ctx, x.handle, x.rows⟩], bins := Tab.erase c.bins b
                 sealOrder := c.sealOrder.filter (· != b) }
      | none => { c with sealOrder := c.sealOrder.filter (· != b) }
    else c) c

/-- A wave waits for an NCALL: the bins that hold a row of it are flushed after the next binning (R274, R282). -/
def State.flushJob (s : State) (w : WaveId) (job : Nat) : State :=
  let c := s.cluster (s.w.core / 64)
  s.setCluster (s.w.core / 64) { c with wanted := c.wanted.filter (· != (w, job)) ++ [(w, job)] }

end Sys2Proof.Machine
end

