-- ==== Sys2Proof/Machine/Operands.lean ====
section
/-! DEFINITION. Operand forms: immediates, special operands, register words and pairs, the lanes that act, and the
results of lane and scalar forms. -/

namespace Sys2Proof.Machine

/-- An integer as `k` words in two's complement. -/
def intWords (k : Nat) (x : Int) : Nat := (x % (2 ^ (32 * k) : Nat)).toNat

/-- The value of an immediate read as TYPE in `k` words (R50). -/
def immVal (t : ElemType) (k : Nat) (n : BitVec 8) : Nat :=
  match t with
  | .f32 | .f16 | .bf16 => roundArith t .rne 0 (XVal.ofInt (signedOf 8 n.toNat))
  | _ => intWords k (signedOf 8 n.toNat)

/-- CSENS (R28). -/
def State.csens (s : State) (core : Nat) : Nat :=
  let c := s.core core
  b2n c.droop * 512 + b2n c.hot * 256 + c.temp.toNat

/-- The special operands that are read at the issue (R53): EXEC, LANE, SEED and HELPER. -/
def readAtIssue (c : Nat) : Bool := c == 0x00 || c == 0x01 || c == 0x18 || c == 0x1B

/-- The value of a special operand that the front end read when it took the instruction which executes, at its PC (R53). -/
def Wave.captured (w : Wave) (c : Nat) : Option (BitVec 64) :=
  match w.aheadNow with
  | some a => (a.taken.head?).bind (fun e => if e.pc == w.pcNow then Tab.find e.specials c else none)
  | none => none

/-- The value that a special operand has now in lane `l` (R52): `wide` is a 64-bit operand, which reads CCYC and XADDR whole
(R51). A belay stream reads the belay core's cycle count (R215). In a lane lent by another wave LANE is 32 times the recruiter's wave
index plus the lane number (DESIGN CHOICE: R12 and the helper rules do not say). -/
def State.specialNow (s : State) (c : BitVec 8) (l : Nat) (wide : Bool) : Val :=
  let w := s.w
  let p := w.place
  let cyc := if w.belay then s.belayCcyc (w.core / 64) else s.ccyc w.core
  let lo (x : Nat) : Nat := if wide then x else x % 2 ^ 32
  let v (x : Nat) : Val := ⟨BitVec.ofNat 64 x, true⟩
  match c.toNat with
  | 0x00 => v w.execM.toNat
  | 0x01 => v (32 * w.id.wave + l)
  | 0x02 => v w.id.wave
  | 0x03 => v p.stage
  | 0x04 => v w.id.group
  | 0x05 => v p.gx
  | 0x06 => v p.gy
  | 0x07 => v p.gz
  | 0x08 => v p.nlane
  | 0x09 => v p.nwave
  | 0x0A => v p.ngroup
  | 0x0B => v p.ngx
  | 0x0C => v p.ngy
  | 0x0D => v p.ngz
  | 0x10 => v (w.core % 64)
  | 0x11 => v (w.core / 64)
  | 0x12 => v p.part
  | 0x13 => v (s.csens w.core)
  | 0x18 => v (w.seedOf l).toNat
  | 0x19 => v w.cxm.toNat
  | 0x1A => v (b2n (s.yreqOf w))
  | 0x1B => match w.helperIdx l with | some h => v h | none => Val.none
  | 0x1C => v (match w.team with | some t => t.hcount | none => 0)
  | 0x20 => v (lo cyc)
  | 0x21 => v (cyc / 2 ^ 32)
  | 0x30 => v Config.nCluster
  | 0x31 => v Config.nCore
  | 0x32 => v Config.nVReg
  | 0x33 => v Config.nWBuf
  | 0x34 => v Config.nABuf
  | 0x35 => v Config.nCBuf
  | 0x40 => v w.xpc.toNat
  | 0x41 => v w.xcause.toNat
  | 0x42 => v (bits w.xword.toNat 31 0)
  | 0x43 => v (bits w.xword.toNat 63 32)
  | 0x44 => v (bits w.xword.toNat 95 64)
  | 0x45 => v (lo w.xaddr.toNat)
  | 0x46 => v w.xlane.toNat
  | 0x47 => v w.replay.length
  | 0x48 => v w.xhpc.toNat
  | 0x49 => v (w.xaddr.toNat / 2 ^ 32)
  | 0x4C => v (w.xsave.getD 0 0).toNat
  | 0x4D => v (w.xsave.getD 1 0).toNat
  | 0x4E => v (w.xsave.getD 2 0).toNat
  | 0x4F => v (w.xsave.getD 3 0).toNat
  | _ => v 0

/-- A special operand as an instruction reads it (R53): as the front end read it, where it has taken the instruction already. -/
def State.special (s : State) (c : BitVec 8) (l : Nat) (wide : Bool) : Val :=
  match s.w.captured c.toNat with
  | some x => ⟨if wide then x else (x.setWidth 32).setWidth 64, true⟩
  | none => s.specialNow c l wide

/-- A register word as a value. -/
def wordVal (r : RWord) : Val := ⟨r.data.setWidth 64, r.valid⟩

/-- A pair as a value: valid only when both words are (R51). -/
def pairVal (lo hi : RWord) : Val := ⟨hi.data ++ lo.data, lo.valid && hi.valid⟩

/-- Word `j` of a value. -/
def valWord (x : Val) (j : Nat) : RWord := ⟨(x.bits >>> (32 * j)).setWidth 32, x.valid⟩

/-- Lane `l` of a vector operand of `k` words. -/
def Wave.rdVL (w : Wave) (k n l : Nat) : Val :=
  if k = 2 then pairVal (VReg.lane (w.rdV n) l) (VReg.lane (w.rdV (n + 1)) l) else wordVal (VReg.lane (w.rdV n) l)

/-- A scalar operand of `k` words. -/
def Wave.rdSK (w : Wave) (k n : Nat) : Val :=
  if k = 2 then pairVal (w.rdS n) (w.rdS (n + 1)) else wordVal (w.rdS n)

/-- The value of an operand of `k` words in lane `l`; an immediate is read as `t` (R49 to R53). -/
def State.rdOp (s : State) (t : ElemType) (k : Nat) (o : Operand) (l : Nat) : Val :=
  match o with
  | .v n => s.w.rdVL k n.toNat l
  | .s n => s.w.rdSK k n.toNat
  | .x c => s.special c l (k == 2)
  | .i n => ⟨BitVec.ofNat 64 (immVal t k n), true⟩

/-- A scalar operand read as one 32-bit word. -/
def State.rdW (s : State) (o : Operand) : Val := s.rdOp .b32 1 o 0

/-- The lanes that are in EXEC and not guarded off (R91). -/
def Wave.inLanes (w : Wave) (g : Guard) : Word :=
  if g.en then laneMask (fun l => w.execM.getLsbD l && (VReg.lane (w.rdV g.reg.toNat) l).valid != g.neg) else w.execM

/-- Which words an instruction consumes and writes: the types and widths in which A and B are read, the words of D
that are consumed, and the words of the result. A width 0 stands for an operand that is not used. -/
structure Ports where
  ta : ElemType
  ka : Nat
  tb : ElemType
  kb : Nat
  kd : Nat
  kr : Nat
deriving DecidableEq, Repr

/-- Ports of D, A, B of one TYPE (R107). -/
def Ports.dab (t : ElemType) : Ports := ⟨t, typeWords t, t, typeWords t, 0, typeWords t⟩
/-- Ports of D, A. -/
def Ports.da (t : ElemType) : Ports := ⟨t, typeWords t, t, 0, 0, typeWords t⟩
/-- Ports of an accumulating D, A, B. -/
def Ports.acc (t : ElemType) : Ports := ⟨t, typeWords t, t, typeWords t, typeWords t, typeWords t⟩
/-- Ports of D, A and a count B (R107). -/
def Ports.count (t : ElemType) : Ports := ⟨t, typeWords t, .n32, 1, 0, typeWords t⟩
/-- The same ports with a one-word result (R107). -/
def Ports.one (p : Ports) : Ports := { p with kr := 1 }

/-- What a lane writes: its result, its SEED after the instruction where it rounds stochastically, and whether a
conversion met a cause (R78, R80). -/
structure LaneRes where
  out : Val
  seed : Option Word
  cause : Bool
deriving DecidableEq, Repr

/-- A valid result. -/
def LaneRes.ok (x : Nat) : LaneRes := ⟨⟨BitVec.ofNat 64 x, true⟩, none, false⟩
/-- A result with a validity of its own. -/
def LaneRes.of (x : Nat) (v : Bool) : LaneRes := ⟨⟨BitVec.ofNat 64 x, v⟩, none, false⟩
/-- The result of a nullified lane (R90). -/
def LaneRes.null : LaneRes := ⟨Val.none, none, false⟩

/-- What an instruction computes in a lane: from its SEED and its operands A, B and D. -/
abbrev LaneFn := Word → Val → Val → Val → LaneRes

/-- Consumes all operands: an invalid one nullifies the lane (R90), an invalid HELPER too (DEDUCED: R90 lists sources of
class 0 and 1, and R52 lets HELPER alone be invalid). -/
def consume (f : Word → Nat → Nat → Nat → LaneRes) : LaneFn := fun sd a b d =>
  if a.valid && b.valid && d.valid then f sd a.bits.toNat b.bits.toNat d.bits.toNat else LaneRes.null

/-- Operands of a Typed instruction in a lane; an unused one reads 0, valid. -/
def State.operands (s : State) (p : Ports) (o : LaneOp) (l : Nat) : Val × Val × Val :=
  (s.rdOp p.ta p.ka o.a l,
   (if p.kb = 0 then ⟨0, true⟩ else s.rdOp p.tb p.kb o.b l),
   (if p.kd = 0 then ⟨0, true⟩ else s.rdOp .b32 p.kd o.d l))

/-- The result in one lane. -/
def State.laneRes (s : State) (p : Ports) (o : LaneOp) (f : LaneFn) (l : Nat) : LaneRes :=
  let x := s.operands p o l
  f (s.w.seedOf l) x.1 x.2.1 x.2.2

/-- The results in the lanes of `m`. -/
def laneResults (m : Word) (f : Nat → LaneRes) : List LaneRes :=
  laneList.map (fun l => if m.getLsbD l then f l else LaneRes.null)

/-- Word `j` of each lane's result as a register. -/
def resultWord (rs : List LaneRes) (j : Nat) : VReg := rs.map (fun r => valWord r.out j)

/-- The result of the scalar form, or of lane 0. -/
def headRes (rs : List LaneRes) : LaneRes := rs.headD LaneRes.null

end Sys2Proof.Machine
end

