-- ==== Sys2Proof/Machine/Flags.lean ====
section
/-! DEFINITION. The state beside a result: SEED (R78), CXM (R80), validity of pairs, special destinations, and the
lookahead windows (R23 to R26). -/

namespace Sys2Proof.Machine

/-- SEED of each lane after an instruction (R78). -/
def Wave.advanceSeeds (w : Wave) (rs : List LaneRes) : Wave :=
  if rs.any (fun r => r.seed.isSome) then
    w.setSeeds (laneList.map (fun l => ((rs.getD l LaneRes.null).seed).getD (w.seedOf l)))
  else w

/-- CXM gains the lanes whose conversions met a cause; helper lanes set no bit (R80). -/
def Wave.noteCauses (w : Wave) (rs : List LaneRes) : Wave :=
  if w.sel.isSome then w else { w with cxm := w.cxm ||| laneMask (fun l => (rs.getD l LaneRes.null).cause) }

/-- Writes a scalar result of `k` words, or a uniform special destination: EXEC, CXM or a scratch word, which store
DATA only (R87); s0 discards it. Of a 64-bit result they store the low word (DESIGN CHOICE: R51 gives them 64-bit reads
only). In helper code CXM is that of the recruiter's wave, from a lent part too (DESIGN CHOICE: R80 and R150 speak of
conversions only). -/
def Wave.wrScalar (w : Wave) (d : Operand) (k : Nat) (x : Val) : Wave :=
  match d with
  | .s n => if k = 2 then (w.wrS n.toNat (valWord x 0)).wrS (n.toNat + 1) (valWord x 1) else w.wrS n.toNat (valWord x 0)
  | .x c =>
    let y := (valWord x 0).data
    match c.toNat with
    | 0x00 => w.setExec y
    | 0x19 => { w with cxm := y }
    | 0x4C => { w with xsave := w.xsave.set 0 y }
    | 0x4D => { w with xsave := w.xsave.set 1 y }
    | 0x4E => { w with xsave := w.xsave.set 2 y }
    | 0x4F => { w with xsave := w.xsave.set 3 y }
    | _ => w
  | .v _ | .i _ => w

/-- Writes lane results of `k` words in the lanes of `m`: a vector register, a pair, or SEED, where 0 stores 1
(R78), and of a 64-bit result the low word is stored (DESIGN CHOICE, as for the uniform ones). -/
def Wave.wrLanes (w : Wave) (d : Operand) (k : Nat) (m : Word) (rs : List LaneRes) : Wave :=
  match d with
  | .v n =>
    let w := w.wrV n.toNat m (resultWord rs 0)
    if k = 2 then w.wrV (n.toNat + 1) m (resultWord rs 1) else w
  | .x _ =>
    w.setSeeds (laneList.map (fun l =>
      if m.getLsbD l then seedWrite (valWord (rs.getD l LaneRes.null).out 0).data else w.seedOf l))
  | .s _ | .i _ => w

/-- Lane form (R105): the lanes of R91 write D; SEED and CXM follow. -/
def Wave.writeLanes (w : Wave) (d : Operand) (k : Nat) (m : Word) (rs : List LaneRes) : Wave :=
  ((w.advanceSeeds rs).noteCauses rs).wrLanes d k m rs

/-- The state after an instruction of lane form or scalar form (R105) with destination `d` of `k` words, whose result
in lane `l` is `f l`. A scalar form has no lane and sets no CXM bit. -/
def State.writeForm (s : State) (g : Guard) (d : Operand) (k : Nat) (f : Nat → LaneRes) : State :=
  if perLane d then
    let m := s.w.inLanes g
    s.setW (s.w.writeLanes d k m (laneResults m f))
  else s.setW (s.w.wrScalar d k (f 0).out)

/-- The state after a Typed instruction. -/
def State.typed (s : State) (p : Ports) (o : LaneOp) (f : LaneFn) : State :=
  s.writeForm o.h.guard o.d p.kr (s.laneRes p o f)

/-! Lookahead windows. -/

/-- The windows after one more instruction (R23). -/
def tickWindows (ws : List Window) : List Window :=
  (ws.map (fun x => { x with left := x.left - 1 })).filter (fun x => decide (0 < x.left))

/-- Whether a register list holds one that `x` names or that REGREL releases from `rel` upward (R24). -/
def depends (x : Instr) (rel : Option Nat) (rs : List Reg) : Bool :=
  rs.any (fun r => (touches x).contains r
    || match r, rel with | .v n, some k => decide (k ≤ n) | _, _ => false)

/-- The register from which REGREL releases, where it has an effect (R98, R99); a count that a pending write is still to
give is not known yet. -/
def Wave.releaseFrom (w : Wave) (x : Instr) : Option Nat :=
  let ok (n : Nat) : Option Nat := if n != 0 && n % 4 == 0 && decide (n ≤ 256) && decide (n ≤ w.c) then some n else none
  match x with
  | .regrel _ n => ok n.toNat
  | .regrelS _ a =>
    if (w.rdS a.toNat).valid && !w.flight.any (fun e => e.dests.contains (.s a.toNat)) then ok (w.rdS a.toNat).data.toNat
    else none
  | _ => none

/-- The oldest open window whose instruction `x` depends on (R25). -/
def Wave.lookaheadHit (w : Wave) (x : Instr) : Option Window :=
  w.wins.find? (fun v => depends x (w.releaseFrom x) v.regs)

/-- LOOK of an instruction. -/
def lookOf (x : Instr) : Nat := match hdrOf x with | some h => h.look.toNat | none => 0

/-- The windows after `x` has executed (R23). -/
def Wave.windowsAfter (w : Wave) (x : Instr) : List Window :=
  tickWindows w.wins ++
    (if longLatency x && decide (0 < lookOf x) && !(writes x).isEmpty then [⟨lookOf x, writes x, w.pcNow⟩] else [])

/-! Results in flight. -/

/-- The unfinished instructions that `x` depends on (R26). In handler mode a result that stays for its own DATAERR is pending no
more. -/
def Wave.due (w : Wave) (x : Instr) : List Entry :=
  w.flight.filter (fun e => depends x (w.releaseFrom x) e.dests && !(w.handler && w.sel.isNone && e.st == .landed))

/-- The entries that the wave and its own part, which share the wave's vector registers, have in flight beside those of the
stream or part that executes (R150). -/
def Wave.otherFlight (w : Wave) : List Entry :=
  match w.cur with
  | some p => if p.lender.isSome then [] else w.inflight
  | none =>
    match w.team with
    | some t => (t.parts.filter (fun p => p.lender.isNone)).flatMap (fun p => p.inflight)
    | none => []

/-- Those of them that `x` depends on: they write one of its vector registers in a lane in which it may act, or a register that it
releases. -/
def Wave.dueOther (w : Wave) (x : Instr) : List Entry :=
  let rel := w.releaseFrom x
  w.otherFlight.filter (fun e =>
    ((e.wlanes &&& w.execM) != 0 || rel.isSome)
      && depends x rel (e.dests.filter (fun r => match r with | .v _ => true | .s _ => false)))

/-- Adds a long-latency instruction in flight. -/
def Wave.launch (w : Wave) (e : Entry) : Wave := w.setFlight (w.flight ++ [e])

/-- Lands an unfinished instruction. -/
def Wave.land (w : Wave) (e : Entry) : Wave := landEntry (w.setFlight (w.flight.filter (fun y => y.id != e.id))) e

/-- Consumed words of a lane operand, one register per word, for the replay entry (R401). -/
def wordsOf (k : Nat) (m : Word) (f : Nat → Val) : List VReg :=
  (List.range k).map (fun j => laneList.map (fun l => if m.getLsbD l then valWord (f l) j else RWord.none))

end Sys2Proof.Machine
end

