-- ==== Sys2Proof/Machine/Issue.lean ====
section
/-! DEFINITION. The issue of an instruction: what every instruction has in common, from the word-level traps to the
next PC. Each meaning is the body that `issue` runs. -/

namespace Sys2Proof.Machine

/-- The matrix opcodes, which stand in a belay stream only (R64). -/
def matrixOp (x : Instr) : Bool :=
  match x with
  | .mma _ _ _ _ | .mmas _ _ _ _ _ | .mmae _ _ _ _ | .mmaeSparse _ _ _ _ _ | .mzero _ _ _ _ | .mcvt _ _ _ _
  | .mmerge _ _ _ _ | .dectab _ _ _ | .mwait _ _ _ => true
  | _ => false

/-- Instructions reserved to handler mode (R402). -/
def handlerOnly (x : Instr) : Bool :=
  match x with
  | .tret _ | .tretSkip _ | .rqrd _ _ _ _ | .rqwr _ _ _ _ | .rqdel _ _ | .cxrd _ _ _ | .cxwr _ _ _ => true
  | _ => false

/-- Instructions legal in helper code only (R149). -/
def helperOnly (x : Instr) : Bool :=
  match x with
  | .hget _ _ _ | .hred _ _ _ _ _ _ | .hexit _ => true
  | _ => false

/-- The instructions that helper code may use (R151). -/
def helperOp (x : Instr) : Bool :=
  match x with
  | .shfl _ _ _ | .ballot _ _ | .vote _ _ _ | .redux _ _ _ | .scan _ _ _ _ | .v2s _ | .matchLanes _ _ | .firstl _ _
  | .bar _ _ | .yield _ | .halt _ | .call _ _ _ | .ret _ _ | .jmpi _ _ _ | .hjoin _ _ | .hrel _
  | .regrel _ _ | .regrelS _ _ | .regclm _ _ | .regclmS _ _ | .regqry _ _ _
  | .waitq _ _ _ | .pollq _ _ _ | .pgreq _ _ _ _ _ _
  | .copy _ | .copyIndexed _ | .copyChecksum _ | .gset _ _ _ | .gclr _ _ | .gclrFree _ _ | .xkick _ _ _
  | .tlwait _ _ _ | .tlwaitToken _ _ _ _ | .tlread _ _ _
  | .mma _ _ _ _ | .mmas _ _ _ _ _ | .mmae _ _ _ _ | .mmaeSparse _ _ _ _ _ | .mzero _ _ _ _ | .mcvt _ _ _ _
  | .mmerge _ _ _ _ | .dectab _ _ _ | .mwait _ _ _
  | .ncall _ _ _ _ _ _ _ | .wpin _ _ _ | .wunpin _ _ | .wpref _ _ | .wprefDrop _ _ | .trace _ _ _ _ _
  | .traceNext _ _ _ _ | .trend _ _ | .gemit _ _ | .gdone _
  | .abinit _ _ _ _ | .abinitReset _ _ | .abinitFree _ _ | .abarr _ _ _ _ | .abwait _ _ _ _ | .tkwait _ _ _ _ _
  | .tkadv _ _ _ _ _ | .ctnew _ _ _ | .ctenr _ _ _ _ | .ctread _ _ _ | .ctsettle _ _ | .ctrepar _ _ _ _
  | .ctleave _ _ _ _ | .ctfree _ _ _
  | .trap _ _ | .tret _ | .tretSkip _ | .rqrd _ _ _ _ | .rqwr _ _ _ _ | .rqdel _ _ | .cxrd _ _ _ | .cxwr _ _ _ => false
  | _ => true

/-- The instructions that a belay stream admits (R215); those of the lane layouts in scalar form only. -/
def belayOp (x : Instr) : Bool :=
  match x with
  | .nop _ | .bra _ _ | .braCond _ _ _ _ | .call _ _ _ | .ret _ _ | .jmpi _ _ _ | .halt _ => true
  | .add _ | .sub _ | .mul _ | .mulhi _ | .mad _ | .div _ | .rem _ | .min _ | .max _ | .abs _ | .neg _ | .addsat _ _
  | .and _ | .or _ | .xor _ | .andn _ | .not _ | .shl _ | .shr _ | .sar _ | .rot _ _ | .bfe _ _ | .bfi _ | .popc _
  | .clz _ | .ctz _ | .brev _ | .pfxpop _ | .isect _ | .bclr _ _ | .dot4 _ _ | .cmp _ _ | .sel _ _ | .setv _ | .mkv _
  | .inv _ | .isv _ | .mov _ | .movi _ _ _ _ | .movh _ _ _ | .fadd _ | .fsub _ | .fmul _ | .ffma _ | .fmin _ | .fmax _
  | .fabs _ | .fneg _ | .fdiv _ | .fsqrt _ | .frcp _ | .frsq _ | .fexp2 _ | .flog2 _ | .fsin _ | .fcos _ | .fcmp _ _
  | .fclass _ | .fdp4 _ | .ftanh _ | .frnd _ => true
  | .lds _ | .sts _ | .fence _ _ _ | .tlwait _ _ _ | .tlread _ _ _ | .tkwait _ _ _ _ _ | .tkadv _ _ _ _ _ => true
  | .mma _ _ _ _ | .mmas _ _ _ _ _ | .mmae _ _ _ _ | .mmaeSparse _ _ _ _ _ | .mzero _ _ _ _ | .mcvt _ _ _ _
  | .mmerge _ _ _ _ | .dectab _ _ _ | .mwait _ _ _ => true
  | .trap _ _ | .tret _ | .tretSkip _ => true
  | _ => false

/-- Scalar registers named by an instruction. -/
def sNamed (x : Instr) : List Nat := (touches x).filterMap (fun r => match r with | .s n => some n | .v _ => none)

/-- Whether the word is legal where it stands (R64): in its mode, and in its kind of stream. -/
def Wave.admits (w : Wave) (x : Instr) : Bool :=
  let handler := w.handler && w.sel.isNone
  legal x && (hdrOf x).isSome
    && (handler || (!handlerOnly x && !(specials x).any specialHandler))
    && (if w.belay then
          belayOp x && (vNamed x).isEmpty
            && (specials x).all (fun c => specialBelay c || (handler && specialHandler c))
        else !matrixOp x)
    && (if w.sel.isSome then helperOp x && (sNamed x).all (fun n => decide (n < 8)) else !helperOnly x)

/-- The NCALLs and TRACEs whose outputs an instruction of the stream that executes names (R274). -/
def Wave.jobHits (w : Wave) (x : Instr) : List OutJob :=
  if w.lent then []
  else w.jobs.filter (fun j => depends x (w.releaseFrom x) ((List.range j.count).map (fun k => Reg.v (j.first + k))))

/-- The vector register named that is at or above the allocation count (R96). Of several it is the first in the order guard, sources,
destinations (DESIGN CHOICE: no rule says which of them XADDR gives). -/
def Wave.overBound (w : Wave) (x : Instr) : Option Nat := (vNamed x).find? (fun n => decide (w.count ≤ n))

/-- What stands in front of an instruction's own effect. -/
inductive Gate where
  | dead
  | trap (s : State) (t : TrapInfo)
  | hold (s : State) (k : Wait)
  | go (s : State)
deriving DecidableEq, Repr

/-- A token register. -/
def Wave.tok (w : Wave) (n : Nat) : Token := Tab.get ⟨.empty, false, 0, false, false⟩ w.q n

/-- The job whose failure a token reports: of those issued on it the last, where the token has been issued on again while an older
failure was not reported (R93, R287). -/
def Wave.failedJob (w : Wave) (q : Nat) : Option OutJob :=
  if (w.tok q).fail then w.jobs.reverse.find? (fun j => j.tok == q && j.todo == 0 && j.failed != 0) else none

/-- Reports the failed outputs of an NCALL or TRACE: the state after, with the failure cleared, of the token too where it is the one
that the token reports (R287). -/
def Wave.clearFail (w : Wave) (j : OutJob) : Wave :=
  { w with
    jobs := w.jobs.filter (fun y => y.id != j.id),
    q := if (w.failedJob j.tok).any (fun y => y.id == j.id) then Tab.set w.q j.tok { (w.tok j.tok) with fail := false } else w.q }

/-- The executing part stands where it stood as `p`, with its windows and its front end. -/
def Wave.standAt (w : Wave) (p : HPart) : Wave :=
  match w.cur with
  | some q => w.setCur { q with pc := p.pc, prev := p.prev, windows := p.windows, ahead := p.ahead }
  | none => w

/-- A result that met an uncorrectable error (R193). In a helper part the reading lanes halt and the part goes on with
the same instruction; else DATAERR is taken in front of it, and the entry is failed in the replay queue. -/
def failedReturn (s : State) (e : Entry) : Gate :=
  let t : TrapInfo := { cause := .dataerr, addr := e.badAddr, lanes := e.bad, word := some e.word, hpc := some e.pc }
  match s.w.cur with
  | some p =>
    let w := s.w.setFlight (s.w.flight.filter (fun y => y.id != e.id))
    match w.team with
    | some tm => .hold (s.setW ((helperTrap w { p with inflight := w.flight } tm e.word t).standAt p)) .busy
    | none => .hold s .busy
  | none => .trap (s.setW (s.w.setFlight (s.w.flight.map (fun y => if y.id == e.id then { y with st := .failed } else y)))) t

/-- Whether a long-latency instruction must wait because sixteen are unfinished, those of the replay queue that have not
landed among them (R400). RED writes no register and is none of them. -/
def Wave.full (w : Wave) (x : Instr) : Bool :=
  let queued := if w.sel.isSome then [] else w.replay.filter (fun e => e.st != .landed)
  longLatency x && !(writes x).isEmpty && decide (16 ≤ ((w.flight ++ queued).filter (fun e => !e.slow)).length)

/-- The wait of an instruction for the accesses of `es`, whose results it depends on: REGREL's, but for its count, is no blocking
point (R99, R266). -/
def waitOn (x : Instr) (es : List Entry) : Wait :=
  let ids (es : List Entry) : Wait := .remote (es.flatMap (fun e => e.waits))
  match x with
  | .regrel _ _ => .busy
  | .regrelS _ a =>
    let count := es.filter (fun e => e.dests.contains (.s a.toNat) && !e.waits.isEmpty)
    if count.isEmpty then .busy else ids count
  | _ => ids es

/-- Whether an instruction's range of released registers hangs on results that have only just landed (R99). -/
def countPending (x : Instr) (es : List Entry) : Bool :=
  match x with
  | .regrelS _ _ => !es.isEmpty
  | _ => false

/-- Flushes the bins of pending outputs (R274, R282). -/
def State.flushJobs (s : State) (js : List OutJob) : State := js.foldl (fun s j => s.flushJob s.w.id j.id) s

/-- The checks in front of an instruction, in the order of R66 and R96, with the waits of R26, R274 and R400. -/
def gate (x : Instr) (s : State) : Gate :=
  let w := s.w
  if !w.runs then .dead
  else if !w.admits x then .trap s { cause := .illegal }
  else
    match w.lookaheadHit x with
    | some v => .trap s { cause := .lookahead, addr := v.pc.setWidth 64 }
    | none =>
      let es := w.due x
      match es.find? (fun e => !e.waits.isEmpty), es.find? (fun e => e.bad != 0) with
      | some _, _ => .hold s (waitOn x es)
      | none, some e => failedReturn s e
      | none, none =>
        let s := s.setW (es.foldl Wave.land w)
        if countPending x es || w.full x || !(w.dueOther x).isEmpty then .hold s .busy
        else
          match s.w.jobHits x, s.w.overBound x with
          | [], some n => .trap s { cause := .regbound, addr := BitVec.ofNat 64 n }
          | [], none => .go s
          | j :: js, b =>
            let late := (j :: js).filter (fun k => k.todo != 0)
            if !late.isEmpty then .hold (s.flushJobs late) .busy
            else
              match b with
              | some n => .trap s { cause := .regbound, addr := BitVec.ofNat 64 n }
              | none => .trap (s.setW (s.w.clearFail j)) { cause := .dataerr, addr := j.addr, lanes := j.failed }

/-- What the effect of an instruction ends in: it is done, it jumps, it must wait where it stands, it traps, or it
leaves the stream without a next instruction. -/
inductive Res where
  | done (s : State)
  | jump (s : State) (pc : Word)
  | hold (s : State) (k : Wait)
  | trap (s : State) (t : TrapInfo)
  | gone (s : State)
deriving DecidableEq, Repr

/-- The stream, or the part that executes, waits no more. -/
def Wave.endWait (w : Wave) : Wave :=
  match w.cur with
  | some p => w.setCur { p with drain := none, reached := [] }
  | none => if w.sel.isNone then { w with wait := .none } else w

/-- The instruction has executed: the windows count it, and the PC moves (R23, R61). -/
def retire (x : Instr) (s : State) (pc : Word) : State := s.setW (((s.w.setWins (s.w.windowsAfter x)).endWait).setPc pc)

/-- The stream stands at the instruction and waits; a helper part remembers where its DRAIN began, or what its load has reached. -/
def holdAt (s : State) (k : Wait) : State :=
  match s.w.cur, k with
  | none, k => if s.w.sel.isNone then s.setW { s.w with wait := k } else s
  | some p, .drain n => s.setW (s.w.setCur { p with drain := some n })
  | some p, .merges ls => s.setW (s.w.setCur { p with reached := ls })
  | some p, .tkwait _ _ => s.setW (s.w.setCur { p with reached := [] })
  | some _, _ => s

/-- Lands what a part has in flight and is done: results are written; bad lanes are faulted (R156, R193). -/
def Wave.settlePart (w : Wave) (k : Nat) (word : BitVec 96) : Wave :=
  let w1 : Wave := { w with sel := some k }
  let w2 := w1.flight.foldl (fun (x : Wave) (e : Entry) =>
    if e.bad = 0 then landEntry x e
    else
      match x.cur, x.team with
      | some p, some t =>
        helperTrap x p t word { cause := .dataerr, addr := e.badAddr, lanes := e.bad, word := some e.word, hpc := some e.pc }
      | _, _ => x) w1
  { (w2.setFlight []) with sel := w.sel }

/-- Stops a part: its lanes have not completed unless HEXIT marked them (R156). -/
def HPart.stop (p : HPart) : HPart :=
  { p with running := false, exec := 0, inflight := [], windows := [], owed := [], stopping := false, drain := none,
           reached := [], ahead := none }

/-- The accesses whose completion a part awaits (R155, R156). -/
def State.partOwes (s : State) (p : Nat) (x : HPart) : List Nat :=
  x.inflight.flatMap (fun e => e.waits) ++ s.outstanding p x.owed

/-- Marks parts of a wave's team: they issue no more (R156). -/
def Wave.closeParts (w : Wave) (which : HPart → Bool) : Wave :=
  { w with team := w.team.map (fun (t : Team) => { t with parts := t.parts.map (fun p =>
      if p.running && which p then { p with stopping := true } else p) }) }

/-- Whether the part that a lending wave's lanes form has come to its boundary, or has ended (R156). -/
def State.lentAtBoundary (s : State) (w : Wave) : Bool :=
  match w.lentTo.bind s.stream? with
  | some r =>
    (match r.team with
      | some t => t.parts.all (fun p =>
          !(p.lender == some w.id && p.running) || (s.partOwes w.place.part p).isEmpty)
      | none => true)
  | none => true

/-- Ends the part that a lending wave's lanes form in a wave's team, at its boundary: what it has issued is done first
(R156). -/
def Wave.dropLent (w : Wave) (lender : WaveId) : Wave :=
  match w.team with
  | none => w
  | some t =>
    let mine (p : HPart) : Bool := p.lender == some lender
    let w1 := ((List.range t.parts.length).zip t.parts).foldl (fun (x : Wave) e =>
      if mine e.2 then x.settlePart e.1 0 else x) w
    { w1 with team := w1.team.map (fun (t : Team) => { t with parts := t.parts.map (fun p =>
        if mine p then p.stop else p) }) }

/-- A lending wave that leaves its blocking point takes its lanes back first (R156); their registers return to the pool, which
sees them at the next grant pass (R101). -/
def State.reclaim (s : State) : State :=
  match s.w.lentTo, s.w.sel with
  | some r, none =>
    let me := s.w.id
    ((s.addFreed s.w.core 16).onStream r (fun x => x.dropLent me)).setW { s.w with lentTo := none }
  | _, _ => s

/-- The word of an instruction (R48). -/
def wordOf (x : Instr) : BitVec 96 := (encode x).getD 0

/-- A trap of an instruction. A lane-level one in a helper part passes the instruction, which the part's windows count (R23,
R151, R157). -/
def trapAt (x : Instr) (s : State) (t : TrapInfo) : State :=
  let s' := s.trapNow (wordOf x) t
  if s.w.cur.isSome && !t.cause.wordLevel then s'.setW (s'.w.setWins (s.w.windowsAfter x)) else s'

/-- The next state after an instruction's effect. -/
def finish (x : Instr) (r : Res) : State :=
  match r with
  | .done s => let s := s.reclaim; retire x s (s.w.pcNow + 12)
  | .jump s pc => retire x s.reclaim pc
  | .hold s k => holdAt s k
  | .trap s t => trapAt x s.reclaim t
  | .gone s => s.reclaim

/-- Whether a wait is still that of the blocking point at which its instruction stood with the wait `a` (R266). -/
def Wait.goesOn (a b : Wait) : Bool :=
  match a, b with
  | .bar _, .bar _ | .abwait _ _, .abwait _ _ | .waitq _, .waitq _ | .tlwait _ _, .tlwait _ _ | .tkwait _ _, .tkwait _ _
  | .regclm _, .regclm _ | .gemit, .gemit | .yield _, .yield _ | .slots _, .slots _ => true
  | .remote x, .remote y | .remote x, .parked y | .parked x, .remote y | .parked x, .parked y => x.any (fun i => y.contains i)
  | .merges x, .merges y => x.any (fun e => y.contains e)
  | _, _ => false

/-- Whether the wake condition of a wave that lends lanes has become true (R156): the instruction at which it stands ends its turn
in `r`, and no longer waits as it did. -/
def State.unblocks (s : State) (r : Res) : Bool :=
  s.w.sel.isNone && s.w.lentTo.isSome
    && (match r with
      | .hold _ k => !s.w.wait.goesOn k
      | .trap _ _ => s.w.trapWaits.isEmpty || !s.w.wait.goesOn (.remote s.w.trapWaits)
      | .done _ | .jump _ _ | .gone _ => true)

/-- The part that the lanes of a lending wave form issues no more (R156). -/
def State.callBack (s : State) : State :=
  match s.w.lentTo with
  | some r => s.onStream r (fun y => y.closeParts (fun p => p.lender == some s.w.id))
  | none => s

/-- A helper part remembers the accesses that an instruction has made since `n` (R155, R156). -/
def Wave.owe (w : Wave) (n m : Nat) : Wave :=
  match w.cur with
  | some p => if n < m then w.setCur { p with owed := p.owed ++ (List.range (m - n)).map (fun k => n + k) } else w
  | none => w

/-- The next state of an instruction that stood at `s`, in a helper part with what the part awaits. -/
def finishPart (x : Instr) (s : State) (r : Res) : State :=
  let s' := finish x r
  if s.w.sel.isSome then s'.setW (s'.w.owe s.nextId s'.nextId) else s'

/-- What an instruction that stood at `s` ends in: the DATAERR of an older result, which must finish before a trap, comes before
the trap (R193, R216, R400). -/
def olderTrap (s : State) (r : Res) : Res :=
  match r, s.w.owedError with
  | .trap _ _, some e =>
    (match failedReturn s e with
      | .trap s' t => .trap s' t
      | _ => r)
  | _, _ => r

/-- The state in which an instruction that stood at `s` ends its turn: a trap waits there until what R400 names has been written. -/
def ending (x : Instr) (s : State) (r : Res) : State :=
  match r, s.w.trapWaits with
  | .trap _ _, i :: is => holdAt s (.remote (i :: is))
  | r, _ => finishPart x s (olderTrap s r)

/-- Ends the issue of an instruction that stood at `s`: a lending wave leaves its blocking point once the part that its lanes form
has come to its boundary, and takes its lanes back, also where the instruction then waits for something else (R156). -/
def conclude (x : Instr) (s : State) (r : Res) : State :=
  if s.unblocks r then (if s.lentAtBoundary s.w then (ending x s r).reclaim else s.callBack) else ending x s r

/-- Issues an instruction of the executing stream: the gate, then its own effect. -/
def issue (x : Instr) (s : State) (body : State → Res) : Out :=
  match gate x s with
  | .dead => .fault .noStream
  | .trap s' t => .next (conclude x s (.trap s' t))
  | .hold s' k => .next (conclude x s (.hold s' k))
  | .go s => .next (conclude x s (body s))

end Sys2Proof.Machine
end

