-- ==== Sys2Proof/Machine/Transc.lean ====
section
/-! DEFINITION. The correctly rounded unary functions (R119, R120). Each gives an exact value where the mathematical
result is a quotient; else a fixed-point value so close to it that no rounding mode tells the two apart. -/

namespace Sys2Proof.Machine

/-- Fraction bits of the fixed-point values: far beyond what any result of f32 can need (R119). -/
def fixP : Nat := 768

/-- 1 in fixed point. -/
def fixOne : Nat := 2 ^ fixP

/-- floor(sqrt n) below 2^b, one bit at a time. -/
def isqrtFrom (n : Nat) : Nat → Nat → Nat
  | 0, r => r
  | b + 1, r => isqrtFrom n b (if (r + 2 ^ b) * (r + 2 ^ b) ≤ n then r + 2 ^ b else r)

/-- The integer square root. -/
def isqrt (n : Nat) : Nat := isqrtFrom n (Nat.log2 n / 2 + 1) 0

/-- The square root of n/d: exact where it is a quotient with the working denominator, else a value between the
two neighbours of the working precision. -/
def sqrtVal (n d : Nat) : XVal :=
  let N := n * 2 ^ 512
  let r := isqrt (N / d)
  if r * r * d = N then .fin false r (2 ^ 256) else .fin false (2 * r + 1) (2 ^ 257)

/-- Sum of `x^(2k+1)/(2k+1)` in fixed point, `z2` the square of the argument: `t` is the current power. -/
def atanhSum (z2 : Nat) : Nat → Nat → Nat → Nat
  | 0, _, _ => 0
  | n + 1, k, t => t / (2 * k + 1) + atanhSum z2 n (k + 1) (t * z2 / fixOne)

/-- ln(m) for 1 ≤ m = num/den ≤ 2, in fixed point: 2·atanh((m-1)/(m+1)). -/
def lnFix (num den : Nat) : Nat :=
  let z := (num - den) * fixOne / (num + den)
  2 * atanhSum (z * z / fixOne) 260 0 z

/-- ln 2 in fixed point. -/
def ln2Fix : Nat := lnFix 2 1

/-- e^r for r in fixed point: the series from the `k`-th term `t`. -/
def expSum (r : Nat) : Nat → Nat → Nat → Nat
  | 0, _, _ => 0
  | n + 1, k, t => t + expSum r n (k + 1) (t * r / fixOne / (k + 1))

/-- e^r for 0 ≤ r < 1 in fixed point. -/
def expFix (r : Nat) : Nat := expSum r 160 0 fixOne

/-- Alternating sum of `1/((2k+1) q^(2k+1))` in fixed point: atan(1/q). -/
def atanSum (q : Nat) : Nat → Nat → Nat → Int
  | 0, _, _ => 0
  | n + 1, k, t => (t / (2 * k + 1) : Nat) - atanSum q n (k + 1) (t / (q * q))

/-- π in fixed point (Machin). -/
def piFix : Nat := (16 * atanSum 5 170 0 (fixOne / 5) - 4 * atanSum 239 60 0 (fixOne / 239)).toNat

/-- sin of an angle in fixed point: the alternating series from the term `t` with index `k`. -/
def sinSum (a2 : Nat) : Nat → Nat → Nat → Int
  | 0, _, _ => 0
  | n + 1, k, t => (t : Int) - sinSum a2 n (k + 1) (t * a2 / fixOne / ((2 * k + 2) * (2 * k + 3)))

/-- cos of an angle in fixed point. -/
def cosSum (a2 : Nat) : Nat → Nat → Nat → Int
  | 0, _, _ => 0
  | n + 1, k, t => (t : Int) - cosSum a2 n (k + 1) (t * a2 / fixOne / ((2 * k + 1) * (2 * k + 2)))

/-- A fixed-point value. -/
def XVal.fix (neg : Bool) (x : Nat) : XVal := .fin neg x fixOne

/-- √x (R120). -/
def fsqrtVal (x : XVal) : XVal :=
  match x with
  | .nan => .nan
  | .inf s => if s then .nan else .inf false
  | .fin s n d => if n = 0 then .fin s 0 1 else if s then .nan else sqrtVal n d

/-- 1/√x (R120). -/
def frsqVal (x : XVal) : XVal :=
  match x with
  | .nan => .nan
  | .inf s => if s then .nan else .fin false 0 1
  | .fin s n d => if n = 0 then .inf s else if s then .nan else sqrtVal d n

/-- 1/x (R120). -/
def frcpVal (x : XVal) : XVal := XVal.div (.fin false 1 1) x

/-- 2^x (R120). Beyond ±2^12 the value is cut off, which no rounding into f32 can tell. -/
def fexp2Val (x : XVal) : XVal :=
  match x with
  | .nan => .nan
  | .inf s => if s then .fin false 0 1 else .inf false
  | .fin s n d =>
    if n = 0 then .fin false 1 1
    else if 4096 * d ≤ n then XVal.dyadic false 1 (if s then -4096 else 4096)
    else
      let v := signedNum s n
      let k := v / (d : Int)
      let f := (v - k * d).toNat
      if f = 0 then XVal.dyadic false 1 k
      else XVal.dyadic false (expFix (f * ln2Fix / d)) (k - fixP)

/-- log2 x (R120). At x = 1 the exact zero is +0 in every mode (DESIGN CHOICE: neither the table nor the exact cases give its
sign). -/
def flog2Val (x : XVal) : XVal :=
  match x with
  | .nan => .nan
  | .inf s => if s then .nan else .inf false
  | .fin s n d =>
    if n = 0 then .inf true
    else if s then .nan
    else
      let k := floorLog2 n d
      let u := scale2 1 k
      let num := n * u.2
      let den := d * u.1
      if num = den then XVal.ofInt k
      else
        let v : Int := k * fixOne + (lnFix num den * fixOne / ln2Fix : Nat)
        .fin (decide (v < 0)) v.natAbs fixOne

/-- sin(π·n/d) for 0 < n/d < 1/2, in fixed point. -/
def sinFix (n d : Nat) : Nat :=
  let a := piFix * n / d
  (sinSum (a * a / fixOne) 130 0 a).toNat

/-- cos(π·n/d) for 0 < n/d < 1/2, in fixed point. -/
def cosFix (n d : Nat) : Nat :=
  let a := piFix * n / d
  (cosSum (a * a / fixOne) 130 0 fixOne).toNat

/-- sin(π·x) (R120): an integral x gives a zero with the sign of x. -/
def fsinVal (x : XVal) : XVal :=
  match x with
  | .nan => .nan
  | .inf _ => .nan
  | .fin s n d =>
    if n % d = 0 then .fin s 0 1
    else
      let neg := s != (n / d % 2 == 1)
      let r := n % d
      let r := if d < 2 * r then d - r else r
      if 2 * r = d then .fin neg 1 1 else XVal.fix neg (sinFix r d)

/-- cos(π·x) (R120): x = n + 1/2 gives +0, integral x gives ±1. -/
def fcosVal (x : XVal) : XVal :=
  match x with
  | .nan => .nan
  | .inf _ => .nan
  | .fin _ n d =>
    let odd := n / d % 2 == 1
    let r := n % d
    if r = 0 then .fin odd 1 1
    else if 2 * r = d then .fin false 0 1
    else if 2 * r < d then XVal.fix odd (cosFix r d)
    else XVal.fix (!odd) (cosFix (d - r) d)

/-- tanh x (R120): never 0 nor ±1 for a finite x that is not 0. -/
def ftanhVal (x : XVal) : XVal :=
  match x with
  | .nan => .nan
  | .inf s => .fin s 1 1
  | .fin s n d =>
    if n = 0 then .fin s 0 1
    else if 1000 * d ≤ n then XVal.fix s (fixOne - 1)
    else
      let y := 2 * n * fixOne / d
      let q := y / ln2Fix
      let e := fixOne * fixOne / expFix (y - q * ln2Fix) / 2 ^ q
      XVal.fix s (min (fixOne - 1) ((fixOne - e) * fixOne / (fixOne + e)))

/-- x rounded to an integral value under RND (R118). -/
def frndVal (rnd : Rnd) (seed : Word) (x : XVal) : XVal :=
  match x with
  | .nan => .nan
  | .inf s => .inf s
  | .fin s n d => .fin s (roundIntMag rnd seed s n d) 1

/-- FCLASS (R121). -/
def fclassMask (t : ElemType) (w : Nat) : Nat :=
  match ffmt t with
  | none => 0
  | some f =>
    match decodeElem t w with
    | .nan => 256
    | .inf s => if s then 1 else 128
    | .fin s n _ =>
      if n = 0 then (if s then 8 else 16)
      else if w / 2 ^ f.fb % 2 ^ f.eb = 0 then (if s then 4 else 32)
      else (if s then 2 else 64)

end Sys2Proof.Machine
end

