-- ==== Sys2Proof/Machine/LaneForm.lean ====
section
/-! DEFINITION. The two forms of a Typed instruction as bodies of `issue`: results written at once, and the
long-latency ones whose results land later (R69, R400). -/

namespace Sys2Proof.Machine

/-- The body of a Typed instruction that writes at once. -/
def typedBody (p : Ports) (o : LaneOp) (f : LaneFn) (s : State) : Res := .done (s.typed p o f)

/-- The lanes of `m` whose consumed operands are all valid (R91). -/
def State.actLanes (s : State) (p : Ports) (o : LaneOp) (m : Word) : Word :=
  laneMask (fun l => m.getLsbD l && (let x := s.operands p o l; x.1.valid && x.2.1.valid && x.2.2.valid))

/-- A long-latency Typed instruction in flight: its results are computed at issue and land later (R26, R400). A
special destination is written at once, and no window or dependence covers it (DESIGN CHOICE: R23 and R24 speak of registers). -/
def State.longTyped (s : State) (x : Instr) (p : Ports) (o : LaneOp) (f : LaneFn) : State :=
  let lane := perLane o.d
  let m : Word := if lane then s.w.inLanes o.h.guard else 1
  let rs := laneResults m (s.laneRes p o f)
  let act := s.actLanes p o m
  let k := s.newId
  let w := if lane then s.w.advanceSeeds rs else s.w
  let e : Entry := {
    id := k.2
    word := wordOf x
    pc := s.w.pcNow
    uniform := !lane
    st := .waiting
    lanes := act
    wlanes := m
    addr := []
    data := wordsOf p.ka m (fun l => (s.operands p o l).1) ++ wordsOf p.kb m (fun l => (s.operands p o l).2.1)
    res := (List.range p.kr).map (resultWord rs)
    dests := writes x
    waits := []
    bad := 0
    badAddr := 0 }
  if (writes x).isEmpty then
    s.setW (if lane then w.wrLanes o.d p.kr m rs else w.wrScalar o.d p.kr (headRes rs).out)
  else k.1.setW (w.launch e)

/-- The body of a long-latency Typed instruction. -/
def longBody (x : Instr) (p : Ports) (o : LaneOp) (f : LaneFn) (s : State) : Res := .done (s.longTyped x p o f)

end Sys2Proof.Machine
end

