-- ==== Sys2Proof/Machine/Memory.lean ====
section
/-! DEFINITION. Global loads, stores, atomics, fences, prefetch and page requests (R183 to R213). -/

namespace Sys2Proof.Machine

/-! Addresses (R184). -/

/-- The address parts of a memory instruction. -/
structure AddrForm where
  a64 : Bool
  a : Operand
  b : Operand
  disp : Int
deriving DecidableEq, Repr

def memForm (m : MemOp) : AddrForm := ⟨m.a64, m.a, m.b, m.disp.toInt⟩
def atomForm (m : AtomOp) : AddrForm := ⟨m.a64, m.a, m.b, m.disp.toInt⟩

/-- The part a: n32, or an n64 pair with A64. -/
def State.partA (s : State) (f : AddrForm) (l : Nat) : Val := s.rdOp .n64 (if f.a64 then 2 else 1) f.a l
/-- The part b: i32. -/
def State.partB (s : State) (f : AddrForm) (l : Nat) : Val := s.rdOp .i32 1 f.b l

/-- Whether the address parts of a lane are valid. -/
def State.addrValid (s : State) (f : AddrForm) (l : Nat) : Bool := (s.partA f l).valid && (s.partB f l).valid

/-- The VA of a lane, mod 2^64. -/
def State.va (s : State) (f : AddrForm) (l : Nat) : Nat :=
  (((s.partA f l).bits.toNat + signedOf 32 (s.partB f l).bits.toNat + f.disp) % (2 ^ 64 : Nat)).toNat

/-- The typed-buffer offset of a lane, mod 2^32. -/
def State.bufOffset (s : State) (f : AddrForm) (l : Nat) : Nat := s.va f l % 2 ^ 32

/-! Translating the lanes of an access (R178, R181). -/

/-- The bytes of an access of one lane: each IA with the attributes of its range. -/
structure LaneAcc where
  lane : Nat
  va : Nat
  span : List (Nat × Nat)
deriving DecidableEq, Repr

/-- Translates `n` bytes from a VA: they lie in at most two pages, and each page in one range. -/
def State.spanIA (s : State) (ctx va n : Nat) (write : Bool) : Option (List (Nat × Nat)) :=
  let low := Nat.min n (4096 - va % 4096)
  match s.range ctx va write with
  | none => none
  | some t =>
    let head := (List.range low).map (fun k => ((t.1 + k) % 2 ^ 48, t.2))
    if low = n then some head
    else
      match s.range ctx (va + low) write with
      | none => none
      | some u => some (head ++ (List.range (n - low)).map (fun k => ((u.1 + k) % 2 ^ 48, u.2)))

/-- The lanes of an access translated, or the lanes whose range fails with the VA of the lowest (R193). -/
inductive Plan where
  | fault (lanes : Word) (va : Nat)
  | ok (as : List LaneAcc)
deriving DecidableEq, Repr

/-- Checks every lane before any performs (R178). -/
def State.plan (s : State) (va : Nat → Nat) (act : Word) (n : Nat) (write : Bool) : Plan :=
  let ls := lanesOf act
  let bad := ls.filter (fun l => (s.spanIA s.w.place.ctx (va l) n write).isNone)
  match bad with
  | b :: _ => .fault (laneMask (fun l => bad.contains l)) (va b)
  | [] => .ok (ls.map (fun l => ⟨l, va l, (s.spanIA s.w.place.ctx (va l) n write).getD []⟩))

/-- RANGEFAULT of an instruction (R178, R193). -/
def rangeFault (lanes : Word) (va : Nat) : TrapInfo := { cause := .rangefault, addr := BitVec.ofNat 64 va, lanes := lanes }

/-- The local and the remote bytes of an access. -/
def LaneAcc.localIas (a : LaneAcc) : List Nat := (a.span.filter (fun b => !attrRemote b.2)).map (·.1)
def LaneAcc.remoteIas (a : LaneAcc) : List (Nat × Nat) := a.span.filter (fun b => attrRemote b.2)

/-- A byte's name among all nodes: a remote one carries its node. -/
def byteName (b : Nat × Nat) : Nat := if attrRemote b.2 then (attrNode b.2 + 1) * 2 ^ 48 + b.1 else b.1

/-! Order against accesses that have not performed (R203 to R206, R209). -/

/-- An access of the wave that has left it and has not performed; `reads` marks a load or a returning atomic. -/
structure Unp where
  id : Nat
  kind : Nat
  reads : Bool
  ias : List Nat
  remote : Bool
deriving DecidableEq, Repr

/-- The bytes a parked access touches. -/
def Parked.ias (a : Parked) : List Nat :=
  match a.op with
  | .write bs | .quiet bs => bs.map (·.1)
  | .merge us => us.flatMap (fun u => (List.range (typeBytes u.ty)).map (fun k => u.ia + k))
  | op => (List.range op.bytes).map (fun k => a.ia + k)

/-- Whether an access of a wave is to be answered. -/
def Agent.answered (a : Agent) : Bool :=
  match a with
  | .wave _ _ e => e.isSome
  | _ => false

/-- Whether an agent is a given wave. -/
def Agent.isWave (a : Agent) (w : WaveId) : Bool :=
  match a with
  | .wave v _ _ => v == w
  | _ => false

/-- Whether an access is one of a wave: its own, or the merge of an update-only line that holds a RED of it (R170, R205). -/
def Parked.isOf (a : Parked) (w : WaveId) : Bool :=
  match a.op with
  | .merge us => us.any (fun u => u.waves.contains w)
  | _ => a.agent.isWave w

/-- The unperformed accesses of a wave: parked, held, and remote ones (remote accesses are of the release-consistent
kind, R424). What a COPY or a TKWAIT has asked of another node holds up that instruction alone. -/
def State.unperformed (s : State) (p : Nat) (w : WaveId) : List Unp :=
  let x := s.part p
  ((x.parked ++ x.parkWait ++ s.stores.map (·.acc)).filter (fun a => a.isOf w)).map
      (fun a => ⟨a.id, a.kind, a.agent.answered, Parked.ias a, false⟩)
    ++ (s.remotes.filter (fun a => a.wave == w && (a.entry.isSome || !a.bytes.isEmpty))).map (fun a =>
        ⟨a.id, 1, a.entry.isSome, (List.range a.len).map (fun k => (a.node + 1) * 2 ^ 48 + a.ia + k), true⟩)

/-- Whether an acquire or a fence orders an unperformed access before a later load, or store (R203, R209). -/
def Wave.fenced (w : Wave) (store : Bool) (u : Unp) : Bool := w.fence.any (fun f => f.1 == u.id && (store || f.2))

/-- The accesses that a new one of the release-consistent kind that touches no byte must wait for (R376). -/
def State.fencedIds (s : State) (store : Bool) : List Nat :=
  ((s.unperformed s.w.place.part s.w.id).filter (s.w.fenced store)).map (·.id)

/-- The accesses that a new access to `bytes` must wait for: what an acquire or a fence orders before it, strongly
ordered ones before a strongly ordered one, and those that share a byte; on unordered pages none (R203, R208, R209). The kind of a
page is the one under which the L1 issues the access (R180). -/
def State.blockers (s : State) (store : Bool) (as : List LaneAcc) : List Nat :=
  let p := s.w.place.part
  let us := s.unperformed p s.w.id
  if us.isEmpty then []
  else
    let kind (ia : Nat) : Nat := if s.w.belay then (s.walk p ia).kind else s.l1Kind s.w.core s.w.place.ctx ia
    let bytes := as.flatMap (fun a => a.span.map (fun b => (byteName b, if attrRemote b.2 then 1 else kind b.1)))
    (us.filter (fun u =>
      bytes.any (fun b => decide (b.2 ≤ 1)
        && (s.w.fenced store u || (u.kind == 0 && b.2 == 0) || (decide (u.kind ≤ 1) && u.ias.contains b.1))))).map (·.id)

/-- The accesses that a release at a scope waits for (R205): a remote write only at system scope (R424). -/
def State.releaseIds (s : State) (sc : Scope) : List Nat :=
  ((s.unperformed s.w.place.part s.w.id).filter (fun u => decide (u.kind ≤ 1) && (!u.remote || sc == .system))).map (·.id)

/-- Sends every update-only line that holds a RED of the wave (R170, R205). -/
def State.sendWaveLines (s : State) : State :=
  let lines := linesOf (((s.core s.w.core).upd.filter (fun u => u.waves.contains s.w.id)).map (fun u => (u.ia, 0)))
  lines.foldl (fun s ln => s.sendLine s.w.place.part s.w.core ln) s

/-- Before an access of the core is performed, the update-only lines of its core that it reaches are sent (R170, R200); a load that
waits at its home slices has reached them before. -/
def State.sendReached (s : State) (as : List LaneAcc) : State :=
  if s.w.belay || !s.w.reached.isEmpty then s
  else (linesOf ((as.flatMap LaneAcc.localIas).map (fun a => (a, 0)))).foldl (fun s ln => s.sendLine s.w.place.part s.w.core ln) s

/-- Whether a scope is gang or wider. -/
def Scope.wide (sc : Scope) : Bool :=
  match sc with
  | .wave | .group => false
  | _ => true

/-- An acquire at a scope discards the L1's release-consistent lines (R205). -/
def State.acquire (s : State) (sc : Scope) : State :=
  if Scope.wide sc && !s.w.belay then s.l1Acquire s.w.core true false else s

/-- The trap of a latched error: XHPC and XWORD describe the instruction whose error it was (R299, R396, R424). -/
def copyTrap (e : CopyErr) : TrapInfo := { cause := e.cause, addr := e.addr, word := some e.word, hpc := some e.pc }

/-- A remote store's latched error, which a release at system scope raises (R424). -/
def State.remoteErr (s : State) (release : Bool) (sc : Scope) : Option Res :=
  if release && sc == .system then
    match s.w.errs.find? (fun e => e.remote) with
    | some e => some (.trap (s.setW { s.w with errs := s.w.errs.filter (fun y => !(y == e)) }) (copyTrap e))
    | none => none
  else none

/-- Whether an access touches a byte that FENCE orders: one of another node, or of a page that is not unordered (R209, R424). -/
def State.fenceActs (s : State) (as : List LaneAcc) : Bool :=
  let kind (ia : Nat) : Nat := if s.w.belay then (s.walk s.w.place.part ia).kind else s.l1Kind s.w.core s.w.place.ctx ia
  as.any (fun a => a.span.any (fun b => attrRemote b.2 || decide (kind b.1 ≤ 1)))

/-- The error of a remote access that a release fence at system scope orders before a store, an atomic or a RED: that access is the
release, and it raises what has been latched since the fence (R205, R424). -/
def State.dueErr (s : State) (as : List LaneAcc) : Option Res :=
  match if s.fenceActs as then s.w.errs.find? (fun e => e.due) else none with
  | some e => some (.trap (s.setW { s.w with errs := s.w.errs.filter (fun y => !(y == e)) }) (copyTrap e))
  | none => none

/-- A release fence at system scope orders the remote accesses of the wave before its later writes (R205, R424). -/
def State.markReleased (s : State) (sc : Scope) : State :=
  if sc = .system then { s with remotes := s.remotes.map (fun r => if r.wave == s.w.id then { r with rel := true } else r) } else s

/-- Where an access that an acquire orders before later loads has performed since, the release-consistent lines are discarded
(R205): before a load reads the L1, and before a fence drops the mark. -/
def State.settleFence (s : State) : State :=
  let us := s.unperformed s.w.place.part s.w.id
  let past (f : Nat × Bool) : Bool := !us.any (fun u => u.id == f.1)
  if s.w.fence.any (fun f => past f && f.2) then
    (s.setW { s.w with fence := s.w.fence.filter (fun f => !past f) }).acquire .system
  else s

/-- Marks the unperformed accesses that a fence orders, those that `want` admits (R209); marks of performed ones are
settled and dropped. -/
def State.fenceOff (s : State) (want : Unp → Bool) (loadsToo : Bool) : State :=
  let s := s.settleFence
  let us := (s.unperformed s.w.place.part s.w.id).filter (fun u => decide (u.kind ≤ 1))
  let now := us.filter want
  let old := s.w.fence.filter (fun f => us.any (fun u => u.id == f.1))
  s.setW { s.w with fence := old.map (fun f => (f.1, f.2 || (loadsToo && now.any (fun u => u.id == f.1))))
             ++ (now.filter (fun u => !old.any (fun f => f.1 == u.id))).map (fun u => (u.id, loadsToo)) }

/-! Loads (R188, R189, R192). -/

/-- A loaded element as its register holds it (R185). -/
def loadValue (t : ElemType) (x : Nat) : Nat :=
  match t with
  | .t6 => x % 64
  | _ => widen t x

/-- A stored element's bytes (R185). -/
def storeBytes (t : ElemType) (x : Nat) : List Byte :=
  match t with
  | .t6 => leBytes 1 (x % 64)
  | _ => leBytes (typeBytes t) x

/-- Reads the line of an IA for the stream that executes, which may have `reached` its home slice; a belay stream has no L1. -/
def State.streamLine (s : State) (ia : Nat) (noL1 reached : Bool) : State × Option LineRead :=
  let p := s.w.place.part
  if s.w.belay then
    let r := if reached then s.homeServe p ia else s.homeRead p ia
    (if r.2.2.isNone then r.1.walkError p s.w.core s.w.place.ctx ia r.2.1 else r.1, r.2.2)
  else s.loadLine p s.w.core s.w.place.ctx ia noL1 reached

/-- The line requests of a load: each line once, by its lowest byte, in the order in which the lanes name it. -/
def requestLines (as : List LaneAcc) (noL1 : Bool) : List (Nat × Bool) :=
  let bs := (as.flatMap (fun a => a.span)).filter (fun b => !attrRemote b.2)
  (linesOf (bs.map (fun b => (b.1, 0)))).map (fun ln =>
    let here := bs.filter (fun b => b.1 / 128 == ln)
    (lowIa (here.map (fun b => (b.1, 0))), noL1 || here.any (fun b => attrNoL1 b.2)))

/-- Performs line requests one after another, those of `reached` at their home slices. -/
def State.readLines (s : State) (reached : List (Nat × Nat)) : List (Nat × Bool) → State × Tab (Option LineRead)
  | [] => (s, [])
  | l :: t =>
    let r := s.streamLine l.1 l.2 (reached.any (fun e => e.1 == l.1 / 128))
    let q := r.1.readLines reached t
    (q.1, (l.1 / 128, r.2) :: q.2)

/-- What a lane's load gives from the lines read: its bytes, whether all are resident, whether one is bad. -/
def laneLoad (rs : Tab (Option LineRead)) (a : LaneAcc) : List Byte × Bool × Bool :=
  a.span.foldr (fun b acc =>
    if attrRemote b.2 then ((0 : Byte) :: acc.1, acc.2)
    else
      match Tab.get none rs (b.1 / 128) with
      | some d => (d.data.getD (b.1 % 128) 0 :: acc.1, acc.2.1, acc.2.2 || d.bad.getD (b.1 % 128) false)
      | none => ((0 : Byte) :: acc.1, false, acc.2.2)) ([], true, false)

/-- The value of a lane's load. -/
def laneValue (t : ElemType) (r : List Byte × Bool × Bool) : Val :=
  if r.2.1 then ⟨BitVec.ofNat 64 (loadValue t (leNat r.1)), true⟩ else Val.none

/-- A long-latency instruction in flight, with its address words (R401). -/
def State.launchEntry (s : State) (x : Instr) (uniform : Bool) (m act : Word) (addr data res : List VReg)
    (waits : List Nat) (bad : Word) (badAddr : Nat) (id : Nat) : State :=
  s.setW (s.w.launch {
    id := id
    word := wordOf x
    pc := s.w.pcNow
    uniform := uniform
    st := .waiting
    lanes := act
    wlanes := m
    addr := addr
    data := data
    res := res
    dests := writes x
    waits := waits
    bad := bad
    badAddr := BitVec.ofNat 64 badAddr })

/-- A long-latency access to global memory in flight: it holds both words of its lanes' addresses. -/
def State.flightEntry (s : State) (x : Instr) (uniform : Bool) (m act : Word) (va : Nat → Nat) (data res : List VReg)
    (waits : List Nat) (bad : Word) (badAddr : Nat) (id : Nat) : State :=
  s.launchEntry x uniform m act (wordsOf 2 act (fun l => ⟨BitVec.ofNat 64 (va l), true⟩)) data res waits bad badAddr id

/-- The pieces of the remote bytes of an access (R181): runs of one range in one line, each with the place of its first byte,
that byte's IA and attributes, and its length. `pos` is the place of the first byte of the span. -/
def remotePieces (pos : Nat) : List (Nat × Nat) → List (Nat × Nat × Nat × Nat)
  | [] => []
  | b :: t =>
    let rest := remotePieces (pos + 1) t
    if !attrRemote b.2 then rest
    else
      match rest with
      | (q, ia, at_, n) :: ps =>
        if q == pos + 1 && at_ == b.2 && ia == b.1 + 1 && ia % 128 != 0 then (pos, b.1, b.2, n + 1) :: ps
        else (pos, b.1, b.2, 1) :: rest
      | [] => [(pos, b.1, b.2, 1)]

/-- Sends the remote bytes of a lane's access, piece by piece, to their nodes (R181, R424); the numbers of the requests are
returned. -/
def State.sendRemote (s : State) (x : Instr) (entry : Option Nat) (a : LaneAcc) (bytes : List Byte) : State × List Nat :=
  (remotePieces 0 a.span).foldl (fun acc q =>
    let k := acc.1.newId
    ({ k.1 with remotes := k.1.remotes ++
        [⟨k.2, s.w.id, entry, attrNode q.2.2.1, q.2.1, q.2.2.2, a.lane, q.1, (bytes.drop q.1).take q.2.2.2, a.va + q.1, wordOf x,
          s.w.pcNow, some .global, 0, false⟩] }, acc.2 ++ [k.2])) (s, [])

/-- Sends the remote bytes of every lane. -/
def State.sendRemotes (s : State) (x : Instr) (entry : Option Nat) (bytes : LaneAcc → List Byte) :
    List LaneAcc → State × List Nat
  | [] => (s, [])
  | a :: t =>
    let r := s.sendRemote x entry a (bytes a)
    let q := r.1.sendRemotes x entry bytes t
    (q.1, r.2 ++ q.2)

/-- The host record of an uncorrectable read, in the L1 that served it or at the home slice (R193, R419). -/
def State.badRead (s : State) (ia : Nat) : State :=
  if s.l1Bad s.w.core ia then s.hostError 3 s.w.place.part (.l1 s.w.core) s.w.place.ctx ia 1
  else s.dramError s.w.place.part s.w.place.ctx ia

/-- The VA and the IA of the first byte of a lane's access that holds an uncorrectable error (R394). -/
def State.badByteOf (s : State) (as : List LaneAcc) (lane : Nat) : Nat × Nat :=
  match as.find? (fun a => a.lane == lane) with
  | none => (0, 0)
  | some a =>
    let k := (indexWhere (fun b => !attrRemote b.2 && ((s.eccAt s.w.place.part b.1 1).isSome || s.l1Bad s.w.core b.1)) a.span 0).getD 0
    (a.va + k, (a.span.getD k (0, 0)).1)

/-- Whether a line request of a load is served by the L1 (R169, R180). -/
def State.l1Hit (s : State) (l : Nat × Bool) : Bool :=
  !s.w.belay && !l.2 && s.l1Kind s.w.core s.w.place.ctx l.1 != 0 && (s.l1Copy s.w.core (l.1 / 128)).isSome

/-- A load reaches the home slices of the lines that no L1 copy serves; what it has reached then is returned (R170). -/
def State.reachLoad (s : State) (ls : List (Nat × Bool)) : State × List (Nat × Nat) :=
  ls.foldl (fun r l => if r.1.l1Hit l then r else r.1.reachLine r.1.w.place.part r.2 (l.1 / 128)) (s, s.w.reached)

/-- A global load by the lanes of `act` into `k` words (R188, R189, R193). One that waits at its home slices has reached them
before: it comes before every access made since, and makes no recall anew (R170). -/
def State.loadGlobal (s : State) (x : Instr) (t : ElemType) (va : Nat → Nat) (noL1 uniform : Bool) (m act : Word) : Res :=
  match s.plan va act (typeBytes t) false with
  | .fault ls at_ => .trap s (rangeFault ls at_)
  | .ok as =>
    let s := s.sendReached as
    match if s.w.reached.isEmpty then s.blockers false as else [] with
    | b :: bs => .hold s (.remote (b :: bs))
    | [] =>
      let c := s.settleFence.reachLoad (requestLines as noL1)
      if c.2.any (c.1.lineWaits s.w.place.part) then .hold c.1 (.merges c.2)
      else
        let r := c.1.readLines c.2 (requestLines as noL1)
        let got := as.map (fun a => (a.lane, a.va, laneLoad r.2 a))
        let bad := laneMask (fun l => got.any (fun g => g.1 == l && g.2.2.2.2))
        let b := r.1.badByteOf as ((lanesOf bad).headD 32)
        let val (l : Nat) : Val := match got.find? (fun g => g.1 == l) with | some g => laneValue t g.2.2 | none => Val.none
        let k := r.1.newId
        let q := k.1.sendRemotes x (some k.2) (fun _ => []) as
        let s1 := if bad != 0 then q.1.badRead b.2 else q.1
        .done (s1.flightEntry x uniform m act va [] (wordsOf (typeWords t) act val) q.2 bad b.1 k.2)

/-! Stores (R190, R191). -/

/-- The cells of a store: the local bytes of each lane with its data, ascending lanes. Of two cells with one address the later one,
the higher lane's, counts (R190). -/
def laneCells (as : List LaneAcc) (bytes : LaneAcc → List Byte) : List Host.Cell :=
  as.flatMap (fun a => ((a.span.zip (bytes a)).filter (fun c => !attrRemote c.1.2)).map (fun c => (c.1.1, c.2)))

/-- A global store by the lanes of `act`. -/
def State.storeGlobal (s : State) (x : Instr) (t : ElemType) (f : AddrForm) (act : Word) (data : Nat → Val) : Res :=
  match s.plan (s.va f) act (typeBytes t) true with
  | .fault ls va => .trap s (rangeFault ls va)
  | .ok as =>
    let s := s.sendReached as
    match s.blockers true as, s.dueErr as with
    | b :: bs, _ => .hold s (.remote (b :: bs))
    | [], some r => r
    | [], none =>
      let bytes (a : LaneAcc) : List Byte := storeBytes t (data a.lane).bits.toNat
      let s1 := s.storeCells s.w.place.part s.w.core s.w.place.ctx s.w.id (laneCells as bytes)
      .done (s1.sendRemotes x none bytes as).1

/-! Atomics (R197 to R201). -/

/-- The lanes whose VA is not a multiple of the TYPE's size (R201). -/
def misaligned (n : Nat) (as : List LaneAcc) : List LaneAcc := as.filter (fun a => a.va % n != 0)

/-- The checks of an atomic before any lane performs, and its waits: RANGEFAULT, MISALIGN, then order (R193, R201,
R205). An access that collects in an update-only line sends none (R170). -/
def State.atomicPlan (s : State) (t : ElemType) (va : Nat → Nat) (act : Word) (order : MOrder) (sc : Scope) (collects : Bool) :
    Res ⊕ (State × List LaneAcc) :=
  match s.plan va act (typeBytes t) true with
  | .fault ls at_ => .inl (.trap s (rangeFault ls at_))
  | .ok as =>
    match misaligned (typeBytes t) as with
    | b :: bs =>
      .inl (.trap s { cause := .misalign, addr := BitVec.ofNat 64 b.va,
                      lanes := laneMask (fun l => (b :: bs).any (fun a => a.lane == l)) })
    | [] =>
      let s := if order = .release || order = .acqrel then s.sendWaveLines else s
      let s := if collects then s else s.sendReached as
      let ids := s.blockers true as ++ (if order = .release || order = .acqrel then s.releaseIds sc else [])
      match ids, (s.remoteErr (order = .release || order = .acqrel) sc).orElse (fun _ => s.dueErr as) with
      | i :: is, _ => .inl (.hold s (.remote (i :: is)))
      | [], some r => .inl r
      | [], none =>
        if as.any (fun a => a.localIas.any (s.part s.w.place.part).held) then .inl (.hold s .busy) else .inr (s, as)

/-- What the lanes of a returning atomic have come to. -/
structure AtomAcc where
  st : State
  old : Tab (Nat × Bool)
  waits : List Nat
  bad : List Nat
deriving DecidableEq, Repr

/-- One lane of a returning atomic: performed at its home slice, parked, or sent to its node (R169, R198, R201). -/
def AtomAcc.lane (acc : AtomAcc) (x : Instr) (entry : Nat) (op : ParkOp) (operand : List Byte) (a : LaneAcc) : AtomAcc :=
  let s := acc.st
  match a.remoteIas with
  | _ :: _ =>
    let r := s.sendRemote x (some entry) a operand
    { acc with st := r.1, waits := acc.waits ++ r.2 }
  | [] =>
    let ia := (a.span.headD (0, 0)).1
    let r := s.atomic s.w.place.part (.wave s.w.id s.w.core (some entry)) s.w.place.ctx ia op
    match r.2 with
    | .inl y =>
      if y.bad then { acc with st := r.1.badRead (r.1.badByteOf [a] a.lane).2, bad := acc.bad ++ [a.lane] }
      else { acc with st := r.1, old := acc.old ++ [(a.lane, (y.old, y.done))] }
    | .inr k => { acc with st := r.1, waits := acc.waits ++ [k] }

/-- The result words of a lane of a returning atomic: the old word, and for CAS its condition word (R198, R199). -/
def atomWords (isCas : Bool) (k : Nat) (old : Nat) (done : Bool) : List RWord :=
  (List.range k).map (fun j => valWord ⟨BitVec.ofNat 64 old, true⟩ j) ++ (if isCas then [⟨if done then 1 else 0, done⟩] else [])

/-- The result registers of a returning atomic from its lanes. -/
def atomRes (isCas : Bool) (k : Nat) (old : Tab (Nat × Bool)) : List VReg :=
  (List.range (k + b2n isCas)).map (fun j => laneList.map (fun l =>
    match Tab.find old l with
    | some x => (atomWords isCas k x.1 x.2).getD j RWord.none
    | none => RWord.none))

/-- ATOM and CAS: every acting lane in ascending order (R198, R199). -/
def State.atomReturn (s : State) (x : Instr) (t : ElemType) (va : Nat → Nat) (order : MOrder) (sc : Scope) (m act : Word)
    (isCas : Bool) (data : List VReg) (op : Nat → ParkOp) (operand : Nat → List Byte) : Res :=
  match s.atomicPlan t va act order sc false with
  | .inl r => r
  | .inr (s, as) =>
    let k := s.newId
    let acc : AtomAcc := as.foldl (fun acc a => AtomAcc.lane acc x k.2 (op a.lane) (operand a.lane) a) ⟨k.1, [], [], []⟩
    let bad := laneMask (fun l => acc.bad.contains l)
    let badVa := (acc.st.badByteOf as ((lanesOf bad).headD 32)).1
    let s1 := if order = .acquire || order = .acqrel then
        (acc.st.fenceOff (fun u => acc.waits.contains u.id) true).acquire sc else acc.st
    .done (s1.flightEntry x false m act va data (atomRes isCas (typeWords t) acc.old) acc.waits bad badVa k.2)

/-- Whether two update-only slots share a word (R170). -/
def slotOverlap (a b : UpdSlot) : Bool :=
  decide (a.ia < b.ia + typeBytes b.ty) && decide (b.ia < a.ia + typeBytes a.ty)

/-- A RED enters the update-only line of its core (R170): a slot of the same op and type combines, any other sends the
line first; under the strongly ordered kind the line is sent at once (R180, R200), one merge for each lane (DESIGN CHOICE: R200 does not
say whether lanes of one RED with one line are sent together). -/
def State.redSlot (s : State) (u : UpdSlot) : State :=
  let core := s.w.core
  let p := s.w.place.part
  let line := u.ia / 128
  let s := s.l1Drop core line
  let s := if (s.core core).upd.any (fun y => y.ia / 128 == line) then s else s.l1Room p core line
  let c := s.core core
  let s : State :=
    match c.upd.find? (fun v => slotOverlap v u) with
    | some v =>
      if v.ia == u.ia && v.op == u.op && v.ty == u.ty then
        s.setCore core { c with upd := c.upd.map (fun y =>
          if y.ia == u.ia then
            { y with
              val := BitVec.ofNat 64 (atomNew u.op u.ty y.val.toNat u.val.toNat)
              waves := y.waves ++ u.waves.filter (fun w => !y.waves.contains w)
              ids := y.ids ++ u.ids }
          else y) }
      else
        let s := s.sendLine p core line
        s.setCore core { (s.core core) with upd := (s.core core).upd ++ [u] }
    | none => s.setCore core { c with upd := c.upd ++ [u] }
  if s.l1Kind core u.ctx u.ia = 0 then s.sendLine p core line else s

/-- One lane of a RED (R200): to its node, as an atomic without a reply (f32), or into an update-only line. -/
def State.redLane (s : State) (i : Instr) (op : AtomOpc) (t : ElemType) (x : Nat) (a : LaneAcc) : State :=
  match a.remoteIas with
  | _ :: _ => (s.sendRemote i none a (leBytes (typeBytes t) x)).1
  | [] =>
    let ia := (a.span.headD (0, 0)).1
    if t = .f32 then
      let r := s.atomic s.w.place.part (.wave s.w.id s.w.core none) s.w.place.ctx ia (.atomic op t 32 (BitVec.ofNat 64 x))
      match r.2 with
      | .inl y => if y.bad then r.1.badRead ia else r.1
      | .inr _ => r.1
    else
      let k := s.newId
      k.1.redSlot ⟨ia, op, t, BitVec.ofNat 64 x, [s.w.id], [k.2], s.w.place.ctx⟩

/-! The meanings. -/

/-- The lanes that act: in EXEC, not guarded off, with valid address parts and data. -/
def State.memAct (s : State) (g : Guard) (f : AddrForm) (ok : Nat → Bool) : Word :=
  laneMask (fun l => (s.w.inLanes g).getLsbD l && s.addrValid f l && ok l)

def noFill (c : Cache) : Bool := c == .nofill

def ldBody (m : MemOp) (s : State) : Res :=
  s.loadGlobal (.ld m) m.ty (s.va (memForm m)) (noFill m.cache) false (s.w.inLanes m.h.guard)
    (s.memAct m.h.guard (memForm m) (fun _ => true))

def stBody (m : MemOp) (s : State) : Res :=
  let data (l : Nat) : Val := s.rdOp m.ty (typeWords m.ty) m.d l
  s.storeGlobal (.st m) m.ty (memForm m) (s.memAct m.h.guard (memForm m) (fun l => (data l).valid)) data

/-- LDS is the access of one lane (R192); an invalid part nullifies it as a whole. -/
def ldsBody (m : MemOp) (s : State) : Res :=
  if s.addrValid (memForm m) 0 then s.loadGlobal (.lds m) m.ty (s.va (memForm m)) (noFill m.cache) true 1 1
  else .done (s.setW (s.w.wrScalar m.d (typeWords m.ty) Val.none))

def stsBody (m : MemOp) (s : State) : Res :=
  let data := s.rdOp m.ty (typeWords m.ty) m.d 0
  if s.addrValid (memForm m) 0 && data.valid then s.storeGlobal (.sts m) m.ty (memForm m) 1 (fun _ => data) else .done s

/-- The operand words that an atomic consumes from D. -/
def atomBody (m : AtomOp) (op : AtomOpc) (s : State) : Res :=
  let k := typeWords m.ty
  let data (l : Nat) : Val := s.rdOp m.ty k m.d l
  let act := s.memAct m.h.guard (atomForm m) (fun l => (data l).valid)
  s.atomReturn (.atom m op) m.ty (s.va (atomForm m)) m.order m.scope (s.w.inLanes m.h.guard) act false (wordsOf k act data)
    (fun l => .atomic op m.ty l (data l).bits) (fun l => leBytes (typeBytes m.ty) (data l).bits.toNat)

/-- The register index of a vector operand. -/
def vIndex (o : Operand) : Nat := match o with | .v n => n.toNat | _ => 0

def casBody (m : AtomOp) (s : State) : Res :=
  let k := typeWords m.ty
  let n := vIndex m.d
  let cmp (l : Nat) : Val := s.w.rdVL k n l
  let new (l : Nat) : Val := s.w.rdVL k (n + k) l
  let act := s.memAct m.h.guard (atomForm m) (fun l => (cmp l).valid && (new l).valid)
  s.atomReturn (.cas m) m.ty (s.va (atomForm m)) m.order m.scope (s.w.inLanes m.h.guard) act true (wordsOf k act cmp ++ wordsOf k act new)
    (fun l => .cas m.ty l (cmp l).bits (new l).bits)
    (fun l => leBytes (typeBytes m.ty) (cmp l).bits.toNat ++ leBytes (typeBytes m.ty) (new l).bits.toNat)

def redBody (m : AtomOp) (op : AtomOpc) (s : State) : Res :=
  let data (l : Nat) : Val := s.rdOp m.ty (typeWords m.ty) m.d l
  match s.atomicPlan m.ty (s.va (atomForm m)) (s.memAct m.h.guard (atomForm m) (fun l => (data l).valid)) m.order m.scope
      (m.ty != .f32) with
  | .inl r => r
  | .inr (s1, as) => .done (as.foldl (fun s a => s.redLane (.red m op) op m.ty (data a.lane).bits.toNat a) s1)

/-- FENCE (R205, R209): what it orders is marked; an acquire discards L1 lines, a release sends update-only lines. -/
def fenceBody (k : FenceKind) (sc : Scope) (s : State) : Res :=
  match s.remoteErr (k != .acq) sc with
  | some r => r
  | none =>
    .done (match k with
      | .acq => (s.fenceOff (fun u => u.reads) true).acquire sc
      | .rel => (s.sendWaveLines.fenceOff (fun _ => true) false).markReleased sc
      | .acqrel => ((s.sendWaveLines.fenceOff (fun _ => true) true).markReleased sc).acquire sc)

/-- PREF (R212): fills the line of each acting lane that translates to a resident page; nofill brings it to the L2
only. -/
def prefBody (m : MemOp) (s : State) : Res :=
  let p := s.w.place.part
  let one (s : State) (l : Nat) : State :=
    match s.range s.w.place.ctx (s.va (memForm m) l) false with
    | none => s
    | some t =>
      if attrRemote t.2 || (s.peek p t.1).isNone || s.readHeld p t.1 then s
      else if noFill m.cache || attrNoL1 t.2 then (s.homeRead p t.1).1
      else (s.streamLine t.1 false false).1
  .done ((lanesOf (s.memAct m.h.guard (memForm m) (fun _ => true))).foldl one s)

/-- Replaces a token register. -/
def Wave.setTok (w : Wave) (n : Nat) (t : Token) : Wave := { w with q := Tab.set w.q n t }
/-- A token that an instruction has issued on (R93). -/
def Wave.pendTok (w : Wave) (n : Nat) : Wave := w.setTok n { (w.tok n) with st := .pending, fail := false, tl := false }
/-- A result that lands in a token. -/
def Wave.readyTok (w : Wave) (n : Nat) (value : Word) (valid : Bool) : Wave := w.setTok n ⟨.ready, valid, value, false, (w.tok n).tl⟩

/-- TOKBUSY (R93). -/
def tokBusy (n : Nat) : TrapInfo := { cause := .tokbusy, addr := BitVec.ofNat 64 n }

/-- The pages of a page request with the lanes they stand for, in the order the lanes name them: a page of 64 KiB or 2 MiB is one
(R213, R340). -/
def State.pagesOf (s : State) (p : Nat) (as : List LaneAcc) : List (Nat × Word) :=
  as.foldl (fun ps a =>
    let g := s.pageOf p (a.span.headD (0, 0)).1
    if ps.any (fun q => q.1 == g) then ps.map (fun q => if q.1 == g then (q.1, q.2 ||| (1#32 <<< a.lane)) else q)
    else ps ++ [(g, 1#32 <<< a.lane)]) []

/-- Judges a page at issue (R213): resident, or awaiting firmware, with a record where no request of the context is outstanding
(R347). -/
def State.judgePage (s : State) (p ctx core : Nat) (pg : Nat × Word) : State × (Nat × Word × Option Bool) :=
  let r := s.walk p (pg.1 * 4096)
  let why := r.reason false
  if why != 0 then
    let x := s.part p
    if x.pgreqs.any (fun q => q.ctx == ctx && q.page == pg.1) then (s, (pg.1, pg.2, none))
    else
      let s1 := s.setPart p { x with rseq := (x.rseq + 1) % 2 ^ 32, pgreqs := x.pgreqs ++ [⟨x.rseq, ctx, pg.1, none⟩] }
      (s1.fault p (faultRec 2 why ctx r.level x.rseq (pg.1 * 4096) r.ent core), (pg.1, pg.2, none))
  else (s, (pg.1, pg.2, some true))

/-- Judges pages one after another. -/
def State.judgePages (s : State) (p ctx core : Nat) : List (Nat × Word) → State × List (Nat × Word × Option Bool)
  | [] => (s, [])
  | g :: t =>
    let r := s.judgePage p ctx core g
    let q := r.1.judgePages p ctx core t
    (q.1, r.2 :: q.2)

/-- The lanes whose page was judged resident. -/
def residentLanes (ps : List (Nat × Word × Option Bool)) : Word :=
  ps.foldl (fun m g => if g.2.2 == some true then m ||| g.2.1 else m) 0

/-- PGREQ (R213). A lane of a remote range counts as resident. -/
def pgreqBody (h : Hdr) (tok : BitVec 4) (f : AddrForm) (s : State) : Res :=
  let q := tok.toNat
  let act := s.memAct h.guard f (fun _ => true)
  if (s.w.tok q).st = .pending then .trap s (tokBusy q)
  else
    match s.plan (s.va f) act 1 false with
    | .fault ls va => .trap s (rangeFault ls va)
    | .ok as =>
      let loc := as.filter (fun a => a.remoteIas.isEmpty)
      let far := as.filter (fun a => !a.remoteIas.isEmpty)
      let r := s.judgePages s.w.place.part s.w.place.ctx s.w.core (s.pagesOf s.w.place.part loc)
      let farMask := laneMask (fun l => far.any (fun a => a.lane == l))
      let s1 := r.1.setW (r.1.w.pendTok q)
      if r.2.all (fun g => g.2.2.isSome) then .done (s1.setW (s1.w.readyTok q (residentLanes r.2 ||| farMask) true))
      else
        let x := s1.part s.w.place.part
        let pages := if far.isEmpty then r.2 else r.2 ++ [(2 ^ 48, farMask, some true)]
        .done (s1.setPart s.w.place.part { x with pgwaits := x.pgwaits ++ [⟨s.w.id, q, pages⟩] })

def execLd (m : MemOp) (s : State) : Out := issue (.ld m) s (ldBody m)
def execSt (m : MemOp) (s : State) : Out := issue (.st m) s (stBody m)
def execLds (m : MemOp) (s : State) : Out := issue (.lds m) s (ldsBody m)
def execSts (m : MemOp) (s : State) : Out := issue (.sts m) s (stsBody m)
def execAtom (m : AtomOp) (op : AtomOpc) (s : State) : Out := issue (.atom m op) s (atomBody m op)
def execCas (m : AtomOp) (s : State) : Out := issue (.cas m) s (casBody m)
def execRed (m : AtomOp) (op : AtomOpc) (s : State) : Out := issue (.red m op) s (redBody m op)
def execFence (h : Hdr) (k : FenceKind) (sc : Scope) (s : State) : Out := issue (.fence h k sc) s (fenceBody k sc)
def execPref (m : MemOp) (s : State) : Out := issue (.pref m) s (prefBody m)
def execPgreq (h : Hdr) (tok : BitVec 4) (a64 : Bool) (a b : Operand) (disp : BitVec 28) (s : State) : Out :=
  issue (.pgreq h tok a64 a b disp) s (pgreqBody h tok ⟨a64, a, b, disp.toInt⟩)

end Sys2Proof.Machine
end

