-- ==== Sys2Proof/Machine/Team.lean ====
section
/-! DEFINITION. Helper teams as units (R150 to R160): landing and releasing parts, ending a team, reporting its faults,
and the pool's count of free registers. -/

namespace Sys2Proof.Machine

/-- The waves on a core, belay streams excepted. -/
def State.wavesOn (s : State) (core : Nat) : List Wave := s.streams.filter (fun x => !x.belay && x.core == core)

/-- Registers in use on a core (R94). -/
def State.usedRegs (s : State) (core : Nat) : Nat :=
  sumNat ((s.wavesOn core).map (fun x => x.c + (if x.lentTo.isSome then 16 else 0)))

/-- The pool's free count (R94). -/
def State.freeRegs (s : State) (core : Nat) : Nat := Config.nVReg - s.usedRegs core

/-- The free count that the grant pass sees: what was freed in this cycle is seen in the next (R99, R101). -/
def State.grantFree (s : State) (core : Nat) : Nat := s.freeRegs core - (s.core core).hold

/-- Whether an access is parked. -/
def State.parkedId (s : State) (p i : Nat) : Bool := ((s.part p).parked ++ (s.part p).parkWait).any (fun a => a.ids.contains i)

/-- Whether the wait of an instruction for an access is a blocking point: the access is parked, or it is a remote one that is
answered (R188, R191, R266). -/
def State.blockingId (s : State) (p i : Nat) : Bool := s.parkedId p i || s.remotes.any (fun r => r.id == i && r.entry.isSome)

/-- Whether a wave's claim has been withdrawn and its REGDEAD is due (R103). -/
def State.isDead (s : State) (w : Wave) : Bool := (s.core w.core).dead.any (fun k => k.wave == w.id)

/-- Whether a stream stands at a blocking point (R217, R266); a stopped wave stands at none (R399), nor does one whose REGDEAD is
due (R103). -/
def State.blocked (s : State) (w : Wave) : Bool :=
  !w.stopped &&
    match w.wait with
    | .bar _ | .abwait _ _ | .waitq _ | .tlwait _ _ | .tkwait _ _ | .gemit | .yield _ | .slots _ => true
    | .regclm _ => !s.isDead w
    | .remote ids => !w.belay && ids.any (s.blockingId w.place.part)
    | .parked ids => !w.belay && ids.any (s.parkedId w.place.part)
    | .merges ls => !w.belay && ls.any (fun e => (s.mergeDue w.place.part e.1 e.2).any (s.parkedId w.place.part))
    | .none | .busy | .answer | .drain _ => false

/-- Stops every part of a wave's team at its instruction boundary. -/
def Wave.stopTeam (w : Wave) : Wave :=
  match w.team with
  | some t =>
    let w1 := (List.range t.parts.length).foldl (fun (x : Wave) k => x.settlePart k 0) w
    { w1 with team := w1.team.map (fun t => { t with parts := t.parts.map HPart.stop }) }
  | none => w

/-- The waves that lend lanes to a wave. -/
def State.lenders (s : State) (w : WaveId) : List Wave := s.streams.filter (fun x => x.lentTo == some w)

/-- Takes the lent lanes back to their waves; their registers return to the pool (R156, R158). -/
def State.returnLent (s : State) (w : WaveId) : State :=
  (s.lenders w).foldl (fun s x => (s.addFreed x.core 16).onStream x.id (fun y => { y with lentTo := none })) s

/-- Whether every running part of a wave's team stands at its boundary (R156). -/
def State.teamAtBoundary (s : State) (w : Wave) : Bool :=
  match w.team with
  | some t => t.parts.all (fun p => !p.running || (s.partOwes w.place.part p).isEmpty)
  | none => true

/-- HREL: releases every part of a team at its boundary, or lets none issue any more until they stand there (R156). -/
def State.releaseTeam (s : State) : State ⊕ State :=
  if s.w.team.isNone then .inl s
  else if s.teamAtBoundary s.w then .inl ((s.setW s.w.stopTeam).returnLent s.w.id)
  else .inr (s.setW (s.w.closeParts (fun _ => true)))

/-- The turn of a part that issues no more: its REDs are sent, and at its boundary it is released (R156, R200). -/
def State.closePart (s : State) : State :=
  match s.w.cur, s.w.sel with
  | some p, some k =>
    let s := s.sendWaveLines
    if !(s.partOwes s.w.place.part p).isEmpty then s
    else
      let w := s.w.settlePart k 0
      let s1 := s.setW { w with team := w.team.map (fun t => { t with parts := t.parts.modify k HPart.stop }) }
      match p.lender with
      | some l => (s1.addFreed s1.w.core 16).onStream l (fun y => { y with lentTo := none })
      | none => s1
  | _, _ => s

/-- Ends a team (R158). -/
def State.endTeam (s : State) : State := (s.setW { s.w with team := none }).returnLent s.w.id

/-- The lowest faulted helper. -/
def lowestFault (fs : List HFault) : Option HFault :=
  fs.foldl (fun m f =>
    match m with
    | some g => if f.h < g.h then some f else some g
    | none => some f) none

/-- HELPERFAULT, where a fault of the team is not yet reported (R158, R395, R396). -/
def Team.fault (t : Team) : Option TrapInfo :=
  if t.reported then none
  else
    match lowestFault t.faults with
    | some f => some {
        cause := .helperfault, sub := f.cause.code, hidx := f.h, addr := f.addr,
        lanes := laneMask (fun h => t.faults.any (fun g => g.h == h)), word := some f.word, hpc := some f.pc }
    | none => none

/-- Marks the team's fault reported. -/
def State.markReported (s : State) : State := s.setW { s.w with team := s.w.team.map (fun t => { t with reported := true }) }

end Sys2Proof.Machine
end

