-- ==== Sys2Proof/Machine/Score.lean ====
section
/-! DEFINITION. The range-overlap scoreboard of a core's typed buffers (R224): what operations have reached it and not
finished, and when two of them conflict. -/

namespace Sys2Proof.Machine

/-- A span of bytes of a buffer of one group, read or written. -/
structure Span where
  buf : Buf
  lo : Nat
  hi : Nat
  write : Bool
deriving DecidableEq, Repr

/-- An operation on a group's buffers. `merge` names the destination and counter of an MMERGE; `dec` marks what writes
(`true`) or reads a decoder slot (R240). -/
structure BufOp where
  seq : Nat
  group : Nat
  spans : List Span
  merge : Option (Nat × Nat)
  dec : Option Bool
deriving DecidableEq, Repr

/-- Two spans that overlap, one of them written. -/
def Span.hits (a b : Span) : Bool :=
  a.buf == b.buf && (a.write || b.write) && decide (a.lo ≤ b.hi) && decide (b.lo ≤ a.hi)

/-- Whether two operations conflict (R224, R240). -/
def BufOp.hits (x y : BufOp) : Bool :=
  x.group == y.group
    && ((x.spans.any (fun a => y.spans.any (fun b => a.hits b)) && !(x.merge.isSome && x.merge == y.merge))
        || (match x.dec, y.dec with | some a, some b => a || b | _, _ => false))

/-- The fields of a layout word (R218). -/
structure Lay where
  base : Nat
  mode : Nat
  ps : Nat
  rs : Nat
  bs : Nat
deriving DecidableEq, Repr

def layOf (ws : List Word) : Lay :=
  let w (k : Nat) : Nat := (ws.getD k 0).toNat
  ⟨bits (w 0) 19 0, bits (w 0) 23 20, bits (w 1) 15 0, bits (w 1) 31 16, bits (w 2) 23 0⟩

/-- The last byte of a C region (R222). -/
def Lay.cEnd (l : Lay) (m n : Nat) : Nat := l.base + (m - 1) * l.rs + 4 * n - 1

/-- The last byte of a bit-plane region with `g` K-groups (R222). -/
def Lay.abEnd (l : Lay) (g rows w : Nat) : Nat := l.base + (g - 1) * l.bs + (rows - 1) * l.rs + (w - 1) * l.ps + 3

/-- The element width of a TW code (R296). -/
def twWidth (tw : BitVec 2) : Nat :=
  match tw.toNat with
  | 0 => 4
  | 1 => 6
  | 2 => 8
  | _ => 16

/-- The declared size of a buffer (R163). -/
def Launch.size (l : Launch) (b : Buf) : Nat :=
  match b with
  | .wb => l.wb
  | .ab => l.ab
  | .cb => l.cb

/-- The own-core source and destination buffers of a COPY. -/
def copySrc (c : CopyOp) : Option Buf :=
  match c.sk.toNat with
  | 1 => some .wb
  | 2 => some .ab
  | _ => none

def copyDst (c : CopyOp) : Option Buf :=
  match c.dk.toNat with
  | 1 => some .wb
  | 2 => some .ab
  | _ => none

/-- The last destination byte of a COPY in a buffer; the indexed form's length is open until its entry is read, so it
names its destination up to the end of the buffer. -/
def CopyCmd.dstEnd (c : CopyCmd) (size : Nat) : Nat :=
  if c.form = 1 then size - 1
  else if c.op.trn then (layOf c.layout).abEnd (c.op.kgm1.toNat + 1) c.cnt (twWidth c.op.tw)
  else c.dst + c.cnt - 1

/-- The spans of a COPY on its own core (R298). -/
def CopyCmd.spans (c : CopyCmd) (l : Launch) : List Span :=
  (match copySrc c.op with | some b => [⟨b, c.src, c.src + c.cnt - 1, false⟩] | none => [])
    ++ (match copyDst c.op with | some b => [⟨b, c.dst, c.dstEnd (l.size b), true⟩] | none => [])

/-- Fields of a format block (R219). -/
structure Fmt where
  ta : Nat
  tb : Nat
  la : Nat
  lb : Nat
  sclA : Bool
  sclB : Bool
  pa : Nat
  pb : Nat
  sa : Nat
  sb : Nat
  m : Nat
  n : Nat
  k : Nat
  pos : Nat
  span : Nat
deriving DecidableEq, Repr

/-- Reads a format block (R219). An NM1 of 256 to 511, an N above the 256 that R219 gives as its range, is used as it stands (DESIGN
CHOICE: the field has 9 bits and no check of R222 names it). -/
def fmtOf (ws : List Word) : Fmt :=
  let w (k : Nat) : Nat := (ws.getD k 0).toNat
  { ta := bits (w 0) 4 0, tb := bits (w 2) 4 0, la := bits (w 0) 6 5, lb := bits (w 2) 6 5, sclA := bit (w 0) 7,
    sclB := bit (w 2) 7, pa := bits (w 0) 11 8 + 1, pb := bits (w 2) 11 8 + 1, sa := bits (w 1) 19 0,
    sb := bits (w 3) 19 0, m := bits (w 4) 6 0 + 1, n := bits (w 4) 16 8 + 1, k := 8 * bits (w 5) 15 0,
    pos := 16 * bits (w 5) 31 16, span := w 6 + 2 ^ 32 * w 7 }

/-- Element width of a TYPE code in bit planes (R167). -/
def planeWidth (t : Nat) : Nat := if t = 14 then 4 else if t = 16 then 6 else if t = 3 || t = 4 || t = 9 || t = 10 then 16 else 8

/-- Stored values per group of 48 of an NSP code (R220). -/
def nspCount (n : BitVec 2) : Nat :=
  match n.toNat with
  | 0 => 6
  | 1 => 12
  | 2 => 16
  | _ => 24

/-- The sparse code of a matrix instruction, if it is one. -/
def sparseOf (x : Instr) : Option Nat :=
  match x with
  | .mmas _ _ _ _ n => some (nspCount n)
  | .mmaeSparse _ _ _ _ n => some (nspCount n)
  | _ => none

def isMmae (x : Instr) : Bool := match x with | .mmae _ _ _ _ | .mmaeSparse _ _ _ _ _ => true | _ => false

/-- Codes of a row of B as it is stored (R227). -/
def storedK (x : Instr) (f : Fmt) : Nat := match sparseOf x with | some ns => f.k / 48 * ns | none => f.k

/-- Blocks of an operand: 8, 16 or 32 elements (R219). -/
def blockOf (l : Nat) : Nat := 8 * 2 ^ l

/-- Scale bytes of an operand of `rows` rows. -/
def sclSpan (b : Buf) (on : Bool) (off rows k l : Nat) (write : Bool) : List Span :=
  if on && decide (0 < rows * (k / blockOf l)) then [⟨b, off, off + rows * (k / blockOf l) - 1, write⟩] else []

/-- K-groups of 32 elements. -/
def kGroups (k : Nat) : Nat := (k + 31) / 32

/-- The spans of a matrix instruction on a core (R222, R224, R239, R242). DESIGN CHOICE: the region of a sparse B operand is that of the
(K / 48) * NS codes which it stores, where the G of R222 does not say which K it takes. -/
def MatJob.spans (j : MatJob) (l : Launch) : List Span :=
  let f := fmtOf j.fmt
  let mul : List Span :=
    [⟨.cb, (layOf j.d).base, (layOf j.d).cEnd f.m f.n, true⟩,
     ⟨.ab, (layOf j.a).base, (layOf j.a).abEnd (kGroups f.k) f.m (planeWidth f.ta), false⟩,
     if isMmae j.op then ⟨.wb, (layOf j.b).base, l.wb - 1, false⟩
     else ⟨.wb, (layOf j.b).base, (layOf j.b).abEnd (kGroups (storedK j.op f)) f.n (planeWidth f.tb), false⟩]
      ++ sclSpan .ab f.sclA f.sa f.m f.k f.la false ++ sclSpan .wb f.sclB f.sb f.n f.k f.lb false
      ++ (match sparseOf j.op with | some ns => [⟨.wb, f.pos, f.pos + f.n * (f.k / 48) * ns - 1, false⟩] | none => [])
  match j.op with
  | .mma _ _ _ _ | .mmas _ _ _ _ _ | .mmae _ _ _ _ | .mmaeSparse _ _ _ _ _ => mul
  | .mzero _ _ _ _ => [⟨.cb, (layOf j.d).base, (layOf j.d).cEnd f.m f.n, true⟩]
  | .mcvt _ _ _ _ =>
    [⟨.cb, (layOf j.a).base, (layOf j.a).cEnd f.m f.n, false⟩,
     ⟨.ab, (layOf j.d).base, (layOf j.d).abEnd (kGroups f.n) f.m (planeWidth f.ta), true⟩]
      ++ sclSpan .ab f.sclA f.sa f.m f.n f.la true
  | .dectab _ _ _ =>
    let o := bits (j.a.getD 0 0).toNat 19 0
    [⟨.wb, o, Nat.min (o + 1027) (l.wb - 1), false⟩]
  | _ => []

/-- What a matrix instruction does to the decoder slots (R240). -/
def MatJob.dec (j : MatJob) : Option Bool :=
  match j.op with
  | .dectab _ _ _ => some true
  | .mmae _ _ _ _ | .mmaeSparse _ _ _ _ _ => some false
  | _ => none

/-- The operations of an MMERGE: a write at its destination and a read at its source (R224). -/
def Merge.ops (m : Merge) : List BufOp :=
  let d := layOf m.cDst
  let c := layOf m.cSrc
  [⟨m.seq, m.dst, [⟨.cb, d.base, d.cEnd m.m m.n, true⟩], some (m.dst, m.mtk), none⟩,
   ⟨m.seq, m.src, [⟨.cb, c.base, c.cEnd m.m m.n, false⟩], some (m.dst, m.mtk), none⟩]

/-- Whether a queued COPY will still touch its buffers: not discarded and not executed. -/
def CopyCmd.active (c : CopyCmd) : Bool := !c.done && c.go != some false

/-- The operations that have reached the core of a group and have not finished there (R224, R298). -/
def Gang.bufOps (x : Gang) (j : Nat) : List BufOp :=
  (match x.groups[j]? with
    | some g => (g.copyq.filter CopyCmd.active).map (fun c => ⟨c.seq, j, c.spans x.launch, none, none⟩)
    | none => [])
  ++ ((x.groups.flatMap (fun g => g.merges.flatMap Merge.ops)).filter (fun o => o.group == j))
  ++ (match x.belay with
    | some b => (b.flight.filter (fun y => y.todo.contains j)).map (fun y => ⟨y.seq, j, y.spans x.launch, none, y.dec⟩)
    | none => [])

/-- Whether an operation must wait for one that reached the core before it (R224). -/
def Gang.blocked (x : Gang) (o : BufOp) : Bool := (x.bufOps o.group).any (fun y => decide (y.seq < o.seq) && y.hits o)

/-- The region of a group in a buffer. -/
def Grp.region (g : Grp) (b : Buf) : Mem :=
  match b with
  | .wb => g.wb
  | .ab => g.ab
  | .cb => g.cb

def Grp.setRegion (g : Grp) (b : Buf) (m : Mem) : Grp :=
  match b with
  | .wb => { g with wb := m }
  | .ab => { g with ab := m }
  | .cb => { g with cb := m }

end Sys2Proof.Machine
end

