-- ==== Sys2Proof/Machine/Barrier.lean ====
section
/-! DEFINITION. Arrival barriers (R381 to R387) and tickets (R388 to R390). -/

namespace Sys2Proof.Machine

/-- A barrier right after it is claimed for a group: its phase and balances are 0, and the error that it holds, if it holds
one, stays (R381, R382). -/
def ABar.claim (g j : Nat) (err : Option Nat) : ABar := ⟨g, j, false, err.isSome, err.getD 0, 0, 0, 0⟩

/-- The barriers of a core with those that satisfy `gone` freed: EF and ECAUSE stay (R381, R382). -/
def Core.freeBars (c : Core) (gone : ABar → Bool) : Core :=
  { c with
    bars := c.bars.filter (fun e => !gone e.2)
    efs := (c.bars.filter (fun e => gone e.2)).foldl (fun t e => if e.2.ef then Tab.set t e.1 e.2.ecause else Tab.erase t e.1) c.efs }

/-- Records an error: the first is kept (R384). -/
def ABar.error (b : ABar) (c : Nat) : ABar := if b.ef then b else { b with ef := true, ecause := c }

/-- Completes the phase of an armed barrier whose balances are 0 (R384). -/
def ABar.settle (b : ABar) : ABar :=
  if b.armed && b.pend == 0 && b.arr == 0 then { b with phase := (b.phase + 1) % 16, armed := false } else b

/-- The update of R384. -/
def ABar.update (b : ABar) (dB dA : Int) (arm : Bool) : ABar :=
  let nb := b.pend + dB
  let na := b.arr + dA
  if nb < -(2 ^ 23 - 1) || 2 ^ 23 - 1 < nb then b.error 2
  else if na < -127 || 127 < na then b.error 3
  else ABar.settle { b with pend := nb, arr := na, armed := b.armed || arm }

/-- ABINIT `op=reset` (R384). -/
def ABar.clear (b : ABar) : ABar := { b with pend := 0, arr := 0, ef := false, ecause := 0, armed := false }

/-- Where the barriers of a group stand: with a resident gang on its core, with an evicted one in its image, and with
a retired group nowhere (R382). -/
inductive BarHome where
  | core (c : Nat)
  | image
  | gone
deriving DecidableEq, Repr

def State.barHome (s : State) (g j : Nat) : BarHome :=
  match s.gang? g with
  | none => .gone
  | some x =>
    match x.groups[j]? with
    | none => .gone
    | some y =>
      if y.retired then .gone
      else
        match x.st with
        | .resident => .core (x.coreOf j)
        | .retired => .gone
        | .pending | .evicted => .image

/-- Barrier `n` where the group's barriers stand. -/
def State.bar? (s : State) (g j n : Nat) : Option ABar :=
  match s.barHome g j with
  | .core c => Tab.find (s.core c).bars n
  | .image => (s.grp? g j).bind (fun y => Tab.find y.bars n)
  | .gone => none

/-- Stores a barrier. -/
def State.setBar (s : State) (g j n : Nat) (b : ABar) : State :=
  match s.barHome g j with
  | .core c => s.setCore c { (s.core c) with bars := Tab.set (s.core c).bars n b }
  | .image => s.onGrp g j (fun y => { y with bars := Tab.set y.bars n b })
  | .gone => s

/-- The error that a free barrier holds where a group's barriers stand (R381). -/
def State.barErr (s : State) (g j n : Nat) : Option Nat :=
  match s.barHome g j with
  | .core c => Tab.find (s.core c).efs n
  | .image | .gone => none

/-- Whether another group holds barrier `n` of the core of group `j`. -/
def State.barForeign (s : State) (g j n : Nat) : Bool :=
  match s.bar? g j n with
  | some b => b.gang != g || b.group != j
  | none => false

/-- One event at a barrier of a group, which claims it first where it is free (R382); another group's is left alone. -/
def State.barEvent (s : State) (g j n : Nat) (f : ABar → ABar) : State :=
  if s.barForeign g j n then s else s.setBar g j n (f ((s.bar? g j n).getD (ABar.claim g j (s.barErr g j n))))

/-- ABARG and ABSTATE. -/
def abTrap (c : Cause) (n : BitVec 4) : TrapInfo := { cause := c, addr := n.setWidth 64 }

/-- ABINIT arm (R383, R384). -/
def abinitBody (n : BitVec 4) (bytes arr : Operand) (s : State) : Res :=
  let b := s.rdW bytes
  let a := s.rdW arr
  let g := s.w.id.gang
  let j := s.w.id.group
  if !(b.valid && a.valid) then .done s
  else if decide (2 ^ 23 ≤ b.bits.toNat) || decide (127 < a.bits.toNat) then .trap s (abTrap .abarg n)
  else if s.barForeign g j n.toNat then .trap s (abTrap .abstate n)
  else .done (s.barEvent g j n.toNat (fun x => x.update b.bits.toNat a.bits.toNat true))

/-- Whether the executing wave's group holds a barrier. -/
def State.barOwn (s : State) (n : Nat) : Bool :=
  (s.bar? s.w.id.gang s.w.id.group n).isSome && !s.barForeign s.w.id.gang s.w.id.group n

def abinitResetBody (n : BitVec 4) (s : State) : Res :=
  if s.barOwn n.toNat then .done (s.barEvent s.w.id.gang s.w.id.group n.toNat ABar.clear) else .trap s (abTrap .abstate n)

/-- Frees a barrier; the error that it holds stays. -/
def State.freeBar (s : State) (n : Nat) : State :=
  let c := s.core s.w.core
  s.setCore s.w.core { c with
    bars := Tab.erase c.bars n
    efs := match Tab.find c.bars n with | some b => if b.ef then Tab.set c.efs n b.ecause else Tab.erase c.efs n | none => c.efs }

def abinitFreeBody (n : BitVec 4) (s : State) : Res :=
  if s.barOwn n.toNat then .done (s.freeBar n.toNat) else .trap s (abTrap .abstate n)

/-- ABARR (R383, R385, R387): a release at gang scope, then one event at the target. -/
def abarrBody (n : BitVec 4) (g cnt : Operand) (s : State) : Res :=
  let t := s.rdW g
  let c := s.rdW cnt
  if !(t.valid && c.valid) then .done s
  else if decide (s.w.place.ngroup ≤ t.bits.toNat) || c.bits.toNat == 0 || decide (127 < c.bits.toNat) then
    .trap s (abTrap .abarg n)
  else
    let s1 := s.sendWaveLines
    match s1.releaseIds .gang with
    | i :: is => .hold s1 (.remote (i :: is))
    | [] =>
      if s1.barForeign s.w.id.gang t.bits.toNat n.toNat then .trap s1 (abTrap .abstate n)
      else .done (s1.barEvent s.w.id.gang t.bits.toNat n.toNat (fun x => x.update 0 (-(c.bits.toNat : Int)) false))

/-- The status word of ABWAIT (R386). -/
def ABar.status (b : ABar) : RWord := ⟨BitVec.ofNat 32 (b2n b.ef * 128 + b.ecause * 16 + b.phase), !b.ef⟩

/-- ABWAIT (R386, R387). -/
def abwaitBody (n : BitVec 4) (d : BitVec 8) (p : Operand) (s : State) : Res :=
  let v := s.rdW p
  if !v.valid then .done (s.setW (s.w.wrS d.toNat RWord.none))
  else
    match s.bar? s.w.id.gang s.w.id.group n.toNat with
    | none => .trap s (abTrap .abstate n)
    | some b =>
      if !s.barOwn n.toNat then .trap s (abTrap .abstate n)
      else if b.phase == v.bits.toNat % 16 && !b.ef then .hold s (.abwait n.toNat (v.bits.toNat % 16))
      else
        let s1 := if b.ef then s else s.acquire .gang
        .done (s1.setW (s1.w.wrS d.toNat b.status))

/-! Tickets. -/

/-- The address form of a ticket: the pair sA:sA+1. -/
def ticketForm (a : BitVec 8) : AddrForm := ⟨true, .s a, .i 0, 0⟩

/-- The access of a ticket at a VA, or its trap (R389, R193); XLANE names lane 0, as for LDS. -/
def State.ticketAt (s : State) (va : Nat → Nat) (write : Bool) : LaneAcc ⊕ TrapInfo :=
  match s.plan va 1 4 write with
  | .fault ls va => .inr (rangeFault ls va)
  | .ok as =>
    match as with
    | x :: _ => if x.va % 4 != 0 then .inr { cause := .misalign, addr := BitVec.ofNat 64 x.va, lanes := 1 } else .inl x
    | [] => .inl ⟨0, 0, []⟩

/-- The access of a ticket instruction. -/
def State.ticketAcc (s : State) (a : BitVec 8) (write : Bool) : LaneAcc ⊕ TrapInfo := s.ticketAt (s.va (ticketForm a)) write

/-- DATAERR of a ticket access with its host record. -/
def State.ticketBad (s : State) (x : LaneAcc) : Res :=
  let b := s.badByteOf [x] 0
  .trap (s.badRead b.2) { cause := .dataerr, addr := BitVec.ofNat 64 b.1, lanes := 1 }

/-- The read of TKWAIT at the word's home slice, which it has reached: none where the page has no resident leaf (R389). The core's L1 copy of the line,
which may be older, leaves, so that no later load reads a value from before this one (R207). A word of another node is a free value
(R424). -/
def State.ticketRead (s : State) (x : LaneAcc) : State × Option (Nat × Bool) :=
  match x.remoteIas with
  | _ :: _ =>
    (s.tick, some (leNat ((List.range 4).map (fun k => Config.remoteByte (4 * s.fresh + k))), false))
  | [] =>
    let ia := (x.span.headD (0, 0)).1
    let r := s.homeServe s.w.place.part ia
    match r.2.2 with
    | some d =>
      let ks := List.range 4
      (if s.w.belay then r.1 else r.1.l1Drop s.w.core (ia / 128),
       some (leNat (ks.map (fun k => d.data.getD (ia % 128 + k) 0)), ks.any (fun k => d.bad.getD (ia % 128 + k) false)))
    | none => (r.1, none)

/-- What has come of the read that TKWAIT makes of a word of another node (R389, R424). -/
inductive TicketAsk where
  | unasked
  | asked
  | failed (e : CopyErr)
  | answered
deriving DecidableEq, Repr

/-- How far the read of a TKWAIT that waits for `v` at `va` has come: the request that it has sent is on its way, has failed, or has
been answered (R424). -/
def State.ticketAsk (s : State) (x : Instr) (va v : Nat) : TicketAsk :=
  match s.w.errs.find? (fun e => !e.remote && e.path.isNone && e.word == wordOf x && e.pc == s.w.pcNow) with
  | some e => .failed e
  | none =>
    if s.remotes.any (fun r => r.wave == s.w.id && r.entry.isNone && r.bytes.isEmpty && r.word == wordOf x && r.pc == s.w.pcNow) then
      .asked
    else if s.w.wait == .tkwait va v then .answered
    else .unasked

/-- Sends the read of a TKWAIT to the node of its word (R424). -/
def State.askTicket (s : State) (x : Instr) (acc : LaneAcc) : State :=
  (remotePieces 0 acc.span).foldl (fun s q =>
    let k := s.newId
    { k.1 with remotes := k.1.remotes ++
        [⟨k.2, s.w.id, none, attrNode q.2.2.1, q.2.1, q.2.2.2, 0, q.1, [], acc.va + q.1, wordOf x, s.w.pcNow, none, 0, false⟩] }) s

/-- The read of a local ticket reaches its home slice (R170). -/
def State.reachTicket (s : State) (x : LaneAcc) : State × List (Nat × Nat) :=
  match x.localIas with
  | [] => (s, [])
  | ia :: _ => s.reachLine s.w.place.part s.w.reached (ia / 128)

/-- What TKWAIT does with the word it has read: one at or past the value, modulo 2^32, ends it with an acquire, and any other makes
the wave wait (R389). -/
def State.ticketJudge (s : State) (d : BitVec 8) (va v w : Nat) (sc : Scope) : Res :=
  if (w + 2 ^ 32 - v) % 2 ^ 32 < 2 ^ 31 then
    let s1 := s.acquire sc
    .done (s1.setW (s1.w.wrS d.toNat ⟨BitVec.ofNat 32 w, true⟩))
  else .hold s (.tkwait va v)

/-- TKWAIT on a word of another node: it asks for the word and waits for the answer, asks again where the value has not been
reached, and a request that fails is its DATAERR (R389, R424). -/
def State.ticketRemote (s : State) (x : Instr) (d : BitVec 8) (va v : Nat) (acc : LaneAcc) (sc : Scope) : Res :=
  match s.ticketAsk x va v with
  | .failed e =>
    .trap (s.setW { s.w with errs := s.w.errs.filter (fun y => !(y == e)) }) { cause := e.cause, addr := e.addr, lanes := 1 }
  | .asked => .hold s (.tkwait va v)
  | .unasked => .hold (s.askTicket x acc) (.tkwait va v)
  | .answered =>
    let r := s.ticketRead acc
    match r.2 with
    | some (w, _) =>
      (match r.1.ticketJudge d va v w sc with
        | .hold t z => .hold (t.askTicket x acc) z
        | y => y)
    | none => .hold (r.1.askTicket x acc) (.tkwait va v)

/-- TKWAIT (R389, R390). -/
def tkwaitBody (h : Hdr) (d a : BitVec 8) (v : Operand) (sc : Scope) (s : State) : Res :=
  let va := s.w.rdPair a.toNat
  let x := s.rdW v
  if !(va.valid && x.valid) then .done (s.setW (s.w.wrS d.toNat RWord.none))
  else
    match s.ticketAcc a false with
    | .inr t => .trap s t
    | .inl acc =>
      let s := s.sendReached [acc]
      match if s.w.reached.isEmpty then s.blockers false [acc] else [] with
      | i :: is => .hold s (.remote (i :: is))
      | [] =>
        if !acc.remoteIas.isEmpty then s.ticketRemote (.tkwait h d a v sc) d va.bits.toNat x.bits.toNat acc sc
        else
          let u := s.reachTicket acc
          if u.2.any (u.1.lineWaits s.w.place.part) then .hold u.1 (.merges u.2)
          else
            let r := u.1.ticketRead acc
            match r.2 with
            | none => .done (r.1.setW (r.1.w.wrS d.toNat RWord.none))
            | some (w, bad) => if bad then r.1.ticketBad acc else r.1.ticketJudge d va.bits.toNat x.bits.toNat w sc

/-- The pending result of TKADV in flight, with the amount that it adds (R26, R401). -/
def State.pendScalar (s : State) (x : Instr) (va id : Nat) (w : Word) (waits : List Nat) : State :=
  s.flightEntry x true 1 1 (fun _ => va) [VReg.splat ⟨w, true⟩] [VReg.splat RWord.none] waits 0 0 id

/-- The access of TKADV (R389, R390): a release, then one indivisible addition of `w`; on an unfit page it parks, and sD stays
pending. `got` is what it does with the old word where it performs at once. -/
def State.tkadvAt (s : State) (x : Instr) (d : BitVec 8) (va : Nat → Nat) (w : Word) (sc : Scope)
    (got : State → LaneAcc → Nat → AtomRes → Res) : Res :=
  match s.ticketAt va true with
  | .inr t => .trap s t
  | .inl acc =>
    let s1 := s.sendWaveLines.sendReached [acc]
    match s1.blockers true [acc] ++ s1.releaseIds sc, (s1.remoteErr true sc).orElse (fun _ => s1.dueErr [acc]) with
    | i :: is, _ => .hold s1 (.remote (i :: is))
    | [], some r => r
    | [], none =>
      let ia := (acc.span.headD (0, 0)).1
      let k := s1.newId
      match acc.remoteIas with
      | _ :: _ =>
        let r := k.1.sendRemote x (some k.2) acc (leBytes 4 w.toNat)
        .done (r.1.pendScalar x acc.va k.2 w r.2)
      | [] =>
        if (s1.part s1.w.place.part).held ia then .hold s1 .busy
        else
          let r := k.1.atomic s.w.place.part (.wave s.w.id s.w.core (some k.2)) s.w.place.ctx ia (.tkadv w d.toNat)
          match r.2 with
          | .inl y => got r.1 acc k.2 y
          | .inr p => .done (r.1.pendScalar x acc.va k.2 w [p])

/-- TKADV (R389, R390). -/
def tkadvBody (h : Hdr) (d a : BitVec 8) (n : Operand) (sc : Scope) (s : State) : Res :=
  let x := s.rdW n
  if !((s.w.rdPair a.toNat).valid && x.valid) then .done (s.setW (s.w.wrS d.toNat RWord.none))
  else
    s.tkadvAt (.tkadv h d a n sc) d (s.va (ticketForm a)) (valWord x 0).data sc (fun t acc _ y =>
      if y.bad then t.ticketBad acc else .done (t.setW (t.w.wrS d.toNat ⟨BitVec.ofNat 32 y.old, true⟩)))

def execAbinit (h : Hdr) (n : BitVec 4) (bytes arr : Operand) (s : State) : Out :=
  issue (.abinit h n bytes arr) s (abinitBody n bytes arr)
def execAbinitReset (h : Hdr) (n : BitVec 4) (s : State) : Out := issue (.abinitReset h n) s (abinitResetBody n)
def execAbinitFree (h : Hdr) (n : BitVec 4) (s : State) : Out := issue (.abinitFree h n) s (abinitFreeBody n)
def execAbarr (h : Hdr) (n : BitVec 4) (g cnt : Operand) (s : State) : Out := issue (.abarr h n g cnt) s (abarrBody n g cnt)
def execAbwait (h : Hdr) (n : BitVec 4) (d : BitVec 8) (p : Operand) (s : State) : Out :=
  issue (.abwait h n d p) s (abwaitBody n d p)
def execTkwait (h : Hdr) (d a : BitVec 8) (v : Operand) (sc : Scope) (s : State) : Out :=
  issue (.tkwait h d a v sc) s (tkwaitBody h d a v sc)
def execTkadv (h : Hdr) (d a : BitVec 8) (n : Operand) (sc : Scope) (s : State) : Out :=
  issue (.tkadv h d a n sc) s (tkadvBody h d a n sc)

end Sys2Proof.Machine
end

