-- ==== Sys2Proof/Machine/Buffers.lean ====
section
/-! DEFINITION. Typed-buffer instructions: LDTB, STTB on the own core, LDC, STC on a peer's (R162 to R166, R194 to
R196). -/

namespace Sys2Proof.Machine

/-- A lane's access to a typed buffer: target group, offset, and the address parts consumed. -/
structure BufAcc where
  lane : Nat
  group : Nat
  off : Nat
deriving DecidableEq, Repr

/-- Number of groups of the gang of the stream that executes. -/
def State.gangSize (s : State) : Nat := match s.gang? s.w.id.gang with | some x => x.groups.length | none => 0

/-- Declared size of a buffer of every group of the gang. -/
def State.bufSize (s : State) (b : Buf) : Nat :=
  match s.gang? s.w.id.gang with
  | some x => x.launch.size b
  | none => 0

/-- The lanes that reach beyond a region or name no group (R163, R164). -/
def State.bufBad (s : State) (b : Buf) (n : Nat) (as : List BufAcc) : List BufAcc :=
  as.filter (fun a => decide (s.gangSize ≤ a.group) || decide (s.bufSize b < a.off + n))

/-- BUFRANGE (R163, R394). -/
def bufRange (bad : List BufAcc) : TrapInfo :=
  { cause := .bufrange, addr := BitVec.ofNat 64 ((bad.map (·.off)).headD 0),
    lanes := laneMask (fun l => bad.any (fun a => a.lane == l)) }

/-- Whether an access of the executing wave to its own group must wait at the scoreboard (R224). -/
def State.bufWait (s : State) (b : Buf) (n : Nat) (write : Bool) (as : List BufAcc) : Bool :=
  match s.gang? s.w.id.gang with
  | some x => x.blocked ⟨s.nextId, s.w.id.group, as.map (fun a => ⟨b, a.off, a.off + n - 1, write⟩), none, none⟩
  | none => false

/-- The region that a group's access reaches. -/
def State.regionOf (s : State) (g : Nat) (b : Buf) : Mem :=
  match s.grp? s.w.id.gang g with
  | some x => x.region b
  | none => []

/-- The bytes a lane reads. -/
def State.bufRead (s : State) (b : Buf) (n : Nat) (a : BufAcc) : List Byte := Mem.readN (s.regionOf a.group b) a.off n

/-- Whether an SRAM byte is one of `n` bytes of a group's typed buffer. -/
def SramByte.inBuf (y : SramByte) (gang group : Nat) (b : Buf) (off n : Nat) : Bool :=
  match y with
  | .buf g k c o => g == gang && k == group && c == b && decide (off ≤ o) && decide (o < off + n)
  | .l2 _ | .l1 _ _ | .grid _ _ _ => false

/-- Writes bytes of a group's typed buffer; what is written holds no error. -/
def State.putBuf (s : State) (gang group : Nat) (b : Buf) (off : Nat) (bs : List Byte) : State :=
  let s1 := s.onGrp gang group (fun g => g.setRegion b (Mem.writeN (g.region b) off bs))
  { s1 with sram := s1.sram.filter (fun y => !y.inBuf gang group b off bs.length) }

/-- Stores of the lanes, ascending: a later lane's byte replaces an earlier one's (R194). -/
def State.bufWrite (s : State) (b : Buf) (bytes : Nat → List Byte) (as : List BufAcc) : State :=
  as.foldl (fun s a => s.putBuf s.w.id.gang a.group b a.off (bytes a.lane)) s

/-- The first byte of a read of a group's typed buffer that holds an uncorrectable error (R419). -/
def State.bufError (s : State) (gang group : Nat) (b : Buf) (off n : Nat) : Option Nat :=
  if s.sram.isEmpty then none else ((List.range n).find? (fun k => s.sram.contains (.buf gang group b (off + k)))).map (fun k => off + k)

/-- The host record of an uncorrectable error in a typed buffer of a group (R193, R419). -/
def State.bufRecord (s : State) (gang group off : Nat) : State :=
  match s.gang? gang with
  | some x => s.hostError 3 x.launch.part (.buffers (x.coreOf group)) x.launch.ctx off 1
  | none => s

/-- A typed-buffer load: always valid data (R162), but for the lanes that read an uncorrectable error (R193). `data` are its consumed words beside the address (R401). -/
def State.bufLoad (s : State) (x : Instr) (t : ElemType) (b : Buf) (m act : Word) (as : List BufAcc) (data : List VReg) : Res :=
  let n := typeBytes t
  let val (l : Nat) : Val :=
    match as.find? (fun a => a.lane == l) with
    | some a => ⟨BitVec.ofNat 64 (loadValue t (leNat (s.bufRead b n a))), true⟩
    | none => Val.none
  let k := s.newId
  let off (l : Nat) : Val := ⟨BitVec.ofNat 64 (((as.find? (fun a => a.lane == l)).map (·.off)).getD 0), true⟩
  let errs := as.filterMap (fun a => (s.bufError s.w.id.gang a.group b a.off n).map (fun o => (a, o)))
  let bad := laneMask (fun l => errs.any (fun e => e.1.lane == l))
  let s1 := match errs with | e :: _ => k.1.bufRecord s.w.id.gang e.1.group e.2 | [] => k.1
  .done (s1.launchEntry x false m act (wordsOf 1 act off) data (wordsOf (typeWords t) act val) [] bad
    ((errs.map (fun e => e.2)).headD 0) k.2)

/-- LDTB and LDC from the accesses of their lanes on: BUFRANGE, what an acquire orders before, for the own group the scoreboard, and
the load (R163, R192, R224). `m` are the lanes whose destinations are written. -/
def State.bufFetch (s : State) (x : Instr) (t : ElemType) (b : Buf) (m act : Word) (as : List BufAcc) (data : List VReg) (own : Bool) :
    Res :=
  match s.bufBad b (typeBytes t) as with
  | a :: r => .trap s (bufRange (a :: r))
  | [] =>
    match s.fencedIds false with
    | i :: is => .hold s (.remote (i :: is))
    | [] => if own && s.bufWait b (typeBytes t) false as then .hold s .busy else s.bufLoad x t b m act as data

/-- The accesses of LDTB and STTB. -/
def State.ownAccs (s : State) (m : MemOp) (act : Word) : List BufAcc :=
  (lanesOf act).map (fun l => ⟨l, s.w.id.group, s.bufOffset (memForm m) l⟩)

def ldtbBody (m : MemOp) (b : Buf) (s : State) : Res :=
  let act := s.memAct m.h.guard (memForm m) (fun _ => true)
  s.bufFetch (.ldtb m b) m.ty b (s.w.inLanes m.h.guard) act (s.ownAccs m act) [] true

def sttbBody (m : MemOp) (b : Buf) (s : State) : Res :=
  let data (l : Nat) : Val := s.rdOp m.ty (typeWords m.ty) m.d l
  let as := s.ownAccs m (s.memAct m.h.guard (memForm m) (fun l => (data l).valid))
  match s.bufBad b (typeBytes m.ty) as with
  | a :: t => .trap s (bufRange (a :: t))
  | [] =>
    match s.fencedIds true with
    | i :: is => .hold s (.remote (i :: is))
    | [] =>
      if s.bufWait b (typeBytes m.ty) true as then .hold s .busy
      else .done (s.bufWrite b (fun l => storeBytes m.ty (data l).bits.toNat) as)

/-- The address form of LDC and STC, which have no part b (R184). -/
def peerForm (m : MemOp) : AddrForm := ⟨false, m.a, .i 0, m.disp.toInt⟩

/-- The target group of a lane. -/
def State.peerGroup (s : State) (m : MemOp) (l : Nat) : Val := s.rdOp .n32 1 m.b l

def State.peerAccs (s : State) (m : MemOp) (act : Word) : List BufAcc :=
  (lanesOf act).map (fun l => ⟨l, (s.peerGroup m l).bits.toNat, s.bufOffset (peerForm m) l⟩)

def ldcBody (m : MemOp) (b : Buf) (s : State) : Res :=
  let act := s.memAct m.h.guard (peerForm m) (fun l => (s.peerGroup m l).valid)
  s.bufFetch (.ldc m b) m.ty b (s.w.inLanes m.h.guard) act (s.peerAccs m act) (wordsOf 1 act (s.peerGroup m)) false

def stcBody (m : MemOp) (b : Buf) (s : State) : Res :=
  let data (l : Nat) : Val := s.rdOp m.ty (typeWords m.ty) m.d l
  let as := s.peerAccs m (s.memAct m.h.guard (peerForm m) (fun l => (s.peerGroup m l).valid && (data l).valid))
  match s.bufBad b (typeBytes m.ty) as with
  | a :: t => .trap s (bufRange (a :: t))
  | [] =>
    match s.fencedIds true with
    | i :: is => .hold s (.remote (i :: is))
    | [] => .done (s.bufWrite b (fun l => storeBytes m.ty (data l).bits.toNat) as)

def execLdtb (m : MemOp) (b : Buf) (s : State) : Out := issue (.ldtb m b) s (ldtbBody m b)
def execSttb (m : MemOp) (b : Buf) (s : State) : Out := issue (.sttb m b) s (sttbBody m b)
def execLdc (m : MemOp) (b : Buf) (s : State) : Out := issue (.ldc m b) s (ldcBody m b)
def execStc (m : MemOp) (b : Buf) (s : State) : Out := issue (.stc m b) s (stcBody m b)

end Sys2Proof.Machine
end

