-- ==== Sys2Proof/Machine/IntLane.lean ====
section
/-! DEFINITION. Integer, bit and bit-field instructions (R110 to R114). -/

namespace Sys2Proof.Machine

/-- The width of a TYPE's operand in bits: 32 or 64 (R107). -/
def opWidth (t : ElemType) : Nat := 32 * typeWords t

/-- Whether a TYPE is a two's-complement type. -/
def isSigned (t : ElemType) : Bool :=
  match t with
  | .i8 | .i16 | .i32 | .i64 => true
  | _ => false

/-- An operand as an integer of its TYPE. -/
def opInt (t : ElemType) (x : Nat) : Int := if isSigned t then signedOf (opWidth t) x else x

/-- An exact integer as a result of TYPE, mod 2^W. -/
def wrapRes (t : ElemType) (x : Int) : LaneRes := LaneRes.ok (intWords (typeWords t) x)

/-! The integer functions on operand words. -/

def addF (t : ElemType) : LaneFn := consume (fun _ x y _ => wrapRes t (opInt t x + opInt t y))
def subF (t : ElemType) : LaneFn := consume (fun _ x y _ => wrapRes t (opInt t x - opInt t y))
def mulF (t : ElemType) : LaneFn := consume (fun _ x y _ => wrapRes t (opInt t x * opInt t y))
/-- Bits [2W−1:W] of the exact product. -/
def mulhiF (t : ElemType) : LaneFn :=
  consume (fun _ x y _ => wrapRes t (opInt t x * opInt t y / (2 ^ opWidth t : Nat)))
def madF (t : ElemType) : LaneFn := consume (fun _ x y d => wrapRes t (opInt t d + opInt t x * opInt t y))

/-- DIV (R111): truncated; 0, invalid by zero; the most negative number by −1 wraps to itself. -/
def divF (t : ElemType) : LaneFn :=
  consume (fun _ x y _ => if y = 0 then LaneRes.of 0 false else wrapRes t ((opInt t x).tdiv (opInt t y)))
/-- REM (R111): with the sign of x, or 0. -/
def remF (t : ElemType) : LaneFn :=
  consume (fun _ x y _ => if y = 0 then LaneRes.of 0 false else wrapRes t ((opInt t x).tmod (opInt t y)))

def minF (t : ElemType) : LaneFn := consume (fun _ x y _ => LaneRes.ok (if opInt t y < opInt t x then y else x))
def maxF (t : ElemType) : LaneFn := consume (fun _ x y _ => LaneRes.ok (if opInt t x < opInt t y then y else x))
def absF (t : ElemType) : LaneFn := consume (fun _ x _ _ => wrapRes t ((opInt t x).natAbs : Int))
def negF (t : ElemType) : LaneFn := consume (fun _ x _ _ => wrapRes t (-(opInt t x)))

/-- The range of an integer TYPE: smallest and largest value. -/
def intRange (t : ElemType) : Int × Int :=
  match intFmt t with
  | some (n, true) => (-(2 ^ (n - 1) : Nat), (2 ^ (n - 1) : Nat) - 1)
  | some (n, false) => (0, (2 ^ n : Nat) - 1)
  | none => (0, 0)

/-- A narrow element of an integer TYPE, from the low bits of its word (R71). -/
def elemInt (t : ElemType) (x : Nat) : Int :=
  match intFmt t with
  | some (n, true) => signedOf n x
  | some (n, false) => (x % 2 ^ n : Nat)
  | none => x

/-- ADDSAT: the exact sum or difference clamped to the TYPE's range. -/
def addsatF (t : ElemType) (sub : Bool) : LaneFn := consume (fun _ x y _ =>
  let z := if sub then elemInt t x - elemInt t y else elemInt t x + elemInt t y
  let r := intRange t
  LaneRes.ok (intWords 1 (if z < r.1 then r.1 else if r.2 < z then r.2 else z)))

def andF : LaneFn := consume (fun _ x y _ => LaneRes.ok (Nat.land x y))
def orF : LaneFn := consume (fun _ x y _ => LaneRes.ok (Nat.lor x y))
def xorF : LaneFn := consume (fun _ x y _ => LaneRes.ok (Nat.xor x y))
/-- The complement in W bits. -/
def notN (t : ElemType) (x : Nat) : Nat := 2 ^ opWidth t - 1 - x
def andnF (t : ElemType) : LaneFn := consume (fun _ x y _ => LaneRes.ok (Nat.land x (notN t y)))
def notF (t : ElemType) : LaneFn := consume (fun _ x _ _ => LaneRes.ok (notN t x))

/-- SHL: 0 from a count of W up. -/
def shlF (t : ElemType) : LaneFn :=
  consume (fun _ x c _ => LaneRes.ok (if opWidth t ≤ c then 0 else x * 2 ^ c % 2 ^ opWidth t))
/-- SHR: zeros enter. -/
def shrF (t : ElemType) : LaneFn := consume (fun _ x c _ => LaneRes.ok (if opWidth t ≤ c then 0 else x / 2 ^ c))
/-- SAR: bit W−1 enters. -/
def sarF (t : ElemType) : LaneFn := consume (fun _ x c _ =>
  let c := if opWidth t ≤ c then opWidth t else c
  LaneRes.ok (intWords (typeWords t) (signedOf (opWidth t) x / (2 ^ c : Nat))))

/-- x rotated left by c. -/
def rotl (W x c : Nat) : Nat := (x * 2 ^ (c % W) + x / 2 ^ (W - c % W)) % 2 ^ W

def rotF (t : ElemType) (right : Bool) : LaneFn := consume (fun _ x c _ =>
  let W := opWidth t
  LaneRes.ok (rotl W x (if right then W - c % W else c)))

/-- The field descriptor of BFE and BFI: position and length (R113). -/
def fieldOf (t : ElemType) (b : Nat) : Nat × Nat := (bits b 7 0, Nat.min (bits b 15 8) (opWidth t))

/-- BFE (R113). -/
def bfeF (t : ElemType) (sign : Bool) : LaneFn := consume (fun _ x b _ =>
  let (pos, len) := fieldOf t b
  let f := x / 2 ^ pos % 2 ^ len
  if len = 0 then LaneRes.ok 0
  else LaneRes.ok (if sign then intWords (typeWords t) (signedOf len f) else f))

/-- BFI (R113): bits pos … of D are replaced by the low bits of x. -/
def bfiF (t : ElemType) : LaneFn := consume (fun _ x b d =>
  let (pos, len) := fieldOf t b
  let W := opWidth t
  let n := Nat.min len (W - pos)
  let low := d % 2 ^ pos
  let high := d / 2 ^ (pos + n)
  if W ≤ pos || n = 0 then LaneRes.ok d
  else LaneRes.ok (low + (x % 2 ^ n) * 2 ^ pos + high * 2 ^ (pos + n)))

/-- The number of set bits among the low `n`. -/
def popN (x : Nat) : Nat → Nat
  | 0 => 0
  | n + 1 => popN x n + b2n (bit x n)

/-- Leading zeros in `n` bits. -/
def clzN (x : Nat) : Nat → Nat
  | 0 => 0
  | n + 1 => if bit x n then 0 else 1 + clzN x n

/-- Trailing zeros in `n` bits, from position `k`. -/
def ctzN (x k : Nat) : Nat → Nat
  | 0 => 0
  | n + 1 => if bit x k then 0 else 1 + ctzN x (k + 1) n

/-- The low `n` bits in reverse. -/
def brevN (x : Nat) : Nat → Nat
  | 0 => 0
  | n + 1 => 2 * brevN x n + b2n (bit x n)

def popcF (t : ElemType) : LaneFn := consume (fun _ x _ _ => LaneRes.ok (popN x (opWidth t)))
def clzF (t : ElemType) : LaneFn := consume (fun _ x _ _ => LaneRes.ok (clzN x (opWidth t)))
def ctzF (t : ElemType) : LaneFn := consume (fun _ x _ _ => LaneRes.ok (ctzN x 0 (opWidth t)))
def brevF (t : ElemType) : LaneFn := consume (fun _ x _ _ => LaneRes.ok (brevN x (opWidth t)))
/-- PFXPOP: the set bits below position s. -/
def pfxpopF (t : ElemType) : LaneFn := consume (fun _ x c _ => LaneRes.ok (popN x (Nat.min c (opWidth t))))
/-- ISECT: an empty intersection is 0, invalid (R89). -/
def isectF : LaneFn := consume (fun _ x y _ => LaneRes.of (Nat.land x y) (Nat.land x y != 0))
/-- BCLR with a bit position. -/
def bclrF (t : ElemType) : LaneFn := consume (fun _ x c _ =>
  LaneRes.ok (if c < opWidth t && bit x c then x - 2 ^ c else x))
/-- BCLR of the lowest set bit. -/
def bclrLowF : LaneFn := consume (fun _ x _ _ => LaneRes.ok (if x = 0 then 0 else Nat.land x (x - 1)))

/-- Byte `k` of a word as a signed or unsigned element. -/
def byteInt (signed : Bool) (x k : Nat) : Int :=
  if signed then signedOf 8 (bits x (8 * k + 7) (8 * k)) else (bits x (8 * k + 7) (8 * k) : Nat)

/-- DOT4 (R114). -/
def dot4F (t : ElemType) (mix : Bool) : LaneFn := consume (fun _ x y d =>
  let sa := isSigned t
  let sb := sa != mix
  let term (k : Nat) : Int := byteInt sa x k * byteInt sb y k
  LaneRes.ok (intWords 1 (d + term 0 + term 1 + term 2 + term 3)))

/-! The meanings. -/

def execAdd (o : LaneOp) (s : State) : Out := issue (.add o) s (typedBody (Ports.dab o.ty) o (addF o.ty))
def execSub (o : LaneOp) (s : State) : Out := issue (.sub o) s (typedBody (Ports.dab o.ty) o (subF o.ty))
def execMul (o : LaneOp) (s : State) : Out := issue (.mul o) s (typedBody (Ports.dab o.ty) o (mulF o.ty))
def execMulhi (o : LaneOp) (s : State) : Out := issue (.mulhi o) s (typedBody (Ports.dab o.ty) o (mulhiF o.ty))
def execMad (o : LaneOp) (s : State) : Out := issue (.mad o) s (typedBody (Ports.acc o.ty) o (madF o.ty))
def execDiv (o : LaneOp) (s : State) : Out := issue (.div o) s (longBody (.div o) (Ports.dab o.ty) o (divF o.ty))
def execRem (o : LaneOp) (s : State) : Out := issue (.rem o) s (longBody (.rem o) (Ports.dab o.ty) o (remF o.ty))
def execMin (o : LaneOp) (s : State) : Out := issue (.min o) s (typedBody (Ports.dab o.ty) o (minF o.ty))
def execMax (o : LaneOp) (s : State) : Out := issue (.max o) s (typedBody (Ports.dab o.ty) o (maxF o.ty))
def execAbs (o : LaneOp) (s : State) : Out := issue (.abs o) s (typedBody (Ports.da o.ty) o (absF o.ty))
def execNeg (o : LaneOp) (s : State) : Out := issue (.neg o) s (typedBody (Ports.da o.ty) o (negF o.ty))
def execAddsat (o : LaneOp) (sub : Bool) (s : State) : Out :=
  issue (.addsat o sub) s (typedBody (Ports.dab o.ty) o (addsatF o.ty sub))
def execAnd (o : LaneOp) (s : State) : Out := issue (.and o) s (typedBody (Ports.dab o.ty) o andF)
def execOr (o : LaneOp) (s : State) : Out := issue (.or o) s (typedBody (Ports.dab o.ty) o orF)
def execXor (o : LaneOp) (s : State) : Out := issue (.xor o) s (typedBody (Ports.dab o.ty) o xorF)
def execAndn (o : LaneOp) (s : State) : Out := issue (.andn o) s (typedBody (Ports.dab o.ty) o (andnF o.ty))
def execNot (o : LaneOp) (s : State) : Out := issue (.not o) s (typedBody (Ports.da o.ty) o (notF o.ty))
def execShl (o : LaneOp) (s : State) : Out := issue (.shl o) s (typedBody (Ports.count o.ty) o (shlF o.ty))
def execShr (o : LaneOp) (s : State) : Out := issue (.shr o) s (typedBody (Ports.count o.ty) o (shrF o.ty))
def execSar (o : LaneOp) (s : State) : Out := issue (.sar o) s (typedBody (Ports.count o.ty) o (sarF o.ty))
def execRot (o : LaneOp) (right : Bool) (s : State) : Out :=
  issue (.rot o right) s (typedBody (Ports.count o.ty) o (rotF o.ty right))
def execBfe (o : LaneOp) (sign : Bool) (s : State) : Out :=
  issue (.bfe o sign) s (typedBody (Ports.count o.ty) o (bfeF o.ty sign))
def execBfi (o : LaneOp) (s : State) : Out :=
  issue (.bfi o) s (typedBody { Ports.count o.ty with kd := typeWords o.ty } o (bfiF o.ty))
def execPopc (o : LaneOp) (s : State) : Out := issue (.popc o) s (typedBody (Ports.da o.ty).one o (popcF o.ty))
def execClz (o : LaneOp) (s : State) : Out := issue (.clz o) s (typedBody (Ports.da o.ty).one o (clzF o.ty))
def execCtz (o : LaneOp) (s : State) : Out := issue (.ctz o) s (typedBody (Ports.da o.ty).one o (ctzF o.ty))
def execBrev (o : LaneOp) (s : State) : Out := issue (.brev o) s (typedBody (Ports.da o.ty) o (brevF o.ty))
def execPfxpop (o : LaneOp) (s : State) : Out := issue (.pfxpop o) s (typedBody (Ports.count o.ty).one o (pfxpopF o.ty))
def execIsect (o : LaneOp) (s : State) : Out := issue (.isect o) s (typedBody (Ports.dab o.ty) o isectF)
def execBclr (o : LaneOp) (low : Bool) (s : State) : Out :=
  issue (.bclr o low) s
    (if low then typedBody (Ports.da o.ty) o bclrLowF else typedBody (Ports.count o.ty) o (bclrF o.ty))
def execDot4 (o : LaneOp) (mix : Bool) (s : State) : Out :=
  issue (.dot4 o mix) s (typedBody ⟨.b32, 1, .b32, 1, 1, 1⟩ o (dot4F o.ty mix))

end Sys2Proof.Machine
end

