-- ==== Sys2Proof/Machine/Compare.lean ====
section
/-! DEFINITION. Compare, validity and move instructions (R115 to R117). -/

namespace Sys2Proof.Machine

/-- A relation of integers (R115). -/
def relInt (r : Rel) (x y : Int) : Bool :=
  match r with
  | .eq => decide (x = y)
  | .ne => decide (x ≠ y)
  | .lt => decide (x < y)
  | .le => decide (x ≤ y)
  | .gt => decide (y < x)
  | .ge => decide (y ≤ x)
  | .un | .ord => false

/-- A relation of floating-point values: with a NaN only ne and un hold; −0 = +0 (R115). -/
def relFloat (r : Rel) (x y : XVal) : Bool :=
  let nan := x.isNan || y.isNan
  match r with
  | .eq => XVal.same x y
  | .ne => !XVal.same x y
  | .lt => XVal.lt x y
  | .le => !nan && !XVal.lt y x
  | .gt => XVal.lt y x
  | .ge => !nan && !XVal.lt x y
  | .un => nan
  | .ord => !nan

/-- A condition word: 1, valid, or 0, invalid (R89). -/
def condRes (b : Bool) : LaneRes := LaneRes.of (b2n b) b

def cmpF (t : ElemType) (r : Rel) : LaneFn := consume (fun _ x y _ => condRes (relInt r (opInt t x) (opInt t y)))
def fcmpF (t : ElemType) (r : Rel) : LaneFn :=
  consume (fun _ x y _ => condRes (relFloat r (decodeElem t x) (decodeElem t y)))

/-- SETV, INV and ISV read validity and consume nothing; MKV consumes both, MOV its source (R116). -/
def setvF : LaneFn := fun _ a _ _ => ⟨⟨a.bits, true⟩, none, false⟩
def mkvF : LaneFn := consume (fun _ x y _ => LaneRes.of x (y != 0))
def invF : LaneFn := fun _ a _ _ => ⟨⟨a.bits, !a.valid⟩, none, false⟩
def isvF : LaneFn := fun _ a _ _ => LaneRes.ok (b2n a.valid)
def movF : LaneFn := consume (fun _ x _ _ => LaneRes.ok x)

def execCmp (o : LaneOp) (r : Rel) (s : State) : Out :=
  issue (.cmp o r) s (typedBody (Ports.dab o.ty).one o (cmpF o.ty r))
def execFcmp (o : LaneOp) (r : Rel) (s : State) : Out :=
  issue (.fcmp o r) s (typedBody (Ports.dab o.ty).one o (fcmpF o.ty r))

/-- SEL in a lane: the word or pair that the validity of C picks, with its validity (R116). -/
def State.selRes (s : State) (o : LaneOp) (c : Operand) (l : Nat) : LaneRes :=
  let x := s.operands (Ports.dab o.ty) o l
  ⟨if (s.rdOp .b32 1 c l).valid then x.1 else x.2.1, none, false⟩

def execSel (o : LaneOp) (c : Operand) (s : State) : Out :=
  issue (.sel o c) s (fun s => .done (s.writeForm o.h.guard o.d (typeWords o.ty) (s.selRes o c)))
def execSetv (o : LaneOp) (s : State) : Out := issue (.setv o) s (typedBody (Ports.da o.ty) o setvF)
def execMkv (o : LaneOp) (s : State) : Out := issue (.mkv o) s (typedBody (Ports.dab o.ty) o mkvF)
def execInv (o : LaneOp) (s : State) : Out := issue (.inv o) s (typedBody (Ports.da o.ty) o invF)
def execIsv (o : LaneOp) (s : State) : Out := issue (.isv o) s (typedBody (Ports.da o.ty) o isvF)
def execMov (o : LaneOp) (s : State) : Out := issue (.mov o) s (typedBody (Ports.da o.ty) o movF)

/-- MOVI (R117): the immediate, sign-extended. -/
def moviRes (t : ElemType) (imm : BitVec 28) : LaneRes := LaneRes.ok (intWords (typeWords t) imm.toInt)

/-- MOVH (R117): the upper half is replaced, the lower kept; D is consumed. -/
def movhRes (imm : BitVec 28) (d : Val) : LaneRes :=
  if d.valid then LaneRes.ok (bits imm.toNat 15 0 * 65536 + bits d.bits.toNat 15 0) else LaneRes.null

def execMovi (h : Hdr) (d : Operand) (ty : ElemType) (imm : BitVec 28) (s : State) : Out :=
  issue (.movi h d ty imm) s (fun s => .done (s.writeForm h.guard d (typeWords ty) (fun _ => moviRes ty imm)))
def execMovh (h : Hdr) (d : Operand) (imm : BitVec 28) (s : State) : Out :=
  issue (.movh h d imm) s (fun s => .done (s.writeForm h.guard d 1 (fun l => movhRes imm (s.rdOp .b32 1 d l))))

end Sys2Proof.Machine
end

