-- ==== Sys2Proof/Machine/Control.lean ====
section
/-! DEFINITION. Control flow, divergence, the group barrier and yield (R134 to R147). -/

namespace Sys2Proof.Machine

/-- The target of a branch (R61): PC + 12 × OFF28, mod 2^32. -/
def branchTarget (pc : Word) (off : BitVec 28) : Word := pc + 12 * off.signExtend 32

/-- Takes a branch or falls through (R136). -/
def branchIf (s : State) (taken : Bool) (off : BitVec 28) : Res :=
  if taken then .jump s (branchTarget s.w.pcNow off) else .done s

/-- The condition of BRA: an invalid one falls through (R137). -/
def condTaken (nz : Bool) (c : Val) : Bool := c.valid && ((c.bits != 0) == nz)

def braCondBody (c : Operand) (off : BitVec 28) (nz : Bool) (s : State) : Res := branchIf s (condTaken nz (s.rdW c)) off

/-- The EXEC lanes whose word of a vector register has a given validity (R138, R142). -/
def State.validLanes (s : State) (a : BitVec 8) (v : Bool) : Word :=
  laneMask (fun l => s.w.execM.getLsbD l && (VReg.lane (s.w.rdV a.toNat) l).valid == v)

/-- BRV (R138). -/
def brvTaken (w : BrvWhen) (v exec : Word) : Bool :=
  match w with
  | .any => v != 0
  | .all => v == exec
  | .none => v == 0

def brvBody (a : BitVec 8) (off : BitVec 28) (w : BrvWhen) (s : State) : Res :=
  branchIf s (brvTaken w (s.validLanes a true) s.w.execM) off

/-- Lanes of EXEC whose decision differs from that of the lowest EXEC lane (R140). -/
def differing {α : Type} [DecidableEq α] (exec : Word) (f : Nat → α) : Word :=
  match lanesOf exec with
  | [] => 0
  | l0 :: _ => laneMask (fun l => exec.getLsbD l && decide (f l ≠ f l0))

/-- BRU (R139, R140): `f` is a lane's decision, `go` what the wave does with it. -/
def bruBody {α : Type} [DecidableEq α] (s : State) (f : Nat → α) (go : α → Res) : Res :=
  match lanesOf s.w.execM with
  | [] => .done s
  | l0 :: _ =>
    let d := differing s.w.execM f
    if !s.w.place.bruFree && d != 0 then .trap s { cause := .uniformity, lanes := d } else go (f l0)

def bruOffBody (a : BitVec 8) (off : BitVec 28) (inv : Bool) (s : State) : Res :=
  bruBody s (fun l => (VReg.lane (s.w.rdV a.toNat) l).valid != inv) (fun t => branchIf s t off)

def bruRegBody (a : BitVec 8) (s : State) : Res :=
  bruBody s (fun l => VReg.lane (s.w.rdV a.toNat) l) (fun r => if r.valid then .jump s r.data else .done s)

/-- CALL: the link, then the jump (R136). -/
def callBody (d : BitVec 8) (off : BitVec 28) (s : State) : Res :=
  let pc := s.w.pcNow
  .jump (s.setW (s.w.wrS d.toNat ⟨pc + 12, true⟩)) (branchTarget pc off)

def retBody (a : BitVec 8) (s : State) : Res :=
  let x := s.w.rdS a.toNat
  if x.valid then .jump s x.data else .done s

def jmpiBody (a : BitVec 8) (b : Operand) (s : State) : Res :=
  let x := s.w.rdS a.toNat
  let y := s.rdOp .i32 1 b 0
  if x.valid && y.valid then .jump s (x.data + 12 * (valWord y 0).data) else .done s

/-- VMASK (R142). -/
def vmaskBody (d : Operand) (a : BitVec 8) (inv : Bool) (s : State) : Res :=
  .done (s.setW (s.w.wrScalar d 1 ⟨(s.validLanes a (!inv)).setWidth 64, true⟩))

/-! The group barrier (R145). -/

/-- The waves of a group. -/
def State.groupWaves (s : State) (g j : Nat) : List Wave :=
  s.streams.filter (fun x => !x.belay && x.id.gang == g && x.id.group == j)

/-- Whether every non-halted wave of the group has joined the generation, one at least. -/
def State.barFull (s : State) (g j : Nat) (joined : List Nat) : Bool :=
  !joined.isEmpty && (s.groupWaves g j).all (fun x => x.halted || joined.contains x.id.wave)

/-- Begins a new generation where the current one is complete. -/
def State.barCheck (s : State) (g j : Nat) : State :=
  match s.grp? g j with
  | some x => if s.barFull g j x.joined then s.onGrp g j (fun x => { x with gen := x.gen + 1, joined := [] }) else s
  | none => s

/-- BAR (R145, R146): a release, the arrival, the wait and an acquire. What the release does not wait for, a remote access below
system scope, is ordered before every later access (R203, R424). -/
def barBody (sc : Scope) (s : State) : Res :=
  let g := s.w.id.gang
  let j := s.w.id.group
  let genOf (s : State) : Nat := match s.grp? g j with | some x => x.gen | none => 0
  match s.w.wait with
  | .bar n => if genOf s = n then .hold s (.bar n) else .done (s.acquire sc)
  | _ =>
    let s := s.sendWaveLines
    match s.releaseIds sc, s.remoteErr true sc with
    | i :: is, _ => .hold s (.remote (i :: is))
    | [], some r => r
    | [], none =>
      let n := genOf s
      let me := s.w.id.wave
      let s := ((s.fenceOff (fun _ => true) true).onGrp g j (fun x => { x with joined := if x.joined.contains me then x.joined else x.joined ++ [me] })).barCheck g j
      if genOf s = n then .hold s (.bar n) else .done (s.acquire sc)

/-- YIELD (R147): the wait names the cycle in which it was recorded. -/
def yieldBody (s : State) : Res :=
  if !s.yreqOf s.w then .done s
  else
    match s.w.wait with
    | .yield n => .hold s (.yield n)
    | _ => .hold s (.yield (s.part s.w.place.part).scyc)

def execNop (h : Hdr) (s : State) : Out := issue (.nop h) s (fun s => .done s)
def execBra (h : Hdr) (off : BitVec 28) (s : State) : Out :=
  issue (.bra h off) s (fun s => .jump s (branchTarget s.w.pcNow off))
def execBraCond (h : Hdr) (c : Operand) (off : BitVec 28) (nz : Bool) (s : State) : Out :=
  issue (.braCond h c off nz) s (braCondBody c off nz)
def execBrv (h : Hdr) (a : BitVec 8) (off : BitVec 28) (w : BrvWhen) (s : State) : Out :=
  issue (.brv h a off w) s (brvBody a off w)
def execBru (h : Hdr) (a : BitVec 8) (off : BitVec 28) (inv : Bool) (s : State) : Out :=
  issue (.bru h a off inv) s (bruOffBody a off inv)
def execBruReg (h : Hdr) (a : BitVec 8) (s : State) : Out := issue (.bruReg h a) s (bruRegBody a)
def execCall (h : Hdr) (d : BitVec 8) (off : BitVec 28) (s : State) : Out := issue (.call h d off) s (callBody d off)
def execRet (h : Hdr) (a : BitVec 8) (s : State) : Out := issue (.ret h a) s (retBody a)
def execJmpi (h : Hdr) (a : BitVec 8) (b : Operand) (s : State) : Out := issue (.jmpi h a b) s (jmpiBody a b)
def execVmask (h : Hdr) (d : Operand) (a : BitVec 8) (inv : Bool) (s : State) : Out :=
  issue (.vmask h d a inv) s (vmaskBody d a inv)
def execBar (h : Hdr) (sc : Scope) (s : State) : Out := issue (.bar h sc) s (barBody sc)
def execYield (h : Hdr) (s : State) : Out := issue (.yield h) s yieldBody

/-- The barrier re-evaluates in the cycle after a waiting wave has halted (R145). -/
def execBarReevaluate (gang group : Nat) (s : State) : Out := .next (s.barCheck gang group)

end Sys2Proof.Machine
end

