-- ==== Sys2Proof/Machine/FloatLane.lean ====
section
/-! DEFINITION. Floating-point instructions (R118 to R122). -/

namespace Sys2Proof.Machine

/-- A rounded result; under rst the lane's SEED advances once (R78). -/
def rndRes (rnd : Rnd) (sd : Word) (x : Nat) : LaneRes :=
  ⟨⟨BitVec.ofNat 64 x, true⟩, if rnd = .rst then some (advanceSeed sd) else none, false⟩

/-- A binary operation on exact values, rounded once (R77, R118). -/
def float2 (t : ElemType) (rnd : Rnd) (f : XVal → XVal → XVal) : LaneFn :=
  consume (fun sd x y _ => rndRes rnd sd (roundArith t rnd sd (f (decodeElem t x) (decodeElem t y))))

/-- A unary operation on an exact value, rounded once. -/
def float1 (t : ElemType) (rnd : Rnd) (f : XVal → XVal) : LaneFn :=
  consume (fun sd x _ _ => rndRes rnd sd (roundArith t rnd sd (f (decodeElem t x))))

/-- The sum of two values, with the sign of an exact zero sum under RND. -/
def sum2 (rnd : Rnd) (x y : XVal) : XVal := XVal.sum (rnd == .rdn) [x, y]

def faddF (t : ElemType) (rnd : Rnd) : LaneFn := float2 t rnd (sum2 rnd)
def fsubF (t : ElemType) (rnd : Rnd) : LaneFn := float2 t rnd (fun x y => sum2 rnd x y.negate)
def fmulF (t : ElemType) (rnd : Rnd) : LaneFn := float2 t rnd XVal.mul
/-- FFMA: D + x · y with one rounding. -/
def ffmaF (t : ElemType) (rnd : Rnd) : LaneFn := consume (fun sd x y d =>
  rndRes rnd sd (roundArith t rnd sd (sum2 rnd (decodeElem t d) (XVal.mul (decodeElem t x) (decodeElem t y)))))
def fminF (t : ElemType) : LaneFn := consume (fun _ x y _ => LaneRes.ok (minMaxF t false x y))
def fmaxF (t : ElemType) : LaneFn := consume (fun _ x y _ => LaneRes.ok (minMaxF t true x y))
def fabsF (t : ElemType) : LaneFn := float1 t .rne XVal.abs
def fnegF (t : ElemType) : LaneFn := float1 t .rne XVal.negate
def fdivF (t : ElemType) (rnd : Rnd) : LaneFn := float2 t rnd XVal.div
def fclassF (t : ElemType) : LaneFn := consume (fun _ x _ _ => LaneRes.ok (fclassMask t x))
/-- FRND: integral in its own format under RND. -/
def frndF (t : ElemType) (rnd : Rnd) : LaneFn := consume (fun sd x _ _ =>
  rndRes rnd sd (roundArith t .rne sd (frndVal rnd sd (decodeElem t x))))

/-- FDP4 (R122): an f32 accumulator and four products of narrow elements, one rounding. -/
def fdp4F (t : ElemType) (rnd : Rnd) : LaneFn := consume (fun sd x y d =>
  let el (w k : Nat) : XVal := decodeElem t (bits w (8 * k + 7) (8 * k))
  let products := [0, 1, 2, 3].map (fun k => XVal.mul (el x k) (el y k))
  rndRes rnd sd (roundArith .f32 rnd sd (XVal.sum (rnd == .rdn) (decodeElem .f32 d :: products))))

def execFadd (o : LaneOp) (s : State) : Out := issue (.fadd o) s (typedBody (Ports.dab o.ty) o (faddF o.ty o.rnd))
def execFsub (o : LaneOp) (s : State) : Out := issue (.fsub o) s (typedBody (Ports.dab o.ty) o (fsubF o.ty o.rnd))
def execFmul (o : LaneOp) (s : State) : Out := issue (.fmul o) s (typedBody (Ports.dab o.ty) o (fmulF o.ty o.rnd))
def execFfma (o : LaneOp) (s : State) : Out := issue (.ffma o) s (typedBody (Ports.acc o.ty) o (ffmaF o.ty o.rnd))
def execFmin (o : LaneOp) (s : State) : Out := issue (.fmin o) s (typedBody (Ports.dab o.ty) o (fminF o.ty))
def execFmax (o : LaneOp) (s : State) : Out := issue (.fmax o) s (typedBody (Ports.dab o.ty) o (fmaxF o.ty))
def execFabs (o : LaneOp) (s : State) : Out := issue (.fabs o) s (typedBody (Ports.da o.ty) o (fabsF o.ty))
def execFneg (o : LaneOp) (s : State) : Out := issue (.fneg o) s (typedBody (Ports.da o.ty) o (fnegF o.ty))
def execFdiv (o : LaneOp) (s : State) : Out :=
  issue (.fdiv o) s (longBody (.fdiv o) (Ports.dab o.ty) o (fdivF o.ty o.rnd))
def execFsqrt (o : LaneOp) (s : State) : Out :=
  issue (.fsqrt o) s (longBody (.fsqrt o) (Ports.da o.ty) o (float1 o.ty o.rnd fsqrtVal))
def execFrcp (o : LaneOp) (s : State) : Out :=
  issue (.frcp o) s (longBody (.frcp o) (Ports.da o.ty) o (float1 o.ty o.rnd frcpVal))
def execFrsq (o : LaneOp) (s : State) : Out :=
  issue (.frsq o) s (longBody (.frsq o) (Ports.da o.ty) o (float1 o.ty o.rnd frsqVal))
def execFexp2 (o : LaneOp) (s : State) : Out :=
  issue (.fexp2 o) s (longBody (.fexp2 o) (Ports.da o.ty) o (float1 o.ty o.rnd fexp2Val))
def execFlog2 (o : LaneOp) (s : State) : Out :=
  issue (.flog2 o) s (longBody (.flog2 o) (Ports.da o.ty) o (float1 o.ty o.rnd flog2Val))
def execFsin (o : LaneOp) (s : State) : Out :=
  issue (.fsin o) s (longBody (.fsin o) (Ports.da o.ty) o (float1 o.ty o.rnd fsinVal))
def execFcos (o : LaneOp) (s : State) : Out :=
  issue (.fcos o) s (longBody (.fcos o) (Ports.da o.ty) o (float1 o.ty o.rnd fcosVal))
def execFtanh (o : LaneOp) (s : State) : Out :=
  issue (.ftanh o) s (longBody (.ftanh o) (Ports.da o.ty) o (float1 o.ty o.rnd ftanhVal))
def execFclass (o : LaneOp) (s : State) : Out :=
  issue (.fclass o) s (typedBody (Ports.da o.ty).one o (fclassF o.ty))
def execFdp4 (o : LaneOp) (s : State) : Out :=
  issue (.fdp4 o) s (typedBody ⟨.b32, 1, .b32, 1, 1, 1⟩ o (fdp4F o.ty o.rnd))
def execFrnd (o : LaneOp) (s : State) : Out := issue (.frnd o) s (typedBody (Ports.da o.ty) o (frndF o.ty o.rnd))

end Sys2Proof.Machine
end

