-- ==== Sys2Proof/Machine/Convert.lean ====
section
/-! DEFINITION. Conversion instructions (R123 to R128). -/

namespace Sys2Proof.Machine

/-- A converted word with its cause (R79, R80). -/
def cvtRes (rnd : Rnd) (sd : Word) (x cause : Nat) : LaneRes := { rndRes rnd sd x with cause := cause != 0 }

/-- CVT (R124). -/
def cvtF (t fr : ElemType) (rnd : Rnd) : LaneFn := consume (fun sd x _ _ =>
  let r := cvtElem t fr rnd sd x
  cvtRes rnd sd (widen t r.1) r.2)

/-- D with elements 2k and 2k+1 of width w replaced (R125). -/
def packWord (w k d a b : Nat) : Nat :=
  let pos := 2 * k * w
  let top := pos + 2 * w
  d % 2 ^ pos + a % 2 ^ w * 2 ^ pos + b % 2 ^ w * 2 ^ (pos + w) + d / 2 ^ top * 2 ^ top

/-- PACK (R125): two conversions, A's before B's; under rst SEED advances after each. -/
def packF (t fr : ElemType) (rnd : Rnd) (k : Nat) : LaneFn := consume (fun sd x y d =>
  let a := convert t rnd sd (decodeElem fr x)
  let sd2 := advanceSeed sd
  let b := convert t rnd sd2 (decodeElem fr y)
  let r := cvtRes rnd sd2 (packWord (packWidth t) k d a.1 b.1) (a.2 + b.2)
  if rnd = .rst then r else { r with seed := none })

/-- UNPACK (R126): element IDX, converted. -/
def unpackF (t fr : ElemType) (rnd : Rnd) (idx : Nat) : LaneFn := consume (fun sd x _ _ =>
  let w := packWidth fr
  let r := convert t rnd sd (decodeElem fr (bits x (w * idx + w - 1) (w * idx)))
  cvtRes rnd sd (widen t r.1) r.2)

/-- BLKUP (R128): A · 2^(X−127), rounded once; X = 0xFF gives NaN without a cause. -/
def blkupF (t fr : ElemType) (rnd : Rnd) : LaneFn := consume (fun sd x y _ =>
  let X := y % 256
  if X = 255 then cvtRes rnd sd (nanCode t) 0
  else
    let r := convert t rnd sd (XVal.mul (decodeElem fr x) (XVal.dyadic false 1 ((X : Int) - 127)))
    cvtRes rnd sd r.1 r.2)

/-- Lanes per block of BLKPK (R106). -/
def blockLen (len : BitVec 2) : Nat := 8 * 2 ^ len.toNat

/-- The scale of a lane's block, from the A values of the block's acting lanes (R83, R127). -/
def State.laneScale (s : State) (o : LaneOp) (act : Word) (L l : Nat) : Nat × Bool :=
  let ls := (lanesOf act).filter (fun j => j / L == l / L)
  blockScale o.ty (ls.map (fun j => decodeElem .f32 (s.rdOp .f32 1 o.a j).bits.toNat))

/-- BLKPK (R127): D gets the element codes, S the scale of each acting lane's block. -/
def State.blkpk (s : State) (o : LaneOp) (len : BitVec 2) (scale : Operand) : State :=
  let m := s.w.inLanes o.h.guard
  let act := laneMask (fun l => m.getLsbD l && (s.rdOp .f32 1 o.a l).valid)
  let L := blockLen len
  let one (l : Nat) : LaneRes :=
    if act.getLsbD l then
      let X := s.laneScale o act L l
      let sd := s.w.seedOf l
      let r := blockElem o.ty o.rnd sd X.1 X.2 (decodeElem .f32 (s.rdOp .f32 1 o.a l).bits.toNat)
      cvtRes o.rnd sd (widen o.ty r.1) r.2
    else LaneRes.null
  let sc (l : Nat) : LaneRes := if act.getLsbD l then LaneRes.ok (s.laneScale o act L l).1 else LaneRes.null
  s.setW ((s.w.writeLanes o.d 1 m (laneResults m one)).wrLanes scale 1 m (laneResults m sc))

def execCvt (o : LaneOp) (fr : ElemType) (s : State) : Out :=
  issue (.cvt o fr) s (typedBody ⟨fr, typeWords fr, fr, 0, 0, typeWords o.ty⟩ o (cvtF o.ty fr o.rnd))
def execPack (o : LaneOp) (fr : ElemType) (slot : BitVec 3) (s : State) : Out :=
  issue (.pack o fr slot) s
    (typedBody ⟨fr, 1, fr, 1, if packWidth o.ty < 16 then 1 else 0, 1⟩ o (packF o.ty fr o.rnd slot.toNat))
def execUnpack (o : LaneOp) (fr : ElemType) (idx : BitVec 3) (s : State) : Out :=
  issue (.unpack o fr idx) s (typedBody ⟨fr, 1, fr, 0, 0, 1⟩ o (unpackF o.ty fr o.rnd idx.toNat))
def execBlkpk (o : LaneOp) (fr : ElemType) (len : BitVec 2) (scale : Operand) (s : State) : Out :=
  issue (.blkpk o fr len scale) s (fun s => .done (s.blkpk o len scale))
def execBlkup (o : LaneOp) (fr : ElemType) (s : State) : Out :=
  issue (.blkup o fr) s (typedBody ⟨fr, 1, .n32, 1, 0, 1⟩ o (blkupF o.ty fr o.rnd))

end Sys2Proof.Machine
end

