-- ==== Sys2Proof/Machine/Copy.lean ====
section
/-! DEFINITION. Guard slots (R292 to R294), the copy engine (R295 to R302) and DRAIN (R211). -/

namespace Sys2Proof.Machine

/-! Guard slots. -/

/-- Changes the queued commands of the executing wave's group that are bound to a slot. -/
def State.bound (s : State) (n : Nat) (go : Bool → Bool) : State :=
  s.onGrp s.w.id.gang s.w.id.group (fun g => { g with copyq := g.copyq.map (fun c =>
    if c.bound && c.op.gsl.toNat == n then { c with bound := false, go := some (go c.op.gpol) } else c) })

/-- A slot of the core as the executing wave's group sees it (R294). -/
inductive SlotView where
  | free
  | own (st : GState)
  | foreign
deriving DecidableEq, Repr

def State.slotView (s : State) (n : Nat) : SlotView :=
  match Tab.find (s.core s.w.core).guards n with
  | none => .free
  | some x => if x.gang == s.w.id.gang && x.group == s.w.id.group then .own x.st else .foreign

/-- Sets a slot of the core for the executing wave's group. -/
def State.setSlot (s : State) (n : Nat) (st : GState) : State :=
  s.setCore s.w.core { (s.core s.w.core) with guards := Tab.set (s.core s.w.core).guards n ⟨s.w.id.gang, s.w.id.group, st⟩ }

def State.freeSlot (s : State) (n : Nat) : State :=
  s.setCore s.w.core { (s.core s.w.core) with guards := Tab.erase (s.core s.w.core).guards n }

/-- GUARDSTATE (R294). -/
def guardTrap (n : BitVec 4) : TrapInfo := { cause := .guardstate, addr := n.setWidth 64 }

def gsetBody (n : BitVec 4) (c : Operand) (s : State) : Res :=
  let x := s.rdW c
  if !x.valid then .done s
  else
    match s.slotView n.toNat with
    | .own .unresolved =>
      let v := (valWord x 0).data != 0
      .done ((s.bound n.toNat (fun pol => v != pol)).setSlot n.toNat (if v then .yes else .no))
    | _ => .trap s (guardTrap n)

def gclrBody (n : BitVec 4) (s : State) : Res :=
  match s.slotView n.toNat with
  | .foreign => .trap s (guardTrap n)
  | .free => .done (s.setSlot n.toNat .unresolved)
  | .own _ => .done ((s.bound n.toNat (fun _ => false)).setSlot n.toNat .unresolved)

def gclrFreeBody (n : BitVec 4) (s : State) : Res :=
  match s.slotView n.toNat with
  | .foreign | .free => .trap s (guardTrap n)
  | .own _ => .done ((s.bound n.toNat (fun _ => false)).freeSlot n.toNat)

/-! Global bytes of a copy. -/

/-- Byte `k` from a VA: its IA and attributes. -/
def State.vaByte (s : State) (ctx va k : Nat) (write : Bool) : Option (Nat × Nat) := s.range ctx ((va + k) % 2 ^ 64) write

/-- The first of `n` bytes from a VA that no range admits. -/
def State.rangeGap (s : State) (ctx va n : Nat) (write : Bool) : Option Nat :=
  (List.range n).find? (fun k => (s.vaByte ctx va k write).isNone)

/-- The bytes from a VA up to the first that no range admits. -/
def State.spanTo (s : State) (ctx va n : Nat) (write : Bool) : List (Nat × Nat) :=
  (List.range ((s.rangeGap ctx va n write).getD n)).map (fun k => (s.vaByte ctx va k write).getD (0, 0))

/-- Bytes in memory of one row's K-group of 32 elements (R71). -/
def groupBytes (tw : BitVec 2) : Nat :=
  match tw.toNat with
  | 0 => 16
  | 3 => 64
  | _ => 32

/-- Source bytes of a COPY of `n` bytes or rows. -/
def copyBytes (c : CopyOp) (n : Nat) : Nat := if c.trn then n * (c.kgm1.toNat + 1) * groupBytes c.tw else n

/-- Chunks of the checksum form. -/
def chunksOf (n chunk : Nat) : Nat := (n + chunk - 1) / chunk

/-- The group that a COPY writes to. -/
def CopyCmd.target (c : CopyCmd) : Nat := if c.op.dk.toNat = 3 then c.op.pgrp.toNat else c.wave.group

/-- The buffer that a COPY writes to, on its own core or a peer's. -/
def landBuf (c : CopyOp) : Option Buf :=
  if c.dk.toNat = 3 then some (if c.pbuf then .ab else .wb) else copyDst c

/-! Issue (R297). -/

/-- The command that the operands of a COPY form; the layout and chunk fields are those the form reads. -/
def State.copyCmd (s : State) (x : Instr) (form : Nat) (c : CopyOp) : CopyCmd :=
  let d := c.d.toNat
  let a := c.a.toNat
  let sReg (n : Nat) : Nat := (s.w.rdS n).data.toNat
  let b := s.rdW c.b
  let k := match c.b with | .s n => n.toNat | _ => 0
  { seq := s.nextId
    op := c
    form := form
    wave := s.w.id
    word := wordOf x
    pc := s.w.pcNow
    dst := if c.dk.toNat = 0 then (s.w.rdPair d).bits.toNat else sReg d % 2 ^ 20
    layout := if c.trn then [(s.w.rdS d).data, (s.w.rdS (d + 1)).data, (s.w.rdS (d + 2)).data] else []
    src := if c.sk.toNat = 0 then (s.w.rdPair a).bits.toNat else sReg a % 2 ^ 20
    cnt := b.bits.toNat
    chunk := if form = 2 then sReg (k + 1) else 0
    crcVa := if form = 2 then (s.w.rdPair (k + 2)).bits.toNat else 0
    recVa := if form = 2 then (s.w.rdPair (k + 4)).bits.toNat else 0
    bound := false
    go := some true
    started := false
    done := false
    waits := []
    sums := ⟨0, 0, false⟩
    asked := []
    lost := [] }

/-- Whether every operand word of a COPY is valid (R297). -/
def State.copyValid (s : State) (x : Instr) : Bool :=
  (bodyReads x).all (fun r => match r with | .s n => (s.w.rdS n).valid | .v _ => true)

/-- BUFRANGE of a COPY with the offset that fails (R297); the indexed form knows its length at execution only. -/
def State.copyRange (s : State) (c : CopyCmd) : Option Nat :=
  let n := c.cnt
  if c.op.dk.toNat = 3 && decide (s.gangSize ≤ c.op.pgrp.toNat) then some c.dst
  else if c.form = 1 || n = 0 then none
  else
    let dstBad : Bool :=
      match landBuf c.op with
      | some b =>
        if c.op.trn then decide (s.bufSize b ≤ (layOf c.layout).abEnd (c.op.kgm1.toNat + 1) n (twWidth c.op.tw))
        else decide (s.bufSize b < c.dst + n)
      | none => false
    let srcBad : Bool :=
      match copySrc c.op with
      | some b => decide (s.bufSize b < c.src + n)
      | none => false
    if srcBad then some c.src else if dstBad then some c.dst else none

/-- RANGEFAULT of a COPY at issue: a bad CHUNK, then the global bytes (R297, R302), of the indexed form those of its index entry
(R299). -/
def State.copyFault (s : State) (c : CopyCmd) : Option Nat :=
  let ctx := s.w.place.ctx
  let gap (va n : Nat) (w : Bool) : Option Nat := (s.rangeGap ctx va n w).map (fun k => (va + k) % 2 ^ 64)
  let ok2 (n : Nat) : Bool := decide (256 ≤ n) && decide (n ≤ 65536) && 2 ^ Nat.log2 n == n
  if c.form = 1 then gap ((c.src + 8 * c.cnt) % 2 ^ 64) 8 false
  else if c.form = 2 && !ok2 c.chunk then some 0
  else if c.cnt = 0 then none
  else
    let src := if c.op.sk.toNat = 0 then gap c.src (copyBytes c.op c.cnt) false else none
    let dst := if c.op.dk.toNat = 0 then gap c.dst c.cnt true else none
    let crc := if c.form = 2 then gap c.crcVa (4 * chunksOf c.cnt c.chunk) false else none
    let rec_ := if c.form = 2 then gap c.recVa 32 true else none
    src.orElse (fun _ => dst.orElse (fun _ => crc.orElse (fun _ => rec_)))

/-- The accesses that must perform before a COPY reads or writes (R300): it is a release-consistent access to all its global bytes,
whatever the kinds of their pages; for the indexed form, whose bytes are not known at issue, every one that is not of the
unordered kind. -/
def State.copyWaits (s : State) (c : CopyCmd) : List Nat :=
  let ctx := s.w.place.ctx
  let span (on : Bool) (va n : Nat) (w : Bool) : List (Nat × Nat) := if on then s.spanTo ctx va n w else []
  let us := (s.unperformed s.w.place.part s.w.id).filter (fun u => decide (u.kind ≤ 1))
  if us.isEmpty || c.form = 1 then us.map (·.id)
  else
    let rd := span (c.op.sk.toNat == 0) c.src (copyBytes c.op c.cnt) false
      ++ span (c.form == 2) c.crcVa (4 * chunksOf c.cnt c.chunk) false
    let wr := span (c.op.dk.toNat == 0) c.dst c.cnt true ++ span (c.form == 2) c.recVa 32 true
    let bytes := (rd ++ wr).map byteName
    if bytes.isEmpty then []
    else (us.filter (fun u => s.w.fenced (!wr.isEmpty) u || u.ias.any bytes.contains)).map (·.id)

/-- Before a COPY, the update-only lines of the issuing core that its accesses reach are sent (R170, R300); for the indexed form
every one that holds a RED of the wave. -/
def State.copyReach (s : State) (c : CopyCmd) : State :=
  if c.form = 1 then s.sendWaveLines
  else
    let ctx := s.w.place.ctx
    let span (on : Bool) (va n : Nat) (w : Bool) : List (Nat × Nat) := if on then s.spanTo ctx va n w else []
    s.sendReached [⟨0, 0, span (c.op.sk.toNat == 0) c.src (copyBytes c.op c.cnt) false
      ++ span (c.form == 2) c.crcVa (4 * chunksOf c.cnt c.chunk) false
      ++ span (c.op.dk.toNat == 0) c.dst c.cnt true ++ span (c.form == 2) c.recVa 32 true⟩]

/-- Enters a command in its group's queue (R295). -/
def State.enqueueCopy (s : State) (c : CopyCmd) : State :=
  (s.newId.1).onGrp s.w.id.gang s.w.id.group (fun g => { g with copyq := g.copyq ++ [c] })

/-- COPY (R297). -/
def copyBody (x : Instr) (form : Nat) (op : CopyOp) (s : State) : Res :=
  let c := s.copyCmd x form op
  if !s.copyValid x then .done s
  else if op.trn && decide (8 ≤ (layOf c.layout).mode) then .trap s { cause := .illegal }
  else
    let n := op.gsl.toNat
    let view := if op.gen then s.slotView n else .own .yes
    match view with
    | .free | .foreign => .trap s (guardTrap op.gsl)
    | .own st =>
      match s.copyRange c, s.copyFault c with
      | some o, _ => .trap s { cause := .bufrange, addr := BitVec.ofNat 64 o }
      | none, some va => .trap s { cause := .rangefault, addr := BitVec.ofNat 64 va }
      | none, none =>
        if form != 1 && c.cnt == 0 then .done s
        else
          let full := match s.grp? s.w.id.gang s.w.id.group with | some g => decide (32 ≤ g.copyq.length) | none => false
          if full then .hold s .busy
          else
            let go : Option Bool :=
              if !op.gen then some true
              else
                match st with
                | .unresolved => none
                | .yes => some (true != op.gpol)
                | .no => some (false != op.gpol)
            let s1 := s.copyReach c
            .done (s1.enqueueCopy { c with seq := s1.nextId, bound := go.isNone, go := go, waits := s1.copyWaits c })

/-! Execution (R298, R299, R302). -/

/-- An error that stops a COPY (R299). -/
structure CopyStop where
  cause : Cause
  addr : Nat
deriving DecidableEq, Repr

/-- Whether two names are of one unit: a copy engine is that of its group. -/
def Agent.sameUnit (a b : Agent) : Bool :=
  match a, b with
  | .copyEng g j _, .copyEng g' j' _ => g == g' && j == j'
  | _, _ => a == b

/-- The line that a unit has been served for the read that it makes. -/
def State.reply? (s : State) (p : Nat) (a : Agent) (line : Nat) : Option LineRead :=
  (s.replies.find? (fun r => r.part == p && r.line == line && r.agent.sameUnit a)).map (fun r => r.read)

/-- A unit's read is complete: the lines that it has been served for it are dropped. -/
def State.endRead (s : State) (a : Agent) : State := { s with replies := s.replies.filter (fun r => !r.agent.sameUnit a) }

/-- A held or parked read of a unit performs: the line waits for the unit. -/
def State.serveRead (s : State) (p : Nat) (a : Parked) (l : Leaf) : State :=
  let t := s.touchLine p (a.ia / 128) l false
  { t.1 with replies := t.1.replies ++ [⟨p, a.agent, a.ia / 128, t.1.lineData l (a.ia / 128)⟩] }

/-- Lines that a unit reads at their home slices, each named by an IA in it: as it has been served it, else as it stands; none
where the page is not resident or the read must wait (R170, R349). -/
def State.homeLines (s : State) (p : Nat) (who : Option Agent) : List Nat → State × Tab (Option LineRead)
  | [] => (s, [])
  | ia :: t =>
    let line := ia / 128
    let r : State × Option LineRead :=
      match who.bind (fun a => s.reply? p a line) with
      | some d => (s, some d)
      | none =>
        let u := s.recall p line
        if u.lineWaits p (line, u.nextId) then (u, none) else let v := u.homeServe p ia; (v.1, v.2.2)
    let q := r.1.homeLines p who t
    (q.1, (line, r.2) :: q.2)

/-- A unit keeps the lines that it has been served until its read is complete. -/
def State.keepLines (s : State) (p : Nat) (who : Option Agent) (ls : Tab (Option LineRead)) : State :=
  match who with
  | none => s
  | some a =>
    let new := ls.filterMap (fun e => if (s.reply? p a e.1).isSome then none else e.2.map (fun d => (⟨p, a, e.1, d⟩ : Reply)))
    { s with replies := s.replies ++ new }

/-- The lines of the local bytes of a span, each named by the first byte in it. -/
def spanLines (span : List (Nat × Nat)) : List Nat :=
  span.foldl (fun ls b => if attrRemote b.2 || ls.any (fun ia => ia / 128 == b.1 / 128) then ls else ls ++ [b.1]) []

/-- Bytes read from a VA: the prefix that could be read, what stopped it, the bytes, one for each line, at which it meets a line that
it cannot have yet, and its remote pieces: the VA of each, its first byte and its length. -/
structure SpanRead where
  st : State
  bytes : List Byte
  stop : Option CopyStop
  unfit : List Nat
  ask : List (Nat × (Nat × Nat) × Nat)
deriving DecidableEq, Repr

/-- Whether a read must wait, for a page or for another node. -/
def SpanRead.held (r : SpanRead) : Bool := !(r.unfit.isEmpty && r.ask.isEmpty)

/-- The bytes of a span that a unit reads at the home slices, each with whether it is an error; none for one that it cannot have yet.
A byte of another node is a free value, and one at a VA of `lost` an error (R424). -/
def State.spanBytes (s : State) (p : Nat) (who : Option Agent) (va : Nat) (span : List (Nat × Nat)) (lost : List Nat) :
    State × List (Option (Byte × Bool)) :=
  let r := s.homeLines p who (spanLines span)
  let byte (k : Nat) (b : Nat × Nat) : Option (Byte × Bool) :=
    if attrRemote b.2 then some (Config.remoteByte (s.fresh + k), lost.contains ((va + k) % 2 ^ 64))
    else (Tab.get none r.2 (b.1 / 128)).map (fun d => (d.data.getD (b.1 % 128) 0, d.bad.getD (b.1 % 128) false))
  (r.1.keepLines p who r.2, ((List.range span.length).zip span).map (fun q => byte q.1 q.2))

/-- Whether a byte that a unit has read is an error. -/
def isBad (b : Option (Byte × Bool)) : Bool :=
  match b with
  | some x => x.2
  | none => false

/-- Reads the bytes of a span of `n` bytes at the home slices for a unit, in ascending order: the first error ends the read, and what it
must wait for lies before that. `va` names the first byte in what stops the read. -/
def State.readRun (s : State) (p : Nat) (who : Option Agent) (va n : Nat) (span : List (Nat × Nat)) (lost : List Nat) : SpanRead :=
  let r := s.spanBytes p who va span lost
  let good := r.2.takeWhile (fun b => !isBad b)
  let head := span.take good.length
  let stop : Option CopyStop :=
    if good.length < r.2.length then some ⟨.dataerr, (va + good.length) % 2 ^ 64⟩
    else if span.length < n then some ⟨.rangefault, (va + span.length) % 2 ^ 64⟩
    else none
  ⟨{ r.1 with fresh := r.1.fresh + n }, (good.takeWhile Option.isSome).map (fun b => (b.getD (0, false)).1), stop,
   spanLines ((head.zip good).filterMap (fun q => if q.2.isNone then some q.1 else none)),
   (remotePieces 0 head).map (fun q => ((va + q.1) % 2 ^ 64, (q.2.1, q.2.2.1), q.2.2.2))⟩

/-- Reads `n` bytes from a VA. -/
def State.readSpan (s : State) (p ctx va n : Nat) : SpanRead := s.readRun p none va n (s.spanTo ctx va n false) []

/-- Reads `n` bytes from a VA for a COPY: it waits for the bytes of another node that it has not asked for yet (R424). -/
def State.copyRead (s : State) (p ctx : Nat) (c : CopyCmd) (va n : Nat) : SpanRead :=
  let r := s.readRun p (some (.copyEng c.wave.gang c.wave.group 0)) va n (s.spanTo ctx va n false) c.lost
  { r with ask := r.ask.filter (fun q => !c.asked.contains q.1) }

/-- A unit's reads of lines that it cannot have yet: each is held at its home slice, by a shoot-down or behind the merges of its
line, or parks on a page that is not resident (R170, R298, R349). -/
def State.parkReads (s : State) (p : Nat) (agent : Agent) (ctx : Nat) : List Nat → State × List Nat
  | [] => (s, [])
  | ia :: t =>
    let k : State × Nat :=
      if s.lineWaits p (ia / 128, s.nextId) then s.holdOp p agent ctx ia .read
      else let r := s.xlate p ia; r.1.parkNew p agent ctx ia .read r.2 false
    let q := k.1.parkReads p agent ctx t
    (q.1, k.2 :: q.2)

/-- The path whose DRAIN covers a COPY (R211). -/
def CopyCmd.path (c : CopyCmd) : Option DrainPath :=
  match c.op.dk.toNat with
  | 0 => some .global
  | 1 => some .wb
  | 2 => some .ab
  | _ => none

/-- Asks other nodes for the remote pieces of a COPY's source (R424); the numbers of the requests are returned. -/
def State.askRemotes (s : State) (c : CopyCmd) (ask : List (Nat × (Nat × Nat) × Nat)) : State × List Nat :=
  ask.foldl (fun acc q =>
    let k := acc.1.newId
    ({ k.1 with remotes := k.1.remotes ++
        [⟨k.2, c.wave, none, attrNode q.2.1.2, q.2.1.1, q.2.2, 0, 0, [], q.1, c.word, c.pc, c.path, 0, false⟩] },
      acc.2 ++ [k.2])) (s, [])

/-- What a COPY has come to. -/
structure CopyAcc where
  st : State
  waits : List Nat
  stop : Option CopyStop
deriving DecidableEq, Repr

/-- Writes bytes from a VA at the home slices (R298); those of another node go there piece by piece (R181). -/
def State.writeSpan (s : State) (p : Nat) (agent : Agent) (c : CopyCmd) (ctx va : Nat) (bs : List Byte) : CopyAcc :=
  let span := s.spanTo ctx va bs.length true
  let cells := (span.zip bs).filter (fun c => !attrRemote c.1.2)
  let r := s.agentWrite p agent ctx (cells.map (fun c => (c.1.1, c.2)))
  let stop : Option CopyStop := if span.length < bs.length then some ⟨.rangefault, (va + span.length) % 2 ^ 64⟩ else none
  let q := (remotePieces 0 span).foldl (fun (acc : State × List Nat) q =>
    let k := acc.1.newId
    ({ k.1 with remotes := k.1.remotes ++
        [⟨k.2, c.wave, none, attrNode q.2.2.1, q.2.1, q.2.2.2, 0, q.1, (bs.drop q.1).take q.2.2.2, va + q.1, c.word, c.pc,
          c.path, 0, false⟩] }, acc.2 ++ [k.2])) r
  ⟨q.1, q.2, stop⟩

/-- Lands bytes in a buffer of a group; each byte of a peer copy is counted after it has landed (R385). -/
def State.landBytes (s : State) (gang group : Nat) (b : Buf) (off : Nat) (bs : List Byte) (pab : Option Nat) : State :=
  let s1 := s.putBuf gang group b off bs
  match pab with
  | none => s1
  | some n => bs.foldl (fun s _ => s.barEvent gang group n (fun x => x.update (-1) 0 false)) s1

/-- The elements of one K-group from its bytes in memory (R71). -/
def groupCodes (tw : BitVec 2) (bs : List Byte) : List Nat :=
  (List.range 32).map (fun t =>
    match tw.toNat with
    | 0 => (bs.getD (t / 2) 0).toNat / 16 ^ (t % 2) % 16
    | 1 => (bs.getD t 0).toNat % 64
    | 2 => (bs.getD t 0).toNat
    | _ => (bs.getD (2 * t) 0).toNat + 256 * (bs.getD (2 * t + 1) 0).toNat)

/-- Plane word `j` of a K-group: bit t is bit j of element t (R167). -/
def planeWord (codes : List Nat) (j : Nat) : Nat :=
  sumNat ((List.range 32).map (fun t => b2n (bit (codes.getD t 0) j) * 2 ^ t))

/-- The pieces a COPY lands, in order: its bytes, or the plane words of each whole K-group (R298). DESIGN CHOICE: a stride that is no
multiple of 4, a BASE that is no multiple of 16 and the reserved bits of the layout are not checked (R167, R297). -/
def CopyCmd.pieces (c : CopyCmd) (bs : List Byte) : List (Nat × List Byte) :=
  if !c.op.trn then [(c.dst, bs)]
  else
    let l := layOf c.layout
    let kg := c.op.kgm1.toNat + 1
    let gb := groupBytes c.op.tw
    (List.range (bs.length / gb)).flatMap (fun q =>
      let codes := groupCodes c.op.tw ((bs.drop (q * gb)).take gb)
      (List.range (twWidth c.op.tw)).map (fun j =>
        (l.base + q % kg * l.bs + q / kg * l.rs + j * l.ps, leBytes 4 (planeWord codes j))))

/-- Whether a COPY has its source and its destination in one region. -/
def CopyCmd.sameRegion (c : CopyCmd) : Bool :=
  c.target == c.wave.group && (copySrc c.op).isSome && copySrc c.op == landBuf c.op

/-- One past the last byte that `n` source bytes land in, with the first byte at or beyond `size`. -/
def CopyCmd.beyond (c : CopyCmd) (n size : Nat) : Option Nat :=
  ((c.pieces (List.replicate n 0)).find? (fun q => decide (size < q.1 + q.2.length))).map (fun q => Nat.max q.1 size)

/-- Latches the error that stops a COPY, with its host record and, for a peer, the barrier's error flag (R299, R385); a request to
another node that failed has posted its own record (R424). -/
def State.copyFail (s : State) (p ctx : Nat) (c : CopyCmd) (e : CopyStop) : State :=
  let s1 := s.onStream c.wave (fun w =>
    { w with errs := w.errs ++ [⟨false, e.cause, BitVec.ofNat 64 e.addr, c.path, c.word, c.pc, false⟩] })
  let s2 :=
    if e.cause != .dataerr || c.lost.contains e.addr then s1
    else
      match copySrc c.op with
      | some b =>
        if (s1.bufError c.wave.gang c.wave.group b e.addr 1).isSome then s1.bufRecord c.wave.gang c.wave.group e.addr
        else s1.dramError p ctx (((s1.range ctx e.addr false).map (·.1)).getD e.addr)
      | none => s1.dramError p ctx (((s1.range ctx e.addr false).map (·.1)).getD e.addr)
  if c.op.dk.toNat = 3 then s2.barEvent c.wave.gang c.target c.op.pab.toNat (fun b => b.error 1) else s2

/-- A buffer region of a group. -/
def State.regionFor (s : State) (gang group : Nat) (b : Buf) : Mem :=
  match s.grp? gang group with
  | some x => x.region b
  | none => []

/-- The source bytes of a COPY from a given place. Bytes move one by one, ascending: within one region a byte that the COPY
itself has written before is read as written (R298). -/
def State.copySource (s : State) (p ctx : Nat) (c : CopyCmd) (src dst n : Nat) : SpanRead :=
  match copySrc c.op with
  | some b =>
    let r := s.regionFor c.wave.gang c.wave.group b
    let bytes := if c.sameRegion && decide (src < dst) then (List.range n).map (fun i => Mem.read r (src + i % (dst - src)))
      else Mem.readN r src n
    match s.bufError c.wave.gang c.wave.group b src n with
    | some o => ⟨s, bytes.take (o - src), some ⟨.dataerr, o⟩, [], []⟩
    | none => ⟨s, bytes, none, [], []⟩
  | none => s.copyRead p ctx c src n

/-- Changes the command at the head of a group's queue. -/
def State.onHead (s : State) (gang group : Nat) (f : CopyCmd → CopyCmd) : State :=
  s.onGrp gang group (fun g => { g with copyq := g.copyq.modify 0 f })

/-- Removes the command at the head of a group's queue. -/
def State.popHead (s : State) (gang group : Nat) : State := s.onGrp gang group (fun g => { g with copyq := g.copyq.drop 1 })

/-- Ends the execution of the command at the head; its parked writes are still awaited. -/
def State.copyDone (s : State) (p ctx : Nat) (c : CopyCmd) (waits : List Nat) (stop : Option CopyStop) : State :=
  let s1 := s.onHead c.wave.gang c.wave.group (fun y => { y with done := true, waits := waits })
  match stop with
  | some e => s1.copyFail p ctx c e
  | none => s1

/-- The command waits for its parked reads and for what it has asked of other nodes. -/
def State.copyPark (s : State) (p : Nat) (agent : Agent) (ctx : Nat) (c : CopyCmd) (r : SpanRead) : State :=
  let k := s.parkReads p agent ctx r.unfit
  let q := k.1.askRemotes c r.ask
  q.1.onHead c.wave.gang c.wave.group (fun y =>
    { y with started := true, waits := k.2 ++ q.2, asked := y.asked ++ r.ask.map (·.1) })

/-- Lands source bytes at the destination: global memory, the own core's buffer or a peer's (R298). A barrier that
another group holds stops the copy (R385). -/
def State.copyLand (s : State) (p : Nat) (agent : Agent) (ctx : Nat) (c : CopyCmd) (bs : List Byte) : CopyAcc :=
  match landBuf c.op with
  | none => s.writeSpan p agent c ctx c.dst bs
  | some b =>
    let peer := c.op.dk.toNat = 3
    if peer && s.barForeign c.wave.gang c.target c.op.pab.toNat then
      ⟨s, [], if bs.isEmpty then none else some ⟨.abstate, c.op.pab.toNat⟩⟩
    else
      ⟨(c.pieces bs).foldl (fun s q => s.landBytes c.wave.gang c.target b q.1 q.2 (if peer then some c.op.pab.toNat else none)) s,
       [], none⟩

/-- A plain or transposing COPY from `src`, or the tile of an indexed one (R298, R299). -/
def State.copyMove (s : State) (p : Nat) (agent : Agent) (ctx : Nat) (c : CopyCmd) (src n : Nat) : State :=
  let r := s.copySource p ctx c src c.dst n
  if r.held then r.st.copyPark p agent ctx c r
  else
    let a := r.st.copyLand p agent ctx c r.bytes
    a.st.copyDone p ctx c a.waits (a.stop.orElse (fun _ => r.stop))

/-- The indexed form: the entry, then the tile (R247, R299). An OFFSET that is no multiple of 16 is taken as it stands (DESIGN
CHOICE: the manual gives entries multiples of 16 and no effect of another). -/
def State.copyIndexed (s : State) (p : Nat) (agent : Agent) (ctx size : Nat) (c : CopyCmd) : State :=
  let r := s.copyRead p ctx c (c.src + 8 * c.cnt) 8
  match r.held, r.stop with
  | true, _ => r.st.copyPark p agent ctx c r
  | false, some e => r.st.copyDone p ctx c [] (some e)
  | false, none =>
    let ent := leNat r.bytes
    let n := bits ent 63 40
    match if n != 0 && (landBuf c.op).isSome then c.beyond n size else none with
    | some o => r.st.copyDone p ctx c [] (some ⟨.bufrange, o⟩)
    | none => if n = 0 then r.st.copyDone p ctx c [] none else r.st.copyMove p agent ctx c (c.src + bits ent 39 0) n

/-- One step of the CRC-32C register (R302). -/
def crcBit (c : Nat) : Nat := if c % 2 = 1 then Nat.xor (c / 2) 0x82F63B78 else c / 2

def crcByte (c : Nat) (b : Byte) : Nat := crcBit (crcBit (crcBit (crcBit (crcBit (crcBit (crcBit (crcBit (Nat.xor c b.toNat))))))))

/-- CRC-32C of RFC 3720 (R302). -/
def crc32c (bs : List Byte) : Nat := Nat.xor (bs.foldl crcByte 0xFFFFFFFF) 0xFFFFFFFF

/-- A completion record (R306). -/
def completionRecord (opn tag status count num val done : Nat) : List Byte :=
  leBytes 4 (opn * 2 ^ 28 + status * 2 ^ 16 + tag) ++ leBytes 4 count ++ leBytes 8 num ++ leBytes 8 val ++ leBytes 8 done

/-- What the chunks of a checksum COPY have come to: how far they are, a mismatch, an error that stops them, and a read that must
wait. -/
structure SumAcc where
  st : State
  sums : Sums
  bad : Bool
  stop : Option CopyStop
  wait : Option SpanRead
deriving DecidableEq, Repr

/-- Whether the chunks go on. -/
def SumAcc.runs (a : SumAcc) : Bool := !a.bad && a.stop.isNone && a.wait.isNone

/-- The bytes of the next chunk, as many as it has (R302). -/
def CopyCmd.chunkLen (c : CopyCmd) (i : Nat) : Nat := Nat.min c.chunk (c.cnt - i * c.chunk)

/-- The bytes of the next chunk land, unless they have landed before a wait (R302). -/
def SumAcc.land (a : SumAcc) (p ctx : Nat) (c : CopyCmd) (b : Buf) : SumAcc :=
  if a.sums.copied then a
  else
    let o := a.sums.next * c.chunk
    let r := a.st.copySource p ctx c (c.src + o) (c.dst + o) (c.chunkLen a.sums.next)
    if r.held then { a with st := r.st, wait := some r }
    else
      { a with
        st := (r.st.endRead (.copyEng c.wave.gang c.wave.group 0)).landBytes c.wave.gang c.target b (c.dst + o) r.bytes none
        sums := ⟨a.sums.next, crc32c r.bytes, true⟩
        stop := r.stop }

/-- The CRC of the chunk that has landed is held against the expected one: its bytes are reported, or the error flag is set
(R302). -/
def SumAcc.judge (a : SumAcc) (p ctx : Nat) (c : CopyCmd) : SumAcc :=
  if !a.runs then a
  else
    let q := a.st.copyRead p ctx c (c.crcVa + 4 * a.sums.next) 4
    let event (s : State) (f : ABar → ABar) : State :=
      (s.endRead (.copyEng c.wave.gang c.wave.group 0)).barEvent c.wave.gang c.target c.op.pab.toNat f
    if q.held then { a with st := q.st, wait := some q }
    else if q.stop.isSome then { a with st := q.st, stop := q.stop }
    else if leNat q.bytes = a.sums.crc then
      { a with
        st := (List.range (c.chunkLen a.sums.next)).foldl (fun s _ => event s (fun x => x.update (-1) 0 false)) q.st
        sums := ⟨a.sums.next + 1, a.sums.crc, false⟩ }
    else { a with st := event q.st (fun x => x.error 4), bad := true }

/-- The checksum form: chunk by chunk from the first that is not done, each before the next is read; then the record (R302). -/
def State.copySum (s : State) (p : Nat) (agent : Agent) (ctx : Nat) (c : CopyCmd) : State :=
  match landBuf c.op with
  | none => s.copyDone p ctx c [] none
  | some b =>
    if s.barForeign c.wave.gang c.target c.op.pab.toNat then s.copyDone p ctx c [] (some ⟨.abstate, c.op.pab.toNat⟩)
    else
      let a := (List.range (chunksOf c.cnt c.chunk - c.sums.next)).foldl (fun a _ =>
        if a.runs then (a.land p ctx c b).judge p ctx c else a) (⟨s, c.sums, false, none, none⟩ : SumAcc)
      match a.wait, a.stop with
      | some r, _ => (a.st.copyPark p agent ctx c r).onHead c.wave.gang c.wave.group (fun y => { y with sums := a.sums })
      | none, some e => a.st.copyDone p ctx c [] (some e)
      | none, none =>
        let n := a.sums.next
        let r := a.st.writeSpan p agent c ctx c.recVa
          (if a.bad then completionRecord 0xF 0 4 n 0 a.sums.crc (n * c.chunk + c.chunkLen n)
           else completionRecord 0xF 0 0 0 0 a.sums.crc c.cnt)
        r.st.copyDone p ctx c r.waits r.stop

/-- The lines that the command at the head of a group's queue has been served are dropped, unless it waits to go on with its read. -/
def State.copyEnds (s : State) (p gang group : Nat) : State :=
  match (s.grp? gang group).bind (fun g => g.copyq.head?) with
  | some c => if !c.done && !(s.outstanding p c.waits).isEmpty then s else s.endRead (.copyEng gang group 0)
  | none => s.endRead (.copyEng gang group 0)

/-- The copy engine takes up the command at the head of a group's queue (R295, R298): a discarded one leaves, one that
is bound, waits for an access, or meets an earlier operation on its buffers stays. Of an evicted gang only the command
that has started goes on (R301). -/
def State.copyStep (s : State) (gang group : Nat) : State :=
  match s.gang? gang with
  | none => s
  | some x =>
    match (x.groups[group]?).bind (fun g => g.copyq.head?) with
    | none => s
    | some c =>
      let p := x.launch.part
      let ctx := x.launch.ctx
      if x.st == .pending || (x.st == .evicted && !c.started) || c.done then s
      else
        match c.go with
        | none => s
        | some false => s.popHead gang group
        | some true =>
          if !(s.outstanding p c.waits).isEmpty || x.blocked ⟨c.seq, group, c.spans x.launch, none, none⟩ then s
          else
            let core := x.coreOf group
            let agent := Agent.copyEng gang group core
            let size := match landBuf c.op with | some b => x.launch.size b | none => 0
            let t := if c.form = 1 then s.copyIndexed p agent ctx size c
              else if c.form = 2 then s.copySum p agent ctx c
              else s.copyMove p agent ctx c c.src (copyBytes c.op c.cnt)
            t.copyEnds p gang group

/-- A command whose last byte has been written leaves its queue (R211). -/
def State.copyFinish (s : State) (gang group : Nat) : State :=
  match s.gang? gang with
  | none => s
  | some x =>
    match (x.groups[group]?).bind (fun g => g.copyq.head?) with
    | none => s
    | some c => if c.done && (s.outstanding x.launch.part c.waits).isEmpty then s.popHead gang group else s

/-! DRAIN (R211). -/

/-- Whether a COPY of the group that a DRAIN covers, issued before it, is unfinished. -/
def State.copiesLeft (s : State) (path : DrainPath) (before : Nat) : Bool :=
  match s.grp? s.w.id.gang s.w.id.group with
  | some g => g.copyq.any (fun c => decide (c.seq < before) && c.path == some path && c.go != some false)
  | none => false

/-- Whether a matrix instruction that writes the CB of the wave's core, of whatever gang, reached that core before the DRAIN and
is unfinished there (R211). -/
def State.matrixLeft (s : State) (before : Nat) : Bool :=
  s.gangs.any (fun e => e.2.st == .resident && (List.range e.2.groups.length).any (fun j =>
    e.2.coreOf j == s.w.core
      && (e.2.bufOps j).any (fun o => decide (o.seq < before) && o.spans.any (fun a => a.buf == .cb && a.write))))

/-- The latched error that a DRAIN raises (R299, R424). -/
def State.drainErr (s : State) (path : DrainPath) : Option CopyErr := s.w.errs.find? (fun e => e.path == some path)

/-- What follows the wait of a DRAIN: a latched error, and for `global` the unordered lines leave the L1. -/
def drainEnd (path : DrainPath) (s : State) : Res :=
  match s.drainErr path with
  | some e => .trap (s.setW { s.w with errs := s.w.errs.filter (fun y => !(y == e)) }) (copyTrap e)
  | none => .done (if path = .global then s.l1Acquire s.w.core false true else s)

/-- DRAIN. The wait for commands comes first and that for accesses second; the second is a blocking point while one of them is
parked (R211, R266). -/
def drainBody (path : DrainPath) (s : State) : Res :=
  let first : Option Nat :=
    match s.w.cur, s.w.wait with
    | some p, _ => some (p.drain.getD s.nextId)
    | none, .drain n => some n
    | none, .remote _ | none, .parked _ => none
    | none, _ => some s.nextId
  let s1 := if path = .global then s.sendWaveLines else s
  match first with
  | some n =>
    if s1.copiesLeft path n || (path == .cb && s1.matrixLeft n) then .hold s1 (.drain n)
    else if path != .global then drainEnd path s1
    else
      match (s1.unperformed s1.w.place.part s1.w.id).map (·.id) with
      | i :: is => .hold s1 (.parked (i :: is))
      | [] => drainEnd path s1
  | none =>
    match (s1.unperformed s1.w.place.part s1.w.id).map (·.id) with
    | i :: is => .hold s1 (.parked (i :: is))
    | [] => drainEnd path s1

def execGset (h : Hdr) (n : BitVec 4) (c : Operand) (s : State) : Out := issue (.gset h n c) s (gsetBody n c)
def execGclr (h : Hdr) (n : BitVec 4) (s : State) : Out := issue (.gclr h n) s (gclrBody n)
def execGclrFree (h : Hdr) (n : BitVec 4) (s : State) : Out := issue (.gclrFree h n) s (gclrFreeBody n)
def execCopy (c : CopyOp) (s : State) : Out := issue (.copy c) s (copyBody (.copy c) 0 c)
def execCopyIndexed (c : CopyOp) (s : State) : Out := issue (.copyIndexed c) s (copyBody (.copyIndexed c) 1 c)
def execCopyChecksum (c : CopyOp) (s : State) : Out := issue (.copyChecksum c) s (copyBody (.copyChecksum c) 2 c)
def execDrain (h : Hdr) (p : DrainPath) (s : State) : Out := issue (.drain h p) s (drainBody p)
def execCopyExecute (gang group : Nat) (s : State) : Out := .next (s.copyStep gang group)
def execCopyComplete (gang group : Nat) (s : State) : Out := .next (s.copyFinish gang group)

end Sys2Proof.Machine
end

