-- ==== Sys2Proof/Machine/CrossLane.lean ====
section
/-! DEFINITION. Cross-lane instructions (R129 to R133). -/

namespace Sys2Proof.Machine

/-- What stands in front of a cross-lane instruction (R129): an invalid mask nullifies it, a participating lane outside
the mask traps MEMBER, and otherwise the member mask is given. -/
inductive Members where
  | nullify
  | missing (lanes : Word)
  | ok (m : Word)
deriving DecidableEq, Repr

def State.members (s : State) (g : Guard) (mask : Operand) : Members :=
  let v := s.rdW mask
  let m : Word := v.bits.setWidth 32
  let out := s.w.inLanes g &&& ~~~m
  if !v.valid then .nullify else if out != 0 then .missing out else .ok m

/-- The contribution of a lane: its word A where it participates, else invalid (R130). -/
def State.contribution (s : State) (part : Word) (k : Nat) (a : Operand) (l : Nat) : Val :=
  if part.getLsbD l then s.rdOp .b32 k a l else Val.none

/-- Body of a cross-lane instruction of result `k` words: the mask is checked, then each participating lane gets
`f members contributions lane`. -/
def crossBody (o : LaneOp) (mask : Operand) (k : Nat) (f : State → Word → (Nat → Val) → Nat → LaneRes) (s : State) : Res :=
  match s.members o.h.guard mask with
  | .missing ls => .trap s { cause := .member, lanes := ls }
  | .nullify => .done (s.writeForm o.h.guard o.d k (fun _ => LaneRes.null))
  | .ok m =>
    let part := s.w.inLanes o.h.guard
    .done (s.writeForm o.h.guard o.d k (f s m (s.contribution part (typeWords o.ty) o.a)))

/-- Whether every member contribution is valid. -/
def allValid (m : Word) (c : Nat → Val) : Bool := (lanesOf m).all (fun p => (c p).valid)

/-- Data of a contribution. -/
def contr (c : Nat → Val) (p : Nat) : Nat := (c p).bits.toNat

/-- The lane that SHFL reads (R131). -/
def shflSource (mode : ShflMode) (b l : Nat) : Nat :=
  match mode with
  | .idx => b
  | .up => if b ≤ l then l - b else l
  | .down => if l + b < 32 then l + b else l
  | .xor => Nat.xor l b

/-- SHFL in a lane (R131): B and the contribution read are consumed; where the lane read is outside the members, the
lane's own word is copied with its validity (DEDUCED: the entry does not list it as consumed). -/
def shflRes (o : LaneOp) (mode : ShflMode) (s : State) (m : Word) (c : Nat → Val) (l : Nat) : LaneRes :=
  let b := s.rdOp o.ty (typeWords o.ty) o.b l
  let j := shflSource mode (bits b.bits.toNat 4 0) l
  if !b.valid then LaneRes.null
  else if m.getLsbD j then (if (c j).valid then LaneRes.ok (c j).bits.toNat else LaneRes.null)
  else ⟨c l, none, false⟩

/-- BALLOT's word (R131). -/
def ballotRes (m : Word) (c : Nat → Val) : LaneRes :=
  if allValid m c then LaneRes.ok (laneMask (fun p => m.getLsbD p && contr c p != 0)).toNat else LaneRes.null

/-- VOTE (R131). -/
def voteRes (kind : VoteKind) (m : Word) (c : Nat → Val) : LaneRes :=
  let ps := lanesOf m
  if allValid m c then
    LaneRes.ok (b2n (match kind with
      | .any => ps.any (fun p => contr c p != 0)
      | .all => ps.all (fun p => contr c p != 0)
      | .uni => ps.all (fun p => contr c p == contr c (ps.headD 0))))
  else LaneRes.null

/-- MATCH (R131). -/
def matchRes (m : Word) (c : Nat → Val) (l : Nat) : LaneRes :=
  if allValid m c then LaneRes.ok (laneMask (fun p => m.getLsbD p && contr c p == contr c l)).toNat else LaneRes.null

/-- FIRSTL (R131). -/
def firstlRes (m : Word) (c : Nat → Val) : LaneRes :=
  if allValid m c then LaneRes.ok (((lanesOf m).find? (fun p => contr c p != 0)).getD 32) else LaneRes.null

/-- The identity of a reduction (R132). -/
def redIdentity (op : RedOp) (t : ElemType) : Nat :=
  match op with
  | .add | .or | .xor => 0
  | .min => intWords (typeWords t) (intRange t).2
  | .max => intWords (typeWords t) (intRange t).1
  | .and => 2 ^ opWidth t - 1
  | .fadd => 0x80000000
  | .fmin => 0x7F800000
  | .fmax => 0xFF800000

/-- Combines two words of a reduction (R132). -/
def redCombine (op : RedOp) (t : ElemType) (rnd : Rnd) (x y : Nat) : Nat :=
  match op with
  | .add => (x + y) % 2 ^ opWidth t
  | .min => minMaxI t false x y
  | .max => minMaxI t true x y
  | .and => Nat.land x y
  | .or => Nat.lor x y
  | .xor => Nat.xor x y
  | .fadd => addF32 rnd x y
  | .fmin => minMaxF .f32 false x y
  | .fmax => minMaxF .f32 true x y

/-- One level of the reduction tree: neighbours combine pairwise. -/
def treeLevel (f : Nat → Nat → Nat) : List Nat → List Nat
  | x :: y :: t => f x y :: treeLevel f t
  | [x] => [x]
  | [] => []

/-- The five levels of REDUX over 32 words (R132). -/
def treeReduce (f : Nat → Nat → Nat) (xs : List Nat) : Nat :=
  (treeLevel f (treeLevel f (treeLevel f (treeLevel f (treeLevel f xs))))).headD 0

/-- REDUX (R132). -/
def reduxRes (op : RedOp) (t : ElemType) (rnd : Rnd) (m : Word) (c : Nat → Val) : LaneRes :=
  if allValid m c then
    LaneRes.ok (treeReduce (redCombine op t rnd)
      (laneList.map (fun p => if m.getLsbD p then contr c p else redIdentity op t)))
  else LaneRes.null

/-- Left fold that takes the first word as it stands (R132): a single contribution that is a NaN keeps its payload even under a
floating-point operation (DESIGN CHOICE: R132 copies it, R74 says that payloads are not carried through). -/
def foldFirst (f : Nat → Nat → Nat) (id : Nat) : List Nat → Nat
  | [] => id
  | x :: t => t.foldl f x

/-- SCAN in a lane (R132): it consumes the members up to, or below, the lane. -/
def scanRes (op : RedOp) (t : ElemType) (rnd : Rnd) (excl : Bool) (m : Word) (c : Nat → Val) (l : Nat) : LaneRes :=
  let ps := (lanesOf m).filter (fun p => if excl then decide (p < l) else decide (p ≤ l))
  if ps.all (fun p => (c p).valid) then
    LaneRes.ok (foldFirst (redCombine op t rnd) (redIdentity op t) (ps.map (contr c)))
  else LaneRes.null

/-- BALLOT writes its scalar D once (R131), a pair under b64 (R107). -/
def ballotBody (o : LaneOp) (mask : Operand) (s : State) : Res :=
  match s.members o.h.guard mask with
  | .missing ls => .trap s { cause := .member, lanes := ls }
  | .nullify => .done (s.setW (s.w.wrScalar o.d (typeWords o.ty) Val.none))
  | .ok m =>
    .done (s.setW (s.w.wrScalar o.d (typeWords o.ty)
      (ballotRes m (s.contribution (s.w.inLanes o.h.guard) (typeWords o.ty) o.a)).out))

/-- V2S (R133): the word of one EXEC lane with its validity, or a copy of a uniform source. A guard changes nothing (DESIGN
CHOICE). -/
def State.v2sVal (s : State) (o : LaneOp) : Val :=
  if isV o.a then
    let b := s.rdW o.b
    let l := bits b.bits.toNat 4 0
    if !b.valid then Val.none
    else if s.w.execM.getLsbD l then s.rdOp o.ty (typeWords o.ty) o.a l else Val.none
  else s.rdOp o.ty (typeWords o.ty) o.a 0

def execShfl (o : LaneOp) (m : ShflMode) (mask : Operand) (s : State) : Out :=
  issue (.shfl o m mask) s (crossBody o mask (typeWords o.ty) (shflRes o m))
def execBallot (o : LaneOp) (mask : Operand) (s : State) : Out := issue (.ballot o mask) s (ballotBody o mask)
def execVote (o : LaneOp) (k : VoteKind) (mask : Operand) (s : State) : Out :=
  issue (.vote o k mask) s (crossBody o mask (typeWords o.ty) (fun _ m c _ => voteRes k m c))
def execRedux (o : LaneOp) (op : RedOp) (mask : Operand) (s : State) : Out :=
  issue (.redux o op mask) s (crossBody o mask (typeWords o.ty) (fun _ m c _ => reduxRes op o.ty o.rnd m c))
def execScan (o : LaneOp) (op : RedOp) (excl : Bool) (mask : Operand) (s : State) : Out :=
  issue (.scan o op excl mask) s (crossBody o mask (typeWords o.ty) (fun _ m c l => scanRes op o.ty o.rnd excl m c l))
def execV2s (o : LaneOp) (s : State) : Out :=
  issue (.v2s o) s (fun s => .done (s.setW (s.w.wrScalar o.d (typeWords o.ty) (s.v2sVal o))))
def execMatchLanes (o : LaneOp) (mask : Operand) (s : State) : Out :=
  issue (.matchLanes o mask) s (crossBody o mask 1 (fun _ m c l => matchRes m c l))
def execFirstl (o : LaneOp) (mask : Operand) (s : State) : Out :=
  issue (.firstl o mask) s (crossBody o mask (typeWords o.ty) (fun _ m c _ => firstlRes m c))

end Sys2Proof.Machine
end

