-- ==== Sys2Proof/Machine/Engine.lean ====
section
/-! DEFINITION. Transform engines: kicks, timelines, requests and their completion (R303 to R310, R352, R353). -/

namespace Sys2Proof.Machine

/-- The partition that owns the engine of a context (R303, R417). -/
def State.engPart (s : State) (e : Nat) : Nat := s.ownerOf (e / 128)

/-- ENGPERM (R304). -/
def engPerm (e : Nat) : TrapInfo := { cause := .engperm, addr := BitVec.ofNat 64 e }

/-- Whether a stream may name an engine context (R304). -/
def State.engOk (s : State) (e : Nat) : Bool :=
  decide (e < Config.nEngCtx) && (s.eng e).en && (s.eng e).ctx == s.w.place.ctx

/-- A write of WIDX (R304): a stopped context ignores it, a bad one stops it. -/
def State.kick (s : State) (e v : Nat) : State :=
  let x := s.eng e
  if x.stop then s
  else if 2 ^ x.rk < (v + 2 ^ 32 - x.ridx.toNat) % 2 ^ 32 then
    (s.setEng e { x with widx := BitVec.ofNat 32 v, stop := true }).event (s.engPart e) 3
      (leBytes 4 e ++ leBytes 4 v ++ leBytes 4 x.ridx.toNat)
  else s.setEng e { x with widx := BitVec.ofNat 32 v }

/-- TL never falls (R307); tokens whose value it has reached become ready. -/
def State.raiseTl (s : State) (e v : Nat) : State :=
  let x := s.eng e
  let tl := Nat.max x.tl (v % 2 ^ 64)
  let s1 := s.setEng e { x with tl := tl, watch := x.watch.filter (fun k => decide (tl < k.v)) }
  (x.watch.filter (fun k => decide (k.v ≤ tl))).foldl (fun s k =>
    s.onStream k.wave (fun w => w.readyTok k.tok (BitVec.ofNat 32 tl) true)) s1

/-- XKICK (R304): a device-scope release, then the write. -/
def xkickBody (e v : Operand) (s : State) : Res :=
  let a := s.rdW e
  let b := s.rdW v
  if !(a.valid && b.valid) then .done s
  else if !s.engOk a.bits.toNat then .trap s (engPerm a.bits.toNat)
  else
    let s1 := s.sendWaveLines
    match s1.releaseIds .device with
    | i :: is => .hold s1 (.remote (i :: is))
    | [] => .done (s1.kick a.bits.toNat b.bits.toNat)

/-- TLWAIT (R307): the acquire discards release-consistent and unordered lines. -/
def tlwaitBody (e v : Operand) (s : State) : Res :=
  let a := s.rdW e
  let b := s.rdOp .n64 2 v 0
  if !(a.valid && b.valid) then .done s
  else if !s.engOk a.bits.toNat then .trap s (engPerm a.bits.toNat)
  else if decide (b.bits.toNat ≤ (s.eng a.bits.toNat).tl) then
    .done (if s.w.belay then s else s.l1Acquire s.w.core true true)
  else .hold s (.tlwait a.bits.toNat b.bits.toNat)

def tlwaitTokenBody (e v : Operand) (tok : BitVec 4) (s : State) : Res :=
  let a := s.rdW e
  let b := s.rdOp .n64 2 v 0
  let q := tok.toNat
  if !(a.valid && b.valid) then .done s
  else if (s.w.tok q).st = .pending then .trap s (tokBusy q)
  else if !s.engOk a.bits.toNat then .trap s (engPerm a.bits.toNat)
  else
    let x := s.eng a.bits.toNat
    let w := (s.w.pendTok q).setTok q { ((s.w.pendTok q).tok q) with tl := true }
    if decide (b.bits.toNat ≤ x.tl) then .done (s.setW (w.readyTok q (BitVec.ofNat 32 x.tl) true))
    else .done ((s.setW w).setEng a.bits.toNat { x with watch := x.watch ++ [⟨s.w.id, q, b.bits.toNat⟩] })

def tlreadBody (d : BitVec 8) (e : Operand) (s : State) : Res :=
  let a := s.rdW e
  if !a.valid then .done (s.setW (s.w.wrPair d.toNat 0 false))
  else if !s.engOk a.bits.toNat then .trap s (engPerm a.bits.toNat)
  else .done (s.setW (s.w.wrPair d.toNat (s.eng a.bits.toNat).tl true))

/-! Requests (R305, R306). -/

/-- The fields that every request has. -/
structure EngReq where
  opn : Nat
  pad : Nat
  crec : Bool
  tag : Nat
  len : Nat
  src : Nat
  dst : Nat
  recIa : Nat
  own : List Byte
deriving DecidableEq, Repr

/-- A little-endian field of a byte list. -/
def fieldAt (bs : List Byte) (at_ n : Nat) : Nat := leNat ((bs.drop at_).take n)

def reqOf (bs : List Byte) : EngReq :=
  let h := fieldAt bs 0 4
  ⟨bits h 31 28, bits h 27 17, bit h 16, bits h 15 0, fieldAt bs 4 4, fieldAt bs 8 8, fieldAt bs 16 8, fieldAt bs 24 8,
    bs.drop 32⟩

/-- Local bytes of an IA span. -/
def iaSpan (ia n : Nat) : List (Nat × Nat) := (List.range n).map (fun k => ((ia + k) % 2 ^ 48, 0))

/-- Reads bytes at an IA for an engine. -/
def State.readIas (s : State) (p e ia n : Nat) : SpanRead := s.readRun p (some (.engine e)) ia n (iaSpan ia n) []

/-- Whether an IA span leaves the partition's IA space (R306, STATUS 2). -/
def outside (ia n : Nat) : Bool := decide (2 ^ 48 ≤ ia) || decide (2 ^ 48 < ia + n)

/-- The engine waits for its parked reads. -/
def State.engPark (s : State) (p e : Nat) (lines : List Nat) : State :=
  let r := s.parkReads p (.engine e) (s.eng e).ctx lines
  r.1.setEng e { (r.1.eng e) with waits := r.2 }


/-- What an operation has come to. -/
structure OpRes where
  status : Nat
  count : Nat
  val : Nat
  done : Nat
deriving DecidableEq, Repr

/-- Ends an operation: what its record will say (R306). ERR is set where no record will tell of a failure. -/
def State.engDone (s : State) (e : Nat) (q : EngReq) (r : OpRes) (waits : List Nat) : State :=
  let x := s.eng e
  let rec_ := q.crec && q.recIa % 32 == 0 && !outside q.recIa 32
  let r := if q.crec && q.recIa % 32 != 0 then { r with status := 1 } else r
  s.setEng e { x with
    req := none
    err := x.err || (r.status != 0 && !rec_)
    cur := some ⟨q.opn, rec_, q.tag, r.status, r.count, r.val, r.done, q.recIa⟩
    waits := waits
    sums := ⟨0, 0, false⟩ }

/-- The host record of an uncorrectable read by an engine, and STATUS 3. -/
def State.engBad (s : State) (p e : Nat) (ia : Nat) : State := s.dramError p (s.eng e).ctx ia

/-- Whether the memory of an engine's partition cannot be reached: its accesses are held while the partition is in Eclipse (R423). -/
def State.engHeld (s : State) (p : Nat) : Bool := (s.part p).power == .eclipse

/-- An engine whose read is complete drops the lines that it has been served; one that waits for more of them keeps them. -/
def State.engEnds (s : State) (p e : Nat) : State :=
  if (s.pendingAccs p).any (fun a => a.agent == .engine e && a.op == .read) then s else s.endRead (.engine e)

/-- Takes the next request of a context: reads it at its ring slot (R304, R305). A request that holds an uncorrectable byte is
done with STATUS 3 (R306); where that byte stands among the fields that name its record none is written (DESIGN CHOICE). -/
def State.takeReq (s : State) (e : Nat) : State :=
  let x := s.eng e
  let p := s.engPart e
  if !x.en || x.stop || x.req.isSome || x.cur.isSome || x.ridx == x.widx || !(s.outstanding p x.waits).isEmpty || s.engHeld p then s
  else
    let r := s.readIas p e (x.base + 64 * (x.ridx.toNat % 2 ^ x.rk)) 64
    let bs := (r.bytes ++ List.replicate 64 0).take 64
    match r.unfit with
    | l :: ls => r.st.engPark p e (l :: ls)
    | [] =>
      let s1 := (r.st.endRead (.engine e)).setEng e { (r.st.eng e) with
        req := some bs, ridx := x.ridx + 1, num := (x.num + 1) % 2 ^ 64, dedup := ⟨0, 0, 0, 0, false⟩, waits := [] }
      match r.stop with
      | some b =>
        let q := reqOf bs
        (s1.engBad p e b.addr).engDone e { q with crec := q.crec && decide (32 ≤ r.bytes.length) } ⟨3, 0, 0, 0⟩ []
      | none => s1

/-- Writes bytes at an IA for an engine. -/
def State.engWrite (s : State) (p e ia : Nat) (bs : List Byte) : State × List Nat :=
  s.agentWrite p (.engine e) (s.eng e).ctx ((iaSpan ia bs.length).zip bs |>.map (fun c => (c.1.1, c.2)))

/-- The checks common to all requests (R306): STATUS 1 and 2. A Cairn load by an index entry ignores LEN (R308). -/
def EngReq.refuse (q : EngReq) : Option Nat :=
  if q.pad != 0 || decide (4 < q.opn) || (decide (2 ^ 30 < q.len) && !(q.opn == 3 && fieldAt q.own 0 4 == 1))
      || (q.crec && q.recIa % 32 != 0) then some 1
  else if outside q.recIa 32 && q.crec then some 2
  else none

def zeros (bs : List Byte) : Bool := bs.all (fun b => b == 0)

/-- OPN 0: copies as from the source as it stood at the start (R308). -/
def State.opCopy (s : State) (p e : Nat) (q : EngReq) : State :=
  if !zeros q.own then s.engDone e q ⟨1, 0, 0, 0⟩ []
  else if outside q.src q.len || outside q.dst q.len then s.engDone e q ⟨2, 0, 0, 0⟩ []
  else
    let r := s.readIas p e q.src q.len
    match r.unfit with
    | l :: ls => r.st.engPark p e (l :: ls)
    | [] =>
      let w := r.st.engWrite p e q.dst r.bytes
      match r.stop with
      | some b => (w.1.engBad p e b.addr).engDone e q ⟨3, 0, 0, r.bytes.length⟩ w.2
      | none => w.1.engDone e q ⟨0, 0, 0, q.len⟩ w.2

/-- A chunk loop of checksum-copy: how far it is, its writes that have not performed, how it ended, and a read that must wait. -/
structure SumOp where
  st : State
  waits : List Nat
  sums : Sums
  res : Option OpRes
  park : List Nat
deriving DecidableEq, Repr

/-- Whether the chunks go on. -/
def SumOp.runs (a : SumOp) : Bool := a.res.isNone && a.park.isEmpty

/-- The next chunk is copied, unless it has been before a wait (R302, R308). -/
def SumOp.land (a : SumOp) (p e : Nat) (q : EngReq) (chunk : Nat) : SumOp :=
  if a.sums.copied then a
  else
    let o := a.sums.next * chunk
    let r := a.st.readIas p e (q.src + o) (Nat.min chunk (q.len - o))
    if !r.unfit.isEmpty then { a with st := r.st, park := r.unfit }
    else
      let w := (r.st.endRead (.engine e)).engWrite p e (q.dst + o) r.bytes
      match r.stop with
      | some b =>
        { a with st := w.1.engBad p e b.addr, waits := a.waits ++ w.2, res := some ⟨3, 0, a.sums.crc, o + r.bytes.length⟩ }
      | none => { a with st := w.1, waits := a.waits ++ w.2, sums := ⟨a.sums.next, crc32c r.bytes, true⟩ }

/-- The CRC of the chunk that has been copied is held against the expected one (R302, R308). -/
def SumOp.judge (a : SumOp) (p e : Nat) (q : EngReq) (chunk arr : Nat) : SumOp :=
  if !a.runs then a
  else
    let i := a.sums.next
    let done := Nat.min ((i + 1) * chunk) q.len
    let c := a.st.readIas p e (arr + 4 * i) 4
    let t := c.st.endRead (.engine e)
    if !c.unfit.isEmpty then { a with st := c.st, park := c.unfit }
    else
      match c.stop with
      | some b => { a with st := t.engBad p e b.addr, res := some ⟨3, 0, a.sums.crc, done⟩ }
      | none =>
        if leNat c.bytes = a.sums.crc then { a with st := t, sums := ⟨i + 1, a.sums.crc, false⟩ }
        else { a with st := t, res := some ⟨4, i, a.sums.crc, done⟩ }

/-- OPN 2 (R302, R308): chunk by chunk, each before the next is read, from memory to memory. -/
def State.opSum (s : State) (p e : Nat) (q : EngReq) : State :=
  let chunk := fieldAt q.own 0 4
  let arr := fieldAt q.own 8 8
  if fieldAt q.own 4 4 != 0 || !zeros (q.own.drop 16) || decide (chunk < 256) || decide (65536 < chunk)
      || 2 ^ Nat.log2 chunk != chunk then s.engDone e q ⟨1, 0, 0, 0⟩ []
  else if outside q.src q.len || outside q.dst q.len || outside arr (4 * chunksOf q.len chunk) then s.engDone e q ⟨2, 0, 0, 0⟩ []
  else
    let sums := (s.eng e).sums
    let a := (List.range (chunksOf q.len chunk - sums.next)).foldl (fun a _ =>
      if a.runs then (a.land p e q chunk).judge p e q chunk arr else a) (⟨s, [], sums, none, []⟩ : SumOp)
    match a.park, a.res with
    | l :: ls, _ =>
      let k := a.st.engPark p e (l :: ls)
      k.setEng e { (k.eng e) with sums := a.sums, waits := a.waits ++ (k.eng e).waits }
    | [], some r => a.st.engDone e q r a.waits
    | [], none => a.st.engDone e q ⟨0, 0, a.sums.crc, q.len⟩ a.waits

/-- Whether a Cairn range lies in enabled regions of a partition (R176, R426). -/
def State.cairnOk (s : State) (p off n : Nat) : Bool :=
  let rs := (s.part p).crgn.map (fun e => e.2.toNat)
  n == 0 || (decide (off + n ≤ 2 ^ 40)
    && (List.range ((off + n - 1) / 2 ^ 20 + 1 - off / 2 ^ 20)).all (fun k =>
      let m := off / 2 ^ 20 + k
      rs.any (fun r => bit r 0 && decide (bits r 23 4 ≤ m) && decide (m ≤ bits r 43 24))))

/-- OPN 3 (R308): a load from Cairn, of a tile by its index entry where IDX = 1. An OFFSET that is no multiple of 16 is taken as it
stands (DESIGN CHOICE, as for the indexed COPY). -/
def State.opCairn (s : State) (p e : Nat) (q : EngReq) : State :=
  let idx := fieldAt q.own 0 4
  let at_ := q.src + 8 * fieldAt q.own 4 4
  if decide (1 < idx) || !zeros (q.own.drop 8) then s.engDone e q ⟨1, 0, 0, 0⟩ []
  else if decide (2 ^ 40 ≤ q.src) || (idx == 1 && !s.cairnOk p at_ 8) then s.engDone e q ⟨2, 0, 0, 0⟩ []
  else
    let ent := leNat (Mem.readN s.cairn at_ 8)
    let from_ := if idx = 1 then q.src + bits ent 39 0 else q.src
    let n := if idx = 1 then bits ent 63 40 else q.len
    if !s.cairnOk p from_ n || outside q.dst n then s.engDone e q ⟨2, 0, 0, 0⟩ []
    else
      let w := s.engWrite p e q.dst (Mem.readN s.cairn from_ n)
      w.1.engDone e q ⟨0, 0, 0, n⟩ w.2

/-- Bits of an element in memory (R71). -/
def elemBits (t : ElemType) : Nat := if t = .e2m1 then 4 else 8 * typeBytes t

/-- Formats of convert (R308). -/
def convType (n : Nat) : Option ElemType :=
  match typeOf n with
  | some t => if t == .b32 || wide64 t || t == .e8m0 then none else some t
  | none => none

/-- Elements of a format from bytes in memory (R71); bits [7:6] of a t6 byte are ignored. -/
def unpackElems (t : ElemType) (n : Nat) (bs : List Byte) : List Nat :=
  let w := elemBits t
  (List.range n).map (fun k =>
    if w = 4 then (bs.getD (k / 2) 0).toNat / 16 ^ (k % 2) % 16
    else if t = .t6 then (bs.getD k 0).toNat % 64
    else fieldAt bs (k * (w / 8)) (w / 8))

/-- Bytes in memory of element codes (R71). After an odd number of e2m1 elements bits [7:4] of the last byte are 0 (DESIGN
CHOICE: the manual does not say what they become). -/
def packElems (t : ElemType) (cs : List Nat) : List Byte :=
  let w := elemBits t
  if w = 4 then
    (List.range ((cs.length + 1) / 2)).map (fun k =>
      BitVec.ofNat 8 (cs.getD (2 * k) 0 % 16 + 16 * (cs.getD (2 * k + 1) 0 % 16)))
  else cs.flatMap (fun c => leBytes (w / 8) (c % 2 ^ w))

/-- The rounding mode of a code. -/
def rndOfNat (n : Nat) : Rnd :=
  match n with
  | 0 => .rne
  | 1 => .rz
  | 2 => .rup
  | _ => .rdn

/-- Codes, causes and scales of a list of elements converted without a scale (R79, of which only CVT is exempt, R124) or block
by block (R83). Integers are scaled as they stand and rounded once, and a last block of fewer elements has a scale of its own
(DESIGN CHOICES: the manual speaks of values of f32, and of whole blocks). -/
def convElems (sf df : ElemType) (rnd : Rnd) (blk : Option Nat) (vs : List Nat) : List (Nat × Nat) × List Nat :=
  match blk with
  | none => (vs.map (fun v => convert df rnd 0 (decodeElem sf v)), [])
  | some L =>
    let xs := vs.map (decodeElem sf)
    let bs := (List.range ((vs.length + L - 1) / L)).map (fun b => (xs.drop (b * L)).take L)
    let sc := bs.map (blockScale df)
    ((bs.zip sc).flatMap (fun q => q.1.map (fun v => blockElem df rnd 0 q.2.1 q.2.2 v)), sc.map (·.1))

/-- OPN 1 (R308, R309). -/
def State.opConvert (s : State) (p e : Nat) (q : EngReq) : State :=
  let f := fieldAt q.own 0 4
  let cap := fieldAt q.own 4 4
  let exl := fieldAt q.own 8 8
  let sca := fieldAt q.own 16 8
  match convType (bits f 4 0), convType (bits f 9 5) with
  | some sf, some df =>
    let L := 8 * 2 ^ bits f 14 13
    let scl := bit f 15 && blkTypes.contains df
    let blk := if scl then some L else none
    let nb := (q.len * elemBits sf + 7) / 8
    if bits f 31 16 != 0 || decide (3 < bits f 12 10) || bits f 14 13 == 3 || !zeros (q.own.drop 24) || decide (2 ^ 24 < q.len) then
      s.engDone e q ⟨1, 0, 0, 0⟩ []
    else if outside q.src nb || outside q.dst ((q.len * elemBits df + 7) / 8) || (cap != 0 && outside exl (8 * cap))
        || (scl && outside sca ((q.len + L - 1) / L)) then s.engDone e q ⟨2, 0, 0, 0⟩ []
    else
      let r := s.readIas p e q.src nb
      match r.unfit, r.stop with
      | l :: ls, _ => r.st.engPark p e (l :: ls)
      | [], some b => (r.st.engBad p e b.addr).engDone e q ⟨3, 0, 0, 0⟩ []
      | [], none =>
        let vs := unpackElems sf q.len r.bytes
        let c := convElems sf df (rndOfNat (bits f 12 10)) blk vs
        let out := packElems df (c.1.map (·.1))
        let met := ((List.range q.len).zip (c.1.zip vs)).filter (fun x => x.2.1.2 != 0)
        let ents := (met.take cap).flatMap (fun x => leBytes 8 (x.1 + x.2.1.2 * 2 ^ 24 + x.2.2 * 2 ^ 32))
        let w1 := r.st.engWrite p e q.dst out
        let w2 := w1.1.engWrite p e sca (c.2.map (fun x => BitVec.ofNat 8 x))
        let w3 := w2.1.engWrite p e exl ents
        w3.1.engDone e q ⟨if cap < met.length then 5 else 0, met.length, 0, out.length⟩ (w1.2 ++ w2.2 ++ w3.2)
  | _, _ => s.engDone e q ⟨1, 0, 0, 0⟩ []

/-! Dedup-copy (R310, R352, R353, R430). -/

/-- The fold fingerprint of a page (R310). -/
def foldPage (bs : List Byte) : Nat :=
  (List.range 512).foldl (fun h i =>
    Nat.xor ((h * 2) % 2 ^ 64 + h / 2 ^ 63) (fieldAt bs (8 * i) 8)) 0

/-- The physical address of the entry at which a walk stops (R341). -/
def pteFrom (s : State) (p ia : Nat) : Nat → Nat → Nat
  | 0, table => table
  | n + 1, table =>
    let a := table + 8 * bits ia (20 + 9 * n) (12 + 9 * n)
    match judge s p ia n (s.rdPhys a 8) with
    | .inl _ => a
    | .inr t => pteFrom s p ia n t

def State.pteAt (s : State) (p ia : Nat) : Nat := pteFrom s p ia 4 (bits (s.part p).ptroot 39 12 * 4096)

/-- What a shoot-down does to a range of pages (R349), under the translation in force before it: update-only lines are merged,
modified L2 lines are written back, with their tags, and all are dropped; then the MTUs forget the pages, and the page-kind
caches of the partition are cleared. -/
def State.shootPages (s : State) (p page n : Nat) : State :=
  let inR (k : Nat) : Bool := decide (page ≤ k) && decide (k < page + n)
  let shoots := (s.part p).shoots
  let s1 := s.setPart p { (s.part p) with shoots := [] }
  let lines := (Tab.keys s1.cores).flatMap (fun c =>
    if s1.ownerOf (sliceOf c) == p then ((s1.core c).upd.filter (fun u => inR (u.ia / 4096))).map (fun u => u.ia / 128) else [])
  let s2 := lines.foldl (fun s l => s.recall p l) s1
  let back := ((s2.part p).l2.filter (fun e => e.dirty && inR (e.line / 32))).foldl (fun s e => s.writeBack p e.line) s2
  let x := back.part p
  let s3 := { back.setPart p (Partn.forget { x with
    l2 := x.l2.filter (fun e => !inR (e.line / 32)), shoots := shoots } page n) with
    sram := back.sram.filter (fun b => !x.l2.any (fun e => inR (e.line / 32) && b.inLine e.pa)) }
  (Tab.keys s3.cores).foldl (fun s c =>
    if s.ownerOf (sliceOf c) == p then s.setCore c { (s.core c) with kinds := [] } else s) s3

/-- A dedup entry. -/
structure DEnt where
  i : Nat
  fp : Nat
  refc : Nat
  frame : Nat
  used : Bool
deriving DecidableEq, Repr

def dentOf (i : Nat) (bs : List Byte) : DEnt :=
  let w := fieldAt bs 8 8
  ⟨i, fieldAt bs 0 8, bits w 63 40, bits w 39 12, bit w 0⟩

/-- The entries of a probe window up to the first unused one (R352). -/
def probeList (es : List DEnt) : List DEnt :=
  es.takeWhile (fun x => x.used) ++ (es.filter (fun x => !x.used)).take 1

/-- What the search of a probe window has come to (R310, R352): entries that wait for their page, an uncorrectable error at an
IA or in a compared frame, an entry whose frame equals the page, or none. -/
inductive Probe where
  | park (ias : List Nat)
  | bad (ia : Nat)
  | badFrame (pa : Nat)
  | hit (d : DEnt)
  | miss
deriving DecidableEq, Repr

/-- The physical address of a byte of an L2 line. -/
def SramByte.l2Pa (b : SramByte) : Option Nat :=
  match b with
  | .l2 pa => some pa
  | .l1 _ _ | .buf _ _ _ _ | .grid _ _ _ => none

/-- The host record of an uncorrectable error in a compared frame: of the L2 line that holds it, or of device memory (R310, R419). -/
def State.frameRecord (s : State) (p ctx pa : Nat) : State :=
  if s.sram.contains (.l2 pa) then
    let slice := (((s.part p).l2.find? (fun e => e.pa / 128 == pa / 128)).map (fun e => s.home p (e.line * 128))).getD 0
    s.hostError 3 p (.l2Slice slice) ctx pa 1
  else s.hostError 4 p (.channel (channelOf pa)) ctx pa 1

/-- Searches the entries of a window in probe order for one whose frame equals a page. -/
def State.probe (s : State) (fp : Nat) (page : List Byte) : List (DEnt × SpanRead) → Probe
  | [] => .miss
  | (d, r) :: t =>
    match r.unfit, r.stop with
    | l :: ls, _ => .park (l :: ls)
    | [], some b => .bad b.addr
    | [], none =>
      if !d.used then .miss
      else if d.refc == 0 || d.fp != fp then s.probe fp page t
      else
        match (s.ecc ++ s.sram.filterMap SramByte.l2Pa).find? (fun a => a / 4096 == d.frame) with
        | some a => .badFrame a
        | none => if Mem.readN s.mem (d.frame * 4096) 4096 == page then .hit d else s.probe fp page t

/-- The result of a page (R310): frame now mapped, outcome, frame replaced. -/
def dedupResult (frame outcome repl : Nat) : List Byte := leBytes 8 (frame * 4096 + outcome) ++ leBytes 8 (repl * 4096)

/-- Ends a page of a dedup-copy, whose writes that have not performed are awaited. -/
def State.dedupNext (s : State) (e : Nat) (waits : List Nat) (f : Dedup → Dedup) : State :=
  let x := s.eng e
  s.setEng e { x with dedup := { f x.dedup with page := x.dedup.page + 1 }, waits := waits }

/-- The first and the last byte of each write, by its IA and its length, whose page does not admit it. -/
def State.unfitWrites (s : State) (p : Nat) (ws : List (Nat × Nat)) : List Nat :=
  ((ws.flatMap (fun w => [w.1, w.1 + w.2 - 1])).eraseDups).filter (fun ia => (s.xlate p ia).2.reason true != 0)

/-- Parks writes that the engine cannot make yet; it tries the page again once the replay has made them fit. -/
def State.engParkWrites (s : State) (p e : Nat) (ias : List Nat) : State :=
  let r := ias.foldl (fun (acc : State × List Nat) ia =>
    let x := acc.1.xlate p ia
    let k := x.1.parkNew p (.engine e) (x.1.eng e).ctx ia (.write []) x.2 true
    (k.1, acc.2 ++ [k.2])) (s, [])
  r.1.setEng e { (r.1.eng e) with waits := r.2 }

/-- Reads of `n` bytes for an engine, one after another. -/
def State.readEach (s : State) (p e n : Nat) : List Nat → State × List SpanRead
  | [] => (s, [])
  | ia :: t =>
    let r := s.readIas p e ia n
    let q := r.st.readEach p e n t
    (q.1, r :: q.2)

/-- One page of a dedup-copy: its search, its table and page-table writes, its shoot-down and its result. A remap counts as the
32 lines of the page, each at the node that its home slice takes (R364, R365, R373). -/
def State.dedupPage (s : State) (p e : Nat) (q : EngReq) (dt res nb : Nat) : State :=
  let k := (s.eng e).dedup.page
  let src := s.readIas p e (q.src + 4096 * k) 4096
  let dst := q.dst + 4096 * k
  let out := res + 16 * k
  let fp := foldPage src.bytes
  let ents := (List.range 8).map (fun n => (fp % 2 ^ nb + n) % 2 ^ nb)
  let at_ (i : Nat) : Nat := dt + 64 + 16 * i
  let rd := src.st.readEach p e 16 (ents.map at_)
  let seen := (ents.zip rd.2).map (fun x => (dentOf x.1 x.2.bytes, x.2))
  let s1 := rd.1
  let small := match s1.walk p dst with | .leaf l => l.size == 4096 | .stop _ _ _ => false
  let curFrame := match s1.walk p dst with | .leaf l => l.frame / 4096 | .stop _ _ _ => 0
  let free := (probeList (seen.map (·.1))).find? (fun d => !d.used || d.refc == 0)
  let entry (refc frame : Nat) : List Byte := leBytes 8 fp ++ leBytes 8 (refc % 2 ^ 24 * 2 ^ 40 + frame * 4096 + 1)
  let found : Probe :=
    match src.unfit, src.stop with
    | l :: ls, _ => .park (l :: ls)
    | [], some b => .bad b.addr
    | [], none => s1.probe fp src.bytes seen
  let failed (s : State) : State :=
    let w := s.engWrite p e out (dedupResult curFrame 3 0)
    w.1.dedupNext e w.2 (fun d => { d with err := true })
  match found with
  | .park ls => s1.engPark p e ls
  | .bad ia =>
    match s1.unfitWrites p [(out, 16)] with
    | u :: us => s1.engParkWrites p e (u :: us)
    | [] => failed (s1.engBad p e ia)
  | .badFrame pa =>
    match s1.unfitWrites p [(out, 16)] with
    | u :: us => s1.engParkWrites p e (u :: us)
    | [] => failed (s1.frameRecord p (s1.eng e).ctx pa)
  | .hit _ | .miss =>
      let hit := match found with | .hit d => if small then some d else none | _ => none
      let wrEnt := match hit, free with | some d, _ => [(at_ d.i, 16)] | none, some d => [(at_ d.i, 16)] | none, none => []
      match s1.unfitWrites p (wrEnt ++ [(dst, 4096), (out, 16)]) with
      | u :: us => s1.engParkWrites p e (u :: us)
      | [] =>
        let pte := s1.pteAt p dst
        let old := s1.rdPhys pte 8
        let cow (x : Nat) : Nat := if bit x 9 then x else x + 2 ^ 9
        match hit with
        | some d =>
          let w1 := s1.engWrite p e (at_ d.i) (entry (d.refc + 1) d.frame)
          let s3 := (w1.1.shootPages p (dst / 4096) 1).wrPhys pte
            (leBytes 8 (cow (bits old 63 40 * 2 ^ 40 + d.frame * 4096 + bits old 11 0)))
          let node (k : Nat) : Nat := match s1.walk p dst with | .leaf l => s1.lineNode p (dst / 128 + k) l | .stop _ _ _ => 0
          let s4 := (List.range 32).foldl (fun s k => s.bump p (node k) 1) s3
          let w2 := s4.engWrite p e out (dedupResult d.frame 1 (bits old 39 12))
          w2.1.dedupNext e (w1.2 ++ w2.2) (fun x => { x with shared := x.shared + 1 })
        | none =>
          let w1 := s1.engWrite p e dst src.bytes
          let s3 := (w1.1.shootPages p (dst / 4096) 1).wrPhys pte (leBytes 8 (cow old))
          let w2 := match free with | some d => s3.engWrite p e (at_ d.i) (entry 1 curFrame) | none => (s3, [])
          let w3 := w2.1.engWrite p e out (dedupResult curFrame (if free.isSome then 0 else 2) 0)
          w3.1.dedupNext e (w1.2 ++ w2.2 ++ w3.2) (fun x => { x with copied := x.copied + 1 })

/-- The header of a dedup table (R352): NB, where it is one and the table lies in the IA space. -/
def State.dedupHeader (s : State) (p e : Nat) (q : EngReq) (dt : Nat) : State :=
  let h := s.readIas p e dt 64
  match h.unfit, h.stop with
  | l :: ls, _ => h.st.engPark p e (l :: ls)
  | [], some b => (h.st.engBad p e b.addr).engDone e q ⟨3, 0, 0, 0⟩ []
  | [], none =>
    let nb := fieldAt h.bytes 4 4
    if fieldAt h.bytes 0 4 != 0x44544431 || decide (nb < 4) || decide (24 < nb) || !zeros (h.bytes.drop 8) then
      h.st.engDone e q ⟨1, 0, 0, 0⟩ []
    else if outside dt (64 + 16 * 2 ^ nb) then h.st.engDone e q ⟨2, 0, 0, 0⟩ []
    else h.st.setEng e { (h.st.eng e) with dedup := { (h.st.eng e).dedup with nb := nb } }

/-- OPN 4: the header once, then one page at each turn (R310, R430). A one-page shoot-down waits for those started before it (R349). -/
def State.opDedup (s : State) (p e : Nat) (q : EngReq) : State :=
  let dt := fieldAt q.own 0 8
  let res := fieldAt q.own 8 8
  if q.src % 4096 != 0 || q.dst % 4096 != 0 || q.len % 4096 != 0 || !zeros (q.own.drop 16) then s.engDone e q ⟨1, 0, 0, 0⟩ []
  else if outside q.src q.len || outside q.dst q.len || outside dt 64 || outside res (16 * (q.len / 4096)) then
    s.engDone e q ⟨2, 0, 0, 0⟩ []
  else
    let d := (s.eng e).dedup
    if d.nb = 0 then s.dedupHeader p e q dt
    else if q.len / 4096 ≤ d.page then s.engDone e q ⟨if d.err then 3 else 0, d.shared, 0, 4096 * d.copied⟩ []
    else if !(s.part p).shoots.isEmpty then s
    else s.dedupPage p e q dt res d.nb

/-- An engine context takes its next request and performs it where its OPN is one that `want` admits. -/
def State.engStep (s : State) (e : Nat) (want : Nat → Bool) (op : State → Nat → Nat → EngReq → State) : State :=
  let s1 := s.takeReq e
  let p := s1.engPart e
  match (s1.eng e).req with
  | none => s1
  | some bs =>
    let q := reqOf bs
    if !want q.opn || !(s1.outstanding p (s1.eng e).waits).isEmpty || s1.engHeld p then s1
    else
      match q.refuse with
      | some st => s1.engDone e q ⟨st, 0, 0, 0⟩ []
      | none => (op s1 p e q).engEnds p e

/-- Completes a request: the record, then TL (R306, R307). -/
def State.engFinish (s : State) (e : Nat) : State :=
  let x := s.eng e
  let p := s.engPart e
  match x.cur with
  | none => s
  | some r =>
    if !(s.outstanding p x.waits).isEmpty || s.engHeld p then s
    else
      let end_ (s : State) : State := (s.setEng e { (s.eng e) with cur := none, waits := [] }).raiseTl e x.num
      if !r.crec then end_ s
      else
        let w := s.engWrite p e r.recIa (completionRecord r.opn r.tag r.status r.count x.num r.val r.done)
        match w.2 with
        | [] => end_ w.1
        | ids => w.1.setEng e { (w.1.eng e) with cur := some { r with crec := false }, waits := ids }

def execXkick (h : Hdr) (e v : Operand) (s : State) : Out := issue (.xkick h e v) s (xkickBody e v)
def execTlwait (h : Hdr) (e v : Operand) (s : State) : Out := issue (.tlwait h e v) s (tlwaitBody e v)
def execTlwaitToken (h : Hdr) (e v : Operand) (tok : BitVec 4) (s : State) : Out :=
  issue (.tlwaitToken h e v tok) s (tlwaitTokenBody e v tok)
def execTlread (h : Hdr) (d : BitVec 8) (e : Operand) (s : State) : Out := issue (.tlread h d e) s (tlreadBody d e)

/-- Copy requests; a reserved OPN is refused here (R305, R306). -/
def execEngineCopy (e : Nat) (s : State) : Out := .next (s.engStep e (fun n => n == 0 || decide (4 < n)) State.opCopy)
def execConvert (e : Nat) (s : State) : Out := .next (s.engStep e (fun n => n == 1) State.opConvert)
def execChecksumCopy (e : Nat) (s : State) : Out := .next (s.engStep e (fun n => n == 2) State.opSum)
def execCairnLoad (e : Nat) (s : State) : Out := .next (s.engStep e (fun n => n == 3) State.opCairn)
def execDedupCopy (e : Nat) (s : State) : Out := .next (s.engStep e (fun n => n == 4) State.opDedup)
def execRequestComplete (e : Nat) (s : State) : Out := .next (s.engFinish e)

end Sys2Proof.Machine
end

