-- ==== Sys2Proof/Machine/Matrix.lean ====
section
/-! DEFINITION. The belay core's matrix instructions (R214 to R234), the entropy decoder (R236 to R245) and block dot
products (R84, R85). -/

namespace Sys2Proof.Machine

/-! Block dot products. -/

/-- The exponent of the quantum q of a block with P planes (R84). -/
def alignExp (t : ElemType) (P : Nat) (xs : List XVal) : Int :=
  match intFmt t with
  | some (W, _) => ((W - P : Nat) : Int)
  | none =>
    let es := xs.filterMap (fun x => match x with | .fin _ n d => if n = 0 then none else some (floorLog2 n d) | _ => none)
    match es with
    | [] => 0
    | e :: r => r.foldl (fun a b => if a < b then b else a) e - P + 1

/-- The signed multiple of q that an element is truncated to (R84). -/
def alignMul (e : Int) (x : XVal) : Int :=
  match x with
  | .fin neg n d => signedNum neg (if e < 0 then n * 2 ^ e.natAbs / d else n / (d * 2 ^ e.natAbs))
  | _ => 0

/-- The contribution of a block to an accumulator, as an f32 code (R85). -/
def blockDot (ta tb : ElemType) (pa pb xa xb : Nat) (as bs : List XVal) : Nat :=
  let ps := as.zip bs
  let infs := ps.filter (fun p => p.1.isInf || p.2.isInf)
  let neg (p : XVal × XVal) : Bool := p.1.neg? != p.2.neg?
  if ps.any (fun p => p.1.isNan || p.2.isNan) || xa == 255 || xb == 255 || infs.any (fun p => p.1.isZero || p.2.isZero)
      || (infs.any neg && infs.any (fun p => !neg p)) then nanCode .f32
  else if infs.any neg then roundArith .f32 .rne 0 (.inf true)
  else if !infs.isEmpty then roundArith .f32 .rne 0 (.inf false)
  else
    let ea := alignExp ta pa as
    let eb := alignExp tb pb bs
    let S := ps.foldl (fun a p => a + alignMul ea p.1 * alignMul eb p.2) (0 : Int)
    roundArith .f32 .rne 0 (XVal.dyadic (decide (S < 0)) S.natAbs (ea + eb + xa + xb - 254))

/-! Operands in the buffers. -/

/-- The code of element `k` of row `i` of a bit-plane operand (R167). -/
def planeCode (m : Mem) (l : Lay) (w i k : Nat) : Nat :=
  sumNat ((List.range w).map (fun j =>
    b2n (bit (leNat (Mem.readN m (l.base + k / 32 * l.bs + i * l.rs + j * l.ps) 4)) (k % 32)) * 2 ^ j))

/-- Row `i` of `n` codes. -/
def planeRow (m : Mem) (l : Lay) (w i n : Nat) : List Nat := (List.range n).map (planeCode m l w i)

/-- A C element (R218). -/
def cWord (m : Mem) (l : Lay) (i j : Nat) : Nat := leNat (Mem.readN m (l.base + i * l.rs + 4 * j) 4)

/-- Writes an M × N tile of C. -/
def cWrite (m : Mem) (l : Lay) (M N : Nat) (f : Nat → Nat → Nat) : Mem :=
  (List.range M).foldl (fun m i => Mem.writeN m (l.base + i * l.rs) ((List.range N).flatMap (fun j => leBytes 4 (f i j)))) m

/-- The type of a code of R219; the set is checked before a job is dispatched. -/
def matType (n : Nat) : ElemType := (typeOf n).getD .e4m3

/-- Types that a matrix operand may have (R219). -/
def matTypes : List ElemType := [.e4m3, .e5m2, .e2m1, .t8, .t6, .i8, .n8, .f16, .bf16, .i16, .n16]

/-- A dense row from its stored codes and their positions within groups of 48 (R227). -/
def denseRow (k ns : Nat) (codes pos : List Nat) : List Nat :=
  (List.range k).map (fun e =>
    match (List.range ns).find? (fun v => pos.getD (e / 48 * ns + v) 48 == e % 48) with
    | some v => codes.getD (e / 48 * ns + v) 0
    | none => 0)

/-- Whether the positions of a row are legal (R227). -/
def posOk (ns : Nat) (pos : List Nat) : Bool :=
  (List.range pos.length).all (fun x =>
    decide (pos.getD x 48 < 48) && (x % ns == 0 || decide (pos.getD (x - 1) 0 < pos.getD x 0)))

/-- The result element: blocks in ascending order (R226). -/
def dotRow (f : Fmt) (xa xb : Nat → Nat) (a b : List Nat) (acc : Nat) : Nat :=
  let L := blockOf f.la
  let ta := matType f.ta
  let tb := matType f.tb
  (List.range (f.k / L)).foldl (fun acc k =>
    addF32 .rne acc (blockDot ta tb f.pa f.pb (xa k) (xb k)
      (((a.drop (k * L)).take L).map (decodeElem ta)) (((b.drop (k * L)).take L).map (decodeElem tb)))) acc

/-- The product of A and the given rows of B, accumulated into the columns `lo` to `hi - 1` of C (R226, R246). -/
def matMul (g : Grp) (d a : Lay) (f : Fmt) (lo hi : Nat) (rows : List (List Nat)) : Grp :=
  let nk := f.k / blockOf f.la
  let scl (on : Bool) (m : Mem) (off r k : Nat) : Nat := if on then (Mem.read m (off + r * nk + k)).toNat else 127
  let as := (List.range f.m).map (fun i => planeRow g.ab a (planeWidth f.ta) i f.k)
  { g with cb := cWrite g.cb d f.m f.n (fun i j =>
      if lo ≤ j ∧ j < hi then
        dotRow f (scl f.sclA g.ab f.sa i) (scl f.sclB g.wb f.sb j) (as.getD i []) (rows.getD j []) (cWord g.cb d i j)
      else cWord g.cb d i j) }

/-! The entropy decoder (R237 to R245). -/

/-- A fault of a matrix instruction on a core: cause, subcause, segment, and offset of the header or image. -/
structure MatBad where
  cause : Cause
  sub : Nat
  seg : Nat
  off : Nat
deriving DecidableEq, Repr

/-- The entries of a table image, where it is well formed (R237). -/
def tableImage (m : Mem) (off size : Nat) : Option (Tab Nat) :=
  let w (k : Nat) : Nat := leNat (Mem.readN m (off + 4 * k) 4)
  let n := w 0
  if decide (size < off + 4) || n == 0 || decide (256 < n) || decide (size < off + 4 + 4 * n) then none
  else
    let es := (List.range n).map (fun k => w (k + 1))
    let t : Tab Nat := es.map (fun e => (bits e 7 0, bits e 19 8))
    let asc := (List.range (n - 1)).all (fun k => decide ((t.getD k (0, 0)).1 < (t.getD (k + 1) (0, 0)).1))
    if es.all (fun e => bits e 31 20 == 0 && bits e 19 8 != 0) && asc && sumNat (t.map (·.2)) == 4096 then some t else none

/-- A slot whose table image is malformed keeps its frequencies (R239). -/
def DSlot.spoil (d : DSlot) : DSlot :=
  match d with
  | .empty => .malformed []
  | .loaded f | .malformed f => .malformed f

/-- The symbol at a slot of the cumulative table: symbol, frequency, cumulative frequency (R244). -/
def symAt : Tab Nat → Nat → Nat → Nat × Nat × Nat
  | [], _, c => (256, 1, c)
  | (y, f) :: r, t, c => if t < c + f then (y, f, c) else symAt r t (c + f)

/-- Takes a byte while the state is below 2^23 (R244): at most two bytes ever are. -/
def renorm : Nat → Nat → List Byte → Option (Nat × List Byte)
  | 0, x, bs => some (x, bs)
  | n + 1, x, bs =>
    if x < 2 ^ 23 then
      match bs with
      | [] => none
      | b :: r => renorm n (x * 256 + b.toNat) r
    else some (x, bs)

/-- The codes of a segment, or its cause (R244, R245). -/
def segCodes (t : Tab Nat) (w : Nat) : Nat → Nat → List Byte → List Nat ⊕ Nat
  | 0, x, bs => if x != 2 ^ 23 then .inr 8 else if bs.isEmpty then .inl [] else .inr 9
  | n + 1, x, bs =>
    let q := symAt t (x % 4096) 0
    if 2 ^ w ≤ q.1 then .inr 10
    else
      match renorm 3 (q.2.1 * (x / 4096) + x % 4096 - q.2.2) bs with
      | none => .inr 7
      | some r =>
        match segCodes t w n r.1 r.2 with
        | .inl cs => .inl (q.1 :: cs)
        | .inr c => .inr c

/-- Decodes one segment (R244). -/
def decodeSegment (t : Tab Nat) (w n : Nat) (bs : List Byte) : List Nat ⊕ Nat :=
  let x := leNat (bs.take 4)
  if x < 2 ^ 23 || 2 ^ 31 ≤ x then .inr 6 else segCodes t w n x (bs.drop 4)

/-- All segments in order: the codes, or the lowest failing one (R245). -/
def decodeSegments (t : Tab Nat) (w : Nat) (body : Nat → List Byte) (count : Nat → Nat) : List Nat → List Nat ⊕ (Nat × Nat)
  | [] => .inl []
  | s :: r =>
    match decodeSegment t w (count s) (body s), decodeSegments t w body count r with
    | .inr c, _ => .inr (c, s)
    | .inl _, .inr e => .inr e
    | .inl a, .inl b => .inl (a ++ b)

/-- The codes of a tile from segment `start` on, or the fault that the core finds (R241 to R246). -/
def tileCodes (g : Grp) (base size w need start : Nat) : List Nat ⊕ MatBad :=
  let rd (o : Nat) : Nat := leNat (Mem.readN g.wb (base + o) 4)
  let mal (c s : Nat) : List Nat ⊕ MatBad := .inr ⟨.malformed, c, s, base⟩
  let h := rd 4
  let segc := bits h 5 0 + 1
  let syms := rd 8
  let rint := rd 12
  let tlen := rd 16
  let H := 20 + 4 * segc
  let off (s : Nat) : Nat := rd (20 + 4 * s)
  let fin (s : Nat) : Nat := if s + 1 = segc then tlen else off (s + 1)
  if rd 0 != 0x5A4E5331 then mal 1 0
  else
    match g.ds.getD (bits h 7 6) .empty with
    | .empty | .malformed _ => mal 3 0
    | .loaded t =>
      if bits h 31 8 != 0 || rint == 0 || decide (syms ≤ (segc - 1) * rint) || decide (segc * rint < syms)
          || decide (tlen < H) || decide (size < base + tlen) then mal 4 0
      else if syms != need then .inr ⟨.matfault, 2, 0, 0⟩
      else
        let bad (s : Nat) : Bool := (s == 0 && off 0 != H) || decide (fin s < off s + 4) || (s + 1 == segc && decide (tlen < off s + 4))
        match (List.range segc).find? bad with
        | some s => mal 5 s
        | none =>
          match decodeSegments t w (fun s => Mem.readN g.wb (base + off s) (fin s - off s))
              (fun s => Nat.min ((s + 1) * rint) syms - s * rint) ((List.range segc).drop start) with
          | .inl cs => .inl cs
          | .inr e => mal e.1 e.2

/-! Performing a matrix instruction on one core. -/

/-- Segments and codes per segment of the tile that an MMAE reads (R241). -/
def MatJob.segs (j : MatJob) (g : Grp) : Nat := bits (leNat (Mem.readN g.wb ((layOf j.b).base + 4) 4)) 5 0 + 1
def MatJob.rint (j : MatJob) (g : Grp) : Nat := leNat (Mem.readN g.wb ((layOf j.b).base + 12) 4)

/-- The columns of C that the segments before `s` make, where `s` begins a row (R246). -/
def MatJob.cols (j : MatJob) (g : Grp) (s : Nat) : Nat := s * j.rint g / storedK j.op (fmtOf j.fmt)

/-- The rows of B, dense (R226 to R228), or the fault. An MMAE that starts at segment `start` decodes none of the rows before
it. -/
def MatJob.rows (j : MatJob) (g : Grp) (size start : Nat) : List (List Nat) ⊕ MatBad :=
  let f := fmtOf j.fmt
  let b := layOf j.b
  let w := planeWidth f.tb
  let kr := storedK j.op f
  let stored : List (List Nat) ⊕ MatBad :=
    if isMmae j.op then
      match tileCodes g b.base size w (f.n * kr) start with
      | .inr e => .inr e
      | .inl cs =>
        let lo := j.cols g start
        .inl (List.replicate lo [] ++ (List.range (f.n - lo)).map (fun r => (cs.drop (r * kr)).take kr))
    else .inl ((List.range f.n).map (fun r => planeRow g.wb b w r kr))
  match sparseOf j.op with
  | none => stored
  | some ns =>
    let pos (r : Nat) : List Nat := (Mem.readN g.wb (f.pos + r * kr) kr).map (·.toNat)
    match stored with
    | .inr e => .inr e
    | .inl rs =>
      if (List.range f.n).all (fun r => posOk ns (pos r)) then
        .inl ((List.range f.n).map (fun r => denseRow f.k ns (rs.getD r []) (pos r)))
      else .inr ⟨.matfault, 1, 0, 0⟩

/-- MCVT on a core: the group after it and the conversions that met a cause (R231). -/
def mcvtOn (g : Grp) (d c : Lay) (f : Fmt) (rnd : Rnd) : Grp × Nat :=
  let t := matType f.ta
  let w := planeWidth f.ta
  let L := blockOf f.la
  let row (i : Nat) : List (Nat × Nat) × List Nat :=
    convElems' t rnd (if f.sclA then some L else none) ((List.range f.n).map (cWord g.cb c i))
  let one (acc : Mem × Nat) (i : Nat) : Mem × Nat :=
    let r := row i
    let m := Mem.writeN acc.1 (f.sa + i * (f.n / L)) (r.2.map (fun x => BitVec.ofNat 8 x))
    let codes := r.1.map (fun x => x.1 % 2 ^ w)
    let m := (List.range (kGroups f.n)).foldl (fun m q =>
      (List.range w).foldl (fun m j =>
        Mem.writeN m (d.base + q * d.bs + i * d.rs + j * d.ps) (leBytes 4 (planeWord ((codes.drop (32 * q)).take 32) j))) m) m
    (m, acc.2 + (r.1.filter (fun x => x.2 == 1 || x.2 == 2 || x.2 == 3)).length)
  let r := (List.range f.m).foldl one (g.ab, 0)
  ({ g with ab := r.1 }, r.2)
where
  convElems' (t : ElemType) (rnd : Rnd) (blk : Option Nat) (vs : List Nat) : List (Nat × Nat) × List Nat :=
    match blk with
    | none => (vs.map (fun v => cvtElem t .f32 rnd 0 v), [])
    | some L =>
      let xs := vs.map (decodeElem .f32)
      let bs := (List.range (vs.length / L)).map (fun b => (xs.drop (b * L)).take L)
      let sc := bs.map (blockScale t)
      ((bs.zip sc).flatMap (fun q => q.1.map (fun v => blockElem t rnd 0 q.2.1 q.2.2 v)), sc.map (·.1))

/-- What a job does on a core: the group after it, conversions that met a cause, and a fault. An MMAE starts at segment
`start` (R246). -/
def MatJob.on (j : MatJob) (l : Launch) (g : Grp) (start : Nat) : Grp × Nat × Option MatBad :=
  let f := fmtOf j.fmt
  match j.op with
  | .mma _ _ _ _ | .mmas _ _ _ _ _ | .mmae _ _ _ _ | .mmaeSparse _ _ _ _ _ =>
    match j.rows g l.wb start with
    | .inl rs => (matMul g (layOf j.d) (layOf j.a) f (if isMmae j.op then j.cols g start else 0) f.n rs, 0, none)
    | .inr e => (g, 0, some e)
  | .mzero _ _ clr k =>
    let g1 := { g with cb := cWrite g.cb (layOf j.d) f.m f.n (fun _ _ => 0) }
    (if clr then { g1 with mt := g1.mt.set k.toNat 0 } else g1, 0, none)
  | .mcvt _ _ _ rnd =>
    let r := mcvtOn g (layOf j.d) (layOf j.a) f rnd
    (r.1, r.2, none)
  | .dectab _ _ slot =>
    let o := bits (j.a.getD 0 0).toNat 19 0
    match tableImage g.wb o l.wb with
    | some t => ({ g with ds := g.ds.set slot.toNat (.loaded t) }, 0, none)
    | none => ({ g with ds := g.ds.set slot.toNat (g.ds.getD slot.toNat .empty).spoil }, 0, some ⟨.malformed, 2, 0, o⟩)
  | _ => (g, 0, none)

/-- Records a fault of a core: the first stays, later ones are counted (R232). -/
def Belay.note (b : Belay) (j : MatJob) (group : Nat) (e : MatBad) : Belay :=
  match b.fault with
  | some _ => { b with later := b.later + 1 }
  | none => { b with fault := some ⟨e.cause, wordOf j.op, j.pc, group, e.sub, e.seg, e.off⟩ }

/-- Performs a job on one core of its gang. -/
def Gang.perform (x : Gang) (b : Belay) (j : MatJob) (group : Nat) : Gang :=
  match x.groups[group]? with
  | none => x
  | some g =>
    let r := j.on x.launch g (Tab.get 0 j.rseg group)
    let b1 := { b with cxn := Nat.min 0xFFFF (b.cxn + r.2.1) }
    let b2 := match r.2.2 with | some e => b1.note j group e | none => b1
    { x with groups := x.groups.set group r.1, belay := some b2 }

/-- Performs a job on every core of `gs` where no earlier operation conflicts; the cores left over. -/
def Gang.performAll (x : Gang) (j : MatJob) : List Nat → Gang × List Nat
  | [] => (x, [])
  | k :: ks =>
    if x.blocked ⟨j.seq, k, j.spans x.launch, none, j.dec⟩ then
      let r := x.performAll j ks
      (r.1, k :: r.2)
    else
      match x.belay with
      | some b => (x.perform b j k).performAll j ks
      | none => (x, k :: ks)

/-! Uncorrectable errors in the typed buffers that a matrix instruction reads (R419). -/

/-- The bytes of an M × N tile of C. -/
def Lay.cBytes (l : Lay) (m n : Nat) (write : Bool) : List Span :=
  (List.range m).map (fun i => ⟨.cb, l.base + i * l.rs, l.base + i * l.rs + 4 * n - 1, write⟩)

/-- The plane words of a bit-plane operand. -/
def Lay.abBytes (l : Lay) (b : Buf) (kg rows width : Nat) (write : Bool) : List Span :=
  (List.range rows).flatMap (fun r => (List.range kg).flatMap (fun q => (List.range width).map (fun k =>
    let o := l.base + q * l.bs + r * l.rs + k * l.ps
    ⟨b, o, o + 3, write⟩)))

/-- The bytes that a matrix instruction reads and writes on a core: of its spans, those that it uses (R218, R222, R237, R241). -/
def MatJob.bytes (j : MatJob) (l : Launch) (g : Grp) : List Span :=
  let f := fmtOf j.fmt
  let c (write : Bool) : List Span := (layOf j.d).cBytes f.m f.n write
  let size (o : Nat) : Nat := leNat (Mem.readN g.wb o 4)
  let mul : List Span :=
    c false ++ c true ++ (layOf j.a).abBytes .ab (kGroups f.k) f.m (planeWidth f.ta) false
      ++ (if isMmae j.op then
            let b := (layOf j.b).base
            [⟨.wb, b, Nat.min (b + Nat.max 20 (size (b + 16))) l.wb - 1, false⟩]
          else (layOf j.b).abBytes .wb (kGroups (storedK j.op f)) f.n (planeWidth f.tb) false)
      ++ sclSpan .ab f.sclA f.sa f.m f.k f.la false ++ sclSpan .wb f.sclB f.sb f.n f.k f.lb false
      ++ (match sparseOf j.op with | some ns => [⟨.wb, f.pos, f.pos + f.n * (f.k / 48) * ns - 1, false⟩] | none => [])
  match j.op with
  | .mma _ _ _ _ | .mmas _ _ _ _ _ | .mmae _ _ _ _ | .mmaeSparse _ _ _ _ _ => mul
  | .mzero _ _ _ _ => c true
  | .mcvt _ _ _ _ =>
    (layOf j.a).cBytes f.m f.n false ++ (layOf j.d).abBytes .ab (kGroups f.n) f.m (planeWidth f.ta) true
      ++ sclSpan .ab f.sclA f.sa f.m f.n f.la true
  | .dectab _ _ _ =>
    let o := bits (j.a.getD 0 0).toNat 19 0
    [⟨.wb, o, Nat.min (o + 4 + 4 * Nat.min 256 (size o)) l.wb - 1, false⟩]
  | _ => []

/-- Whether a span covers a byte of a group's typed buffer, as a write or as a read. -/
def Span.covers (a : Span) (gang group : Nat) (write : Bool) (y : SramByte) : Bool :=
  a.write == write && y.inBuf gang group a.buf a.lo (a.hi + 1 - a.lo)

/-- Reads of a group's typed buffers meet the bytes that hold an uncorrectable error: the first posts its record (R419), and each is a
free value from now on (DESIGN CHOICE: R419 raises DATAERR at the reader as its chapter gives, and no chapter gives it for the
array). -/
def State.meetBad (s : State) (gang group : Nat) (spans : List Span) : State :=
  let offs := s.sram.filterMap (fun y =>
    match y with
    | .buf _ _ b o => if spans.any (fun a => a.covers gang group false y) then some (b, o) else none
    | .l2 _ | .l1 _ _ | .grid _ _ _ => none)
  match offs with
  | [] => s
  | (_, o) :: _ =>
    offs.foldl (fun s q =>
      (s.onGrp gang group (fun g => g.setRegion q.1 (Mem.writeN (g.region q.1) q.2 [Config.openByte s.fresh]))).tick)
      (s.bufRecord gang group o)

/-- What a matrix instruction has written holds no error. -/
def State.overwrite (s : State) (gang group : Nat) (spans : List Span) : State :=
  { s with sram := s.sram.filter (fun y => !spans.any (fun a => a.covers gang group true y)) }

/-- Does `act` to the cores `ks` of a gang, of which `reads` read what a job reads there; the cores that `act` finishes have written
what it writes. -/
def State.matAct (s : State) (g : Nat) (j : MatJob) (ks reads : List Nat) (act : Gang → Gang × MatJob) : State × MatJob :=
  let spans (s : State) (k : Nat) : List Span :=
    match s.gang? g with
    | some x => ((x.groups[k]?).map (fun y => j.bytes x.launch y)).getD []
    | none => []
  let s1 := if s.sram.isEmpty then s else reads.foldl (fun s k => s.meetBad g k (spans s k)) s
  match s1.gang? g with
  | none => (s1, j)
  | some x =>
    let r := act x
    let s2 := s1.setGang g r.1
    (if s.sram.isEmpty then s2
      else (ks.filter (fun k => !r.2.todo.contains k)).foldl (fun s k => s.overwrite g k (spans s1 k)) s2, r.2)

/-- The cores on which a job meets no earlier operation. -/
def Gang.unblocked (x : Gang) (j : MatJob) (ks : List Nat) : List Nat :=
  ks.filter (fun k => !x.blocked ⟨j.seq, k, j.spans x.launch, none, j.dec⟩)

/-! The two passes of MMAE (R246). -/

/-- A core takes the check pass of an MMAE, or the next segment of its multiply pass, and writes C when the pass ends. Answers
the gang and the job, with the core left out of `todo` where it is done. -/
def Gang.passOn (x : Gang) (j : MatJob) (k : Nat) : Gang × MatJob :=
  match x.groups[k]?, x.belay with
  | some g, some b =>
    let start := Tab.get 0 j.rseg k
    let ended (x : Gang) : Gang × MatJob := (x, { j with todo := j.todo.filter (· != k), prog := Tab.erase j.prog k })
    (match Tab.find j.prog k with
      | none =>
        (match j.rows g x.launch.wb start with
          | .inl _ => (x, { j with prog := Tab.set j.prog k start })
          | .inr e => ended { x with belay := some (b.note j k e) })
      | some p =>
        if p + 1 < j.segs g then (x, { j with prog := Tab.set j.prog k (p + 1) }) else ended (x.perform b j k))
  | _, _ => (x, j)

/-- One pass step on every core of `gs` where no earlier operation conflicts. -/
def Gang.passAll (x : Gang) (j : MatJob) : List Nat → Gang × MatJob
  | [] => (x, j)
  | k :: ks =>
    if x.blocked ⟨j.seq, k, j.spans x.launch, none, j.dec⟩ then x.passAll j ks
    else
      let r := x.passOn j k
      r.1.passAll r.2 ks

/-- A core stops an MMAE for an eviction: in the check pass it abandons it; in the multiply pass it goes on to the next segment
boundary that is a row boundary, writes the finished columns to C and keeps RSEG, or completes where no such boundary is
left. DESIGN CHOICE: a fault that the multiply pass meets, because an unsynchronised STC or COPY has changed the stream since its check
pass, is reported at its end; at a stop none of the finished columns is written. DEDUCED: one that was resumed at RSEG = r and is stopped again in its check pass keeps RSEG = r, where the rule says 0: C
holds the columns before r, and its result must be that of an uninterrupted run (R246). -/
def Gang.stopOn (x : Gang) (j : MatJob) (k : Nat) : Gang × MatJob :=
  match x.groups[k]?, x.belay, Tab.find j.prog k with
  | some g, some b, some p =>
    let start := Tab.get 0 j.rseg k
    let kr := storedK j.op (fmtOf j.fmt)
    (match (List.range (j.segs g)).find? (fun s => decide (p ≤ s) && decide (start < s) && s * j.rint g % kr == 0) with
      | some s =>
        let g1 := match j.rows g x.launch.wb start with
          | .inl rs => matMul g (layOf j.d) (layOf j.a) (fmtOf j.fmt) (j.cols g start) (j.cols g s) rs
          | .inr _ => g
        ({ x with groups := x.groups.set k g1 }, { j with prog := Tab.erase j.prog k, rseg := Tab.set j.rseg k s })
      | none => (x.perform b j k, { j with todo := j.todo.filter (· != k), prog := Tab.erase j.prog k }))
  | _, _, _ => (x, j)

/-- Stops an MMAE on every core of `gs`. -/
def Gang.stopAll (x : Gang) (j : MatJob) : List Nat → Gang × MatJob
  | [] => (x, j)
  | k :: ks =>
    let r := x.stopOn j k
    r.1.stopAll r.2 ks

/-! Issue (R221, R222). -/

/-- The belay state of the gang of the stream that executes. -/
def State.belay? (s : State) : Option Belay := (s.gang? s.w.id.gang).bind (·.belay)

/-- Changes the belay state of a gang. -/
def State.onBelay (s : State) (g : Nat) (f : Belay → Belay) : State :=
  match s.gang? g with
  | some x => s.setGang g { x with belay := x.belay.map f }
  | none => s

/-- Whether the slots of a mask are empty (R223). -/
def Belay.clear (b : Belay) (mask : BitVec 16) : Bool :=
  (List.range 16).all (fun k => !mask.getLsbD k || b.pend.getD k 0 == 0)

/-- The trap that delivers a fault record (R232, R245). -/
def Belay.delivery (b : Belay) : Option TrapInfo :=
  b.fault.map (fun f => {
    cause := f.cause
    addr := BitVec.ofNat 64 (f.group + f.sub * 2 ^ 8 + Nat.min b.later 0xFFFF * 2 ^ 16 + f.segment * 2 ^ 32 + f.offset * 2 ^ 40)
    word := some f.word
    hpc := some f.pc })

/-- Clears the fault record (R232). -/
def State.clearFault (s : State) : State := s.onBelay s.w.id.gang (fun b => { b with fault := none, later := 0 })

/-- Consecutive scalar registers. -/
def State.sRun (s : State) (n k : Nat) : List RWord := (List.range k).map (fun j => s.w.rdS (n + j))

/-- MATARG (R222). -/
def matArg (sub : Nat) : TrapInfo := { cause := .matarg, addr := BitVec.ofNat 64 sub }

/-- Reserved fields of a layout word (R218). -/
def layReserved (ws : List Word) : Bool :=
  bits (ws.getD 0 0).toNat 31 24 != 0 || bits (ws.getD 2 0).toNat 31 24 != 0

/-- Rule for the base and strides of an A or B operand (R218). -/
def Lay.abBad (l : Lay) : Bool := l.base % 16 != 0 || l.ps % 4 != 0 || l.rs % 4 != 0 || l.bs % 4 != 0
/-- Rule for a C operand (R218). -/
def Lay.cBad (l : Lay) (n : Nat) : Bool :=
  l.base % 16 != 0 || l.ps != 0 || l.bs != 0 || l.rs % 4 != 0 || decide (l.rs < 4 * n)

/-- Reserved fields of AFMT or BFMT, ASCL or BSCL, SHAPE0 (R219). -/
def fmtReserved (f s : Word) : Bool := bits f.toNat 31 12 != 0 || bits s.toNat 31 20 != 0
def shapeReserved (w : Word) : Bool := bits w.toNat 31 17 != 0 || bit w.toNat 7

def wide16 (t : Nat) : Bool := planeWidth t == 16

/-- A span that is empty or names a group that the gang has not (R222). -/
def spanBad (f : Fmt) (ngroup : Nat) : Bool := f.span == 0 || decide (2 ^ ngroup ≤ f.span)

/-- Whether a span of bytes reaches beyond a declared region (R163). -/
def spansBad (l : Launch) (ss : List Span) : Bool := ss.any (fun a => decide (l.size a.buf ≤ a.hi))

/-- Which words a matrix instruction uses: the fields that R220 names. -/
inductive MatShape where
  | mul
  | zero
  | cvt
  | tab
deriving DecidableEq, Repr

/-- The words of the format block that an instruction uses (R220, R239). -/
def MatShape.used (k : MatShape) : List Nat :=
  match k with
  | .mul => [0, 1, 2, 3, 4, 5, 6, 7]
  | .zero => [4, 6, 7]
  | .cvt => [0, 1, 4, 6, 7]
  | .tab => [6, 7]

/-- The first failing check of R222. -/
def MatJob.check (j : MatJob) (k : MatShape) (l : Launch) (ngroup : Nat) : Option Nat :=
  let f := fmtOf j.fmt
  let w (n : Nat) : Word := j.fmt.getD n 0
  let ss := j.spans l
  let badT (t : Nat) (small : Bool) : Bool :=
    match typeOf t with
    | some t => if small then !blkTypes.contains t else !matTypes.contains t
    | none => true
  match k with
  | .mul =>
    let sparse := (sparseOf j.op).isSome
    let e := isMmae j.op
    if layReserved j.d || layReserved j.a || layReserved j.b || fmtReserved (w 0) (w 1) || fmtReserved (w 2) (w 3)
        || shapeReserved (w 4) || (!sparse && f.pos != 0) then some 1
    else if badT f.ta false || badT f.tb e || f.la == 3 || f.la != f.lb then some 2
    else if (f.sclA && wide16 f.ta) || (f.sclB && wide16 f.tb) then some 3
    else if f.k == 0 || f.k % blockOf f.la != 0 || (sparse && (f.k % 48 != 0 || f.la == 2)) then some 4
    else if spanBad f ngroup then some 5
    else if (layOf j.d).cBad f.n || (layOf j.a).abBad || (layOf j.b).abBad
        || (e && ((layOf j.b).ps != 0 || (layOf j.b).rs != 0 || (layOf j.b).bs != 0)) then some 6
    else if spansBad l (ss.filter (fun a => !(e && a.buf == .wb && a.lo == (layOf j.b).base && a.hi == l.wb - 1)))
        || (e && decide (l.wb < (layOf j.b).base + 20)) then some 7
    else none
  | .zero =>
    if layReserved j.d || shapeReserved (w 4) then some 1
    else if spanBad f ngroup then some 5
    else if (layOf j.d).cBad f.n then some 6
    else if spansBad l ss then some 7
    else none
  | .cvt =>
    if layReserved j.d || layReserved j.a || fmtReserved (w 0) (w 1) || shapeReserved (w 4) then some 1
    else if badT f.ta false || f.la == 3 then some 2
    else if f.sclA && wide16 f.ta then some 3
    else if f.sclA && f.n % blockOf f.la != 0 then some 4
    else if spanBad f ngroup then some 5
    else if (layOf j.d).abBad || (layOf j.a).cBad f.n then some 6
    else if spansBad l ss then some 7
    else none
  | .tab =>
    let a := (j.a.getD 0 0).toNat
    if bits a 31 20 != 0 then some 1
    else if spanBad f ngroup then some 5
    else if a % 4 != 0 || decide (l.wb ≤ a) then some 7
    else none

/-- The front of every matrix instruction: its wait, that for what an acquire orders before it (R225), then a recorded fault
where WAIT ≠ 0 (R221, R232). -/
def matFront (always : Bool) (wait : BitVec 16) (s : State) (go : Gang → Belay → Res) : Res :=
  match s.gang? s.w.id.gang with
  | none => .done s
  | some x =>
    match x.belay with
    | none => .done s
    | some b =>
      if !b.clear wait then .hold s (.slots wait)
      else if !(s.fencedIds false).isEmpty then .hold s (.remote (s.fencedIds false))
      else
        match (if always || wait != 0 then b.delivery else none) with
        | some t => .trap s.clearFault t
        | none => go x b

/-- Enters a slot (R221, R223). -/
def Belay.enter (b : Belay) (m : MatOp) : Belay :=
  if m.setEn then { b with pend := b.pend.set m.set.toNat (b.pend.getD m.set.toNat 0 + 1) } else b

/-- Whether the slot that SET names is full. -/
def Belay.full (b : Belay) (m : MatOp) : Bool := m.setEn && decide (255 ≤ b.pend.getD m.set.toNat 0)

/-- Layout words among D, A and B. -/
def MatJob.modes (j : MatJob) (k : MatShape) : List (List Word) :=
  match k with
  | .mul => [j.d, j.a, j.b]
  | .zero => [j.d]
  | .cvt => [j.d, j.a]
  | .tab => []

/-- The groups of a span, ascending. -/
def spanGroups (f : Fmt) : List Nat := (List.range 64).filter (fun g => bit f.span g)

/-- Every matrix instruction but MMERGE and MWAIT (R221): `rd`, `ra` and `rb` name the registers that D, A and B
stand for, with their number. -/
def matBody (x : Instr) (k : MatShape) (m : MatOp) (rd ra rb : Nat × Nat) (s : State) : Res :=
  matFront false m.wait s (fun g b =>
    let dr := s.sRun rd.1 rd.2
    let ar := s.sRun ra.1 ra.2
    let br := s.sRun rb.1 rb.2
    let fr := s.sRun m.fb.toNat 8
    let usedFmt := k.used.map (fun n => fr.getD n RWord.none)
    let words (rs : List RWord) : List Word := rs.map (·.data)
    let j : MatJob :=
      ⟨s.nextId, x, s.w.pcNow, words dr, words ar, words br, words fr, if m.setEn then some m.set.toNat else none, [], [], []⟩
    if !(dr ++ ar ++ br ++ usedFmt).all (·.valid) then .done s
    else if (j.modes k).any (fun ws => decide (8 ≤ (layOf ws).mode)) then .trap s { cause := .illegal }
    else
      match j.check k g.launch g.groups.length with
      | some c => .trap s (matArg c)
      | none =>
        if b.full m then .hold s .busy
        else
          let g1 := { g with belay := some (b.enter m) }
          let gs := spanGroups (fmtOf j.fmt)
          let s1 := s.newId.1.setGang s.w.id.gang g1
          let r :=
            if isMmae x then (s1, { j with todo := gs })
            else s1.matAct s.w.id.gang j gs (g1.unblocked j gs) (fun y => let q := y.performAll j gs; (q.1, { j with todo := q.2 }))
          .done (r.1.onBelay s.w.id.gang (fun b => { b with flight := b.flight ++ [r.2] })))

/-- MMERGE (R229): it enters the pending list of its destination. -/
def mmergeBody (m : MatOp) (c p t : BitVec 8) (s : State) : Res :=
  matFront false m.wait s (fun g b =>
    let dr := s.sRun c.toNat 3
    let sr := s.sRun p.toNat 3
    let tr := s.w.rdS t.toNat
    let sh := s.w.rdS (m.fb.toNat + 4)
    let words (rs : List RWord) : List Word := rs.map (·.data)
    let tk := tr.data.toNat
    let f := fmtOf [0, 0, 0, 0, sh.data, 0, 0, 0]
    let dst := bits tk 11 6
    let src := bits tk 5 0
    let dl := layOf (words dr)
    let sl := layOf (words sr)
    if !(dr ++ sr ++ [tr, sh]).all (·.valid) then .done s
    else if decide (8 ≤ dl.mode) || decide (8 ≤ sl.mode) then .trap s { cause := .illegal }
    else if layReserved (words dr) || layReserved (words sr) || bits tk 15 14 != 0 || shapeReserved sh.data then .trap s (matArg 1)
    else if decide (g.groups.length ≤ dst) || decide (g.groups.length ≤ src)
        || (dst == src && decide (dl.base ≤ sl.cEnd f.m f.n) && decide (sl.base ≤ dl.cEnd f.m f.n)) then .trap s (matArg 5)
    else if dl.cBad f.n || sl.cBad f.n then .trap s (matArg 6)
    else if decide (g.launch.cb ≤ dl.cEnd f.m f.n) || decide (g.launch.cb ≤ sl.cEnd f.m f.n) then .trap s (matArg 7)
    else
      let room := match g.groups[dst]? with | some y => decide (y.merges.length < 16) | none => false
      if b.full m || !room then .hold s .busy
      else
        let e : Merge := ⟨s.nextId, bits tk 31 16, bits tk 13 12, src, dst, words dr, words sr, f.m, f.n,
          if m.setEn then some m.set.toNat else none⟩
        .done ((s.newId.1.onGrp s.w.id.gang dst (fun y => { y with merges := y.merges ++ [e] })).onBelay s.w.id.gang
          (fun b => b.enter m)))

/-- MWAIT (R232). -/
def mwaitBody (d : BitVec 8) (wait : BitVec 16) (s : State) : Res :=
  matFront true wait s (fun _ b =>
    .done ((s.onBelay s.w.id.gang (fun b => { b with cxn := 0 })).setW (s.w.wrS d.toNat ⟨BitVec.ofNat 32 b.cxn, true⟩)))

/-- Empties one place of a slot (R223). -/
def Belay.leave (b : Belay) (set : Option Nat) : Belay :=
  match set with
  | some k => { b with pend := b.pend.set k (b.pend.getD k 0 - 1) }
  | none => b

/-- A gang with the dispatched instruction at place `n` as it now stands: completed once no core is left (R221). -/
def Gang.keepJob (x : Gang) (n : Nat) (j : MatJob) : Gang :=
  { x with belay := x.belay.map (fun b =>
      if j.todo.isEmpty then { b.leave j.set with flight := dropAt b.flight n } else { b with flight := b.flight.set n j }) }

/-- Whether a core reads the operands of an MMAE in its next pass step: it enters the check pass, or its multiply pass ends. -/
def Gang.passReads (x : Gang) (j : MatJob) (k : Nat) : Bool :=
  match Tab.find j.prog k, x.groups[k]? with
  | some p, some g => decide (j.segs g ≤ p + 1)
  | none, some _ => true
  | _, none => false

/-- Does `act` to the dispatched instruction at place `n` of a gang, of which the cores `reads` read their operands. -/
def State.matRun (s : State) (g n : Nat) (j : MatJob) (reads : List Nat) (act : Gang → Gang × MatJob) : State :=
  let r := s.matAct g j j.todo reads act
  match r.1.gang? g with
  | some y => r.1.setGang g (y.keepJob n r.2)
  | none => r.1

/-- Whether the one dispatched instruction of a gang that is leaving is an MMAE, which stops (R233, R246). The image has room for
one; where others are dispatched too, it completes. -/
def Gang.stops (x : Gang) : Option MatJob :=
  match x.belay with
  | some b =>
    (match b.flight with
      | [j] => if x.leaving && isMmae j.op then some j else none
      | _ => none)
  | none => none

/-- A dispatched matrix instruction goes on where its conflicts are gone, and completes once no core is left (R221). An MMAE
takes one step of its passes (R246). -/
def State.matrixStep (s : State) (g n : Nat) : State :=
  match s.gang? g with
  | none => s
  | some x =>
    match x.belay.bind (fun b => b.flight[n]?) with
    | none => s
    | some j =>
      if x.st != .resident || x.stops.isSome then s
      else if isMmae j.op then s.matRun g n j ((x.unblocked j j.todo).filter (x.passReads j)) (fun y => y.passAll j j.todo)
      else
        s.matRun g n j (x.unblocked j j.todo) (fun y =>
          let q := y.performAll j j.todo
          (q.1, { j with todo := q.2 }))

/-- Stops the MMAE of a gang that is leaving (R246). -/
def State.stopMmae (s : State) (g : Nat) : State :=
  match s.gang? g with
  | none => s
  | some x =>
    match x.stops with
    | some j => s.matRun g 0 j (j.todo.filter (fun k => (Tab.find j.prog k).isSome)) (fun y => y.stopAll j j.todo)
    | none => s

/-- The bytes of an MMERGE's source and destination that it reads or writes (R229). -/
def Merge.bytes (m : Merge) : List Span × List Span :=
  let d := (layOf m.cDst).cBytes m.m m.n
  ((layOf m.cSrc).cBytes m.m m.n false, d false ++ d true)

/-- An MMERGE as its destination has it: the sums, the counter and the rest of the pending list (R229). -/
def Gang.merged (x : Gang) (j n : Nat) (m : Merge) : Gang :=
  match x.groups[j]?, x.groups[m.src]? with
  | some y, some z =>
    let dl := layOf m.cDst
    let sl := layOf m.cSrc
    let cb := cWrite y.cb dl m.m m.n (fun a b => addF32 .rne (cWord y.cb dl a b) (cWord z.cb sl a b))
    { x with groups := x.groups.set j { y with cb := cb, mt := y.mt.set m.mtk ((m.ticket + 1) % 2 ^ 16), merges := dropAt y.merges n } }
  | _, _ => x

/-- Applies a pending MMERGE whose ticket has come up and whose regions are free (R229). -/
def State.mergeStep (s : State) (g j n : Nat) : State :=
  match s.gang? g with
  | none => s
  | some x =>
    match (x.groups[j]?).bind (fun y => (y.merges[n]?).map (fun m => (y, m))) with
    | none => s
    | some (y, m) =>
      if (x.groups[m.src]?).isNone || x.st != .resident || y.mt.getD m.mtk 0 != m.ticket || m.ops.any (fun o => x.blocked o) then s
      else
        let s1 := (s.meetBad g m.src m.bytes.1).meetBad g j m.bytes.2
        match s1.gang? g with
        | some x1 => ((s1.setGang g (x1.merged j n m)).onBelay g (fun b => b.leave m.set)).overwrite g j m.bytes.2
        | none => s1

def execMma (m : MatOp) (c a b : BitVec 8) (s : State) : Out :=
  issue (.mma m c a b) s (matBody (.mma m c a b) .mul m (c.toNat, 3) (a.toNat, 3) (b.toNat, 3))
def execMmas (m : MatOp) (c a b : BitVec 8) (nsp : BitVec 2) (s : State) : Out :=
  issue (.mmas m c a b nsp) s (matBody (.mmas m c a b nsp) .mul m (c.toNat, 3) (a.toNat, 3) (b.toNat, 3))
def execMmae (m : MatOp) (c a b : BitVec 8) (s : State) : Out :=
  issue (.mmae m c a b) s (matBody (.mmae m c a b) .mul m (c.toNat, 3) (a.toNat, 3) (b.toNat, 3))
def execMmaeSparse (m : MatOp) (c a b : BitVec 8) (nsp : BitVec 2) (s : State) : Out :=
  issue (.mmaeSparse m c a b nsp) s (matBody (.mmaeSparse m c a b nsp) .mul m (c.toNat, 3) (a.toNat, 3) (b.toNat, 3))
def execMzero (m : MatOp) (c : BitVec 8) (mtClr : Bool) (mtk : BitVec 2) (s : State) : Out :=
  issue (.mzero m c mtClr mtk) s (matBody (.mzero m c mtClr mtk) .zero m (c.toNat, 3) (0, 0) (0, 0))
def execMcvt (m : MatOp) (d c : BitVec 8) (rnd : Rnd) (s : State) : Out :=
  issue (.mcvt m d c rnd) s (matBody (.mcvt m d c rnd) .cvt m (d.toNat, 3) (c.toNat, 3) (0, 0))
def execMmerge (m : MatOp) (c p t : BitVec 8) (s : State) : Out := issue (.mmerge m c p t) s (mmergeBody m c p t)
def execDectab (m : MatOp) (a : BitVec 8) (slot : BitVec 2) (s : State) : Out :=
  issue (.dectab m a slot) s (matBody (.dectab m a slot) .tab m (0, 0) (a.toNat, 1) (0, 0))
def execMwait (h : Hdr) (d : BitVec 8) (wait : BitVec 16) (s : State) : Out := issue (.mwait h d wait) s (mwaitBody d wait)
def execMatrixComplete (gang n : Nat) (s : State) : Out := .next (s.matrixStep gang n)
def execMmergeApply (gang group n : Nat) (s : State) : Out := .next (s.mergeStep gang group n)

end Sys2Proof.Machine
end

