-- ==== Sys2Proof/Machine/Halt.lean ====
section
/-! DEFINITION. HALT of a wave and of a belay stream (R34, R148, R233). -/

namespace Sys2Proof.Machine

/-- The stream ends; the regroup unit flushes the bins that hold one of its rows (R282). -/
def State.haltNow (s : State) : State := s.setW { s.w with halted := true, wait := .none, windows := [] }

/-- The end of a wave, after a latched copy error has been raised (R299). -/
def haltWave (s : State) : Res :=
  match s.w.errs with
  | e :: es => .trap (s.setW { s.w with errs := es }) (copyTrap e)
  | [] => .gone s.haltNow

/-- Whether every slot is empty and no matrix instruction or MMERGE of the gang is pending (R233). DESIGN CHOICE: a dispatched
matrix instruction that names no slot counts too, of which the rule says nothing; a fault that it finds is so delivered before
the stream ends. -/
def Gang.quiet (x : Gang) (b : Belay) : Bool :=
  b.clear (BitVec.allOnes 16) && b.flight.isEmpty && x.groups.all (fun g => g.merges.isEmpty)

/-- The end of a belay stream: a recorded fault is delivered first (R232, R233). -/
def haltBelay (s : State) : Res :=
  match s.gang? s.w.id.gang with
  | none => .gone s.haltNow
  | some x =>
    match x.belay with
    | none => .gone s.haltNow
    | some b =>
      if !x.quiet b then .hold s .busy
      else
        match b.delivery with
        | some t => .trap s.clearFault t
        | none => haltWave s

/-- HALT: a team is released and ended, and a fault of it is reported first (R148). -/
def haltBody (s : State) : Res :=
  if s.w.belay then haltBelay s
  else
    match s.releaseTeam with
    | .inr s => .hold s .busy
    | .inl s =>
      match s.w.team with
      | none => haltWave s
      | some t =>
        match t.fault with
        | some i => .trap s.markReported i
        | none => haltWave s.endTeam

def execHalt (h : Hdr) (s : State) : Out := issue (.halt h) s haltBody

end Sys2Proof.Machine
end

