-- ==== Sys2Proof/Machine/Weights.lean ====
section
/-! DEFINITION. Weight sets: their table and images, the checks of R277, the weight cache of a regroup unit, and the
arithmetic of a row (R275 to R280, R284, R285). -/

namespace Sys2Proof.Machine

/-- A layer of a weight set (R276). -/
structure Layer where
  nin : Nat
  nout : Nat
  act : Nat
  len : Nat
  e2m1 : Bool
  woff : Nat
  soff : Nat
  boff : Nat
deriving DecidableEq, Repr

/-- The number of layers and the bytes of an image. -/
def imgLayers (img : List Byte) : Nat := fieldAt img 4 4 % 8
def imgTotal (img : List Byte) : Nat := fieldAt img 8 4

/-- Layer `l` of an image. -/
def layerOf (img : List Byte) (l : Nat) : Layer :=
  let d := fieldAt img (16 + 16 * l) 4
  { nin := bits d 5 0 + 1, nout := bits d 13 8 + 1, act := bits d 21 19, len := 8 * 2 ^ bits d 18 17, e2m1 := bit d 16,
    woff := fieldAt img (20 + 16 * l) 4, soff := fieldAt img (24 + 16 * l) 4, boff := fieldAt img (28 + 16 * l) 4 }

/-- Bytes of a row of weights. -/
def Layer.rowBytes (y : Layer) : Nat := if y.e2m1 then (y.nin + 1) / 2 else y.nin
/-- Blocks of a row. -/
def Layer.blocks (y : Layer) : Nat := (y.nin + y.len - 1) / y.len

/-- The scale byte of output `j`, block `b`. -/
def Layer.scale (y : Layer) (img : List Byte) (j b : Nat) : Nat := fieldAt img (y.soff + j * y.blocks + b) 1

/-- Whether a layer of an image of `n` layers is well formed: the checks that R277 lists. That BOFF is a multiple of 4 is none of
them (R276). -/
def layerOk (img : List Byte) (n l : Nat) : Bool :=
  let d := fieldAt img (16 + 16 * l) 4
  let y := layerOf img l
  let total := imgTotal img
  decide (32 + 16 * l ≤ total) && bits d 31 22 == 0 && bits d 15 14 == 0 && bits d 7 6 == 0 && bits d 18 17 != 3
    && decide (y.act ≤ 3) && (l != 0 || decide (y.nin ≤ 32)) && (l + 1 != n || decide (y.nout ≤ 16))
    && (l + 1 == n || (layerOf img (l + 1)).nin == y.nout)
    && decide (y.woff + y.nout * y.rowBytes ≤ total) && decide (y.soff + y.nout * y.blocks ≤ total)
    && decide (y.boff + 4 * y.nout ≤ total)
    && (List.range (y.nout * y.blocks)).all (fun k =>
      let x := fieldAt img (y.soff + k) 1
      decide (95 ≤ x) && decide (x ≤ 159))

/-- Whether an image is well formed (R277, status 2). -/
def imgOk (img : List Byte) : Bool :=
  fieldAt img 0 4 == 0x57534E31 && fieldAt img 4 4 / 8 == 0 && fieldAt img 12 4 == 0 && decide (1 ≤ imgLayers img)
    && decide (imgLayers img ≤ 4) && decide (imgTotal img ≤ 65536)
    && (List.range (imgLayers img)).all (fun l => layerOk img (imgLayers img) l)

/-- Inputs of the first and outputs of the last layer. -/
def imgIn (img : List Byte) : Nat := (layerOf img 0).nin
def imgOut (img : List Byte) : Nat := (layerOf img (imgLayers img - 1)).nout

/-! The arithmetic of a row (R284, R285). -/

/-- A weight: 2^(X − 127) times its decoded code (R276). -/
def Layer.weight (y : Layer) (img : List Byte) (j k : Nat) : XVal :=
  let code :=
    if y.e2m1 then fieldAt img (y.woff + j * y.rowBytes + k / 2) 1 / 16 ^ (k % 2) % 16
    else fieldAt img (y.woff + j * y.rowBytes + k) 1
  (decodeElem (if y.e2m1 then .e2m1 else .e4m3) code).mul
    (XVal.dyadic false 1 ((y.scale img j (k / y.len) : Int) - 127))

/-- The f32 value `acc` with one exact product added and rounded once. -/
def accStep (acc : Nat) (w a : XVal) : Nat := roundArith .f32 .rne 0 (XVal.sum false [decodeElem .f32 acc, w.mul a])

/-- An activation on an f32 value (R285). -/
def activate (act x : Nat) : Nat :=
  let v := decodeElem .f32 x
  let zero : XVal := .fin false 0 1
  match act with
  | 0 => x
  | 1 => if v.isNan || XVal.lt zero v then x else 0
  | 2 => if v.isNan || !XVal.lt v zero then x else roundArith .f32 .rne 0 (v.mul (.fin false 1 8))
  | _ => roundArith .f32 .rne 0 (ftanhVal v)

/-- Output `j` of a layer from its f16 inputs. -/
def Layer.neuron (y : Layer) (img : List Byte) (a : List Nat) (j : Nat) : Nat :=
  let x (k : Nat) : XVal := decodeElem .f16 (a.getD k 0)
  let first := roundArith .f32 .rne 0 ((y.weight img j 0).mul (x 0))
  let acc := (List.range (y.nin - 1)).foldl (fun acc k => accStep acc (y.weight img j (k + 1)) (x (k + 1))) first
  let bias := decodeElem .f32 (fieldAt img (y.boff + 4 * j) 4)
  activate y.act (roundArith .f32 .rne 0 (XVal.sum false [decodeElem .f32 acc, bias]))

/-- f16 of an f32 value (R79 under rne). -/
def toF16 (x : Nat) : Nat := (cvtElem .f16 .f32 .rne 0 x).1

/-- The layers from `l` on: hidden values are rounded to f16. -/
def runLayers (img : List Byte) (l : Nat) : Nat → List Nat → List Nat
  | 0, _ => []
  | 1, a => (List.range (layerOf img l).nout).map (fun j => (layerOf img l).neuron img a j)
  | n + 2, a =>
    runLayers img (l + 1) (n + 1) ((List.range (layerOf img l).nout).map (fun j => toF16 ((layerOf img l).neuron img a j)))

/-- The results of a row whose inputs are f16 (R284). -/
def runRow (img : List Byte) (a : List Nat) : List Nat := runLayers img 0 (imgLayers img) a

/-! The weight cache (R278, R280). -/

/-- The context entry's weight-set table: WSBASE and WSCNT (R354). -/
def State.wsTable (s : State) (ctx : Nat) : Nat × Nat :=
  let a := bits s.dev.ctxbase 39 9 * 512 + 512 * ctx
  (s.rdPhys (a + 256) 8, s.rdPhys (a + 264) 4)

/-- What a fill found: an image, a status, or an uncorrectable error at an IA. -/
inductive FillRes where
  | img (bytes : List Byte) (ia : Nat)
  | status (n : Nat)
  | bad (ia : Nat)
deriving DecidableEq, Repr

/-- Bytes of an IA span for a fill; a byte with no resident page reads as 0, as a load's data does (R189). -/
def State.fillBytes (s : State) (p ia n : Nat) : State × List Byte × Option Nat :=
  let r := s.spanBytes p none ia (iaSpan ia n) []
  let good := r.2.takeWhile (fun b => !isBad b)
  (r.1, (good.map (fun (b : Option (Byte × Bool)) => (b.getD (0, false)).1) ++ List.replicate n 0).take n,
   if good.length < n then some ((ia + good.length) % 2 ^ 64) else none)

/-- Reads a set: its table entry, then its image (R275 to R278). -/
def State.readSet (s : State) (p ctx h : Nat) : State × FillRes :=
  let t := s.wsTable ctx
  let s := s.physNote p ctx (bits s.dev.ctxbase 39 9 * 512 + 512 * ctx + 256) 12
  if t.2 ≤ h then (s, .status 1)
  else
    let e := s.fillBytes p (t.1 + 16 * h) 16
    match e.2.2 with
    | some a => (e.1, .bad a)
    | none =>
      if !bit (fieldAt e.2.1 12 4) 0 then (e.1, .status 1)
      else
        let ia := bits (fieldAt e.2.1 0 8) 47 7 * 128
        let g := e.1.fillBytes p ia 16
        match g.2.2 with
        | some a => (g.1, .bad a)
        | none =>
          if decide (65536 < imgTotal g.2.1) || decide (imgTotal g.2.1 < 16) then (g.1, .status 2)
          else
            let b := g.1.fillBytes p ia (imgTotal g.2.1)
            match b.2.2 with
            | some a => (b.1, .bad a)
            | none => if imgOk b.2.1 then (b.1, .img b.2.1 ia) else (b.1, .status 2)

/-- Footprint of a cached set (R278). -/
def WSet.size (x : WSet) : Nat := (x.image.length + 127) / 128 * 128

def WSet.is (x : WSet) (ctx h : Nat) : Bool := x.ctx == ctx && x.handle == h

/-- Whether a binned row or a tile uses a set. -/
def Cluster.inUse (c : Cluster) (ctx h : Nat) : Bool :=
  c.bins.any (fun b => b.2.ctx == ctx && b.2.handle == h) || c.runq.any (fun t => t.ctx == ctx && t.handle == h)

/-- A cached set. -/
def Cluster.set? (c : Cluster) (ctx h : Nat) : Option WSet := c.cache.find? (fun x => x.is ctx h)

/-- Bytes cached, and bytes pinned (R280). -/
def Cluster.cached (c : Cluster) : Nat := sumNat (c.cache.map WSet.size)
def Cluster.pinned (c : Cluster) : Nat := sumNat ((c.cache.filter (fun x => x.pin != 0)).map WSet.size)

/-- The entry to replace: unpinned, unused, least recently binned (R278). -/
def Cluster.victim (c : Cluster) : Option WSet :=
  (c.cache.filter (fun x => x.pin == 0 && !c.inUse x.ctx x.handle)).foldl (fun m x =>
    match m with
    | some y => if x.last < y.last then some x else some y
    | none => some x) none

/-- Replaces entries until `n` more bytes fit; none where there is no room. -/
def Cluster.makeRoom (c : Cluster) (n : Nat) : Nat → Option Cluster
  | 0 => if c.cached + n ≤ Config.weightCacheBytes then some c else none
  | k + 1 =>
    if c.cached + n ≤ Config.weightCacheBytes then some c
    else
      match c.victim with
      | some x => Cluster.makeRoom { c with cache := c.cache.filter (fun y => !y.is x.ctx x.handle) } n k
      | none => none

/-- Marked entries leave once nothing holds them (R280). -/
def Cluster.sweep (c : Cluster) : Cluster :=
  { c with cache := c.cache.filter (fun x => !(x.drop && x.pin == 0 && !c.inUse x.ctx x.handle)) }

/-- What a fill has come to for the instruction or call that needs the set. -/
inductive Filled where
  | ready
  | status (n : Nat)
  | bad (ia : Nat)
  | noRoom
deriving DecidableEq, Repr

/-- Fills a set where it is absent (R278); while the units of the partition take no access the fill waits, as without room
(R349). -/
def State.fillSet (s : State) (cl p ctx h : Nat) : State × Filled :=
  if ((s.cluster cl).set? ctx h).isSome then (s, .ready)
  else if s.unitsWait p then (s, .noRoom)
  else
    let r := s.readSet p ctx h
    match r.2 with
    | .status n => (r.1, .status n)
    | .bad ia => (r.1.dramError p ctx ia, .bad ia)
    | .img b ia =>
      let c := r.1.cluster cl
      let x : WSet := ⟨ctx, h, b, 0, false, c.useClock, ia, []⟩
      match c.makeRoom x.size c.cache.length with
      | some c => (r.1.setCluster cl { c with cache := x :: c.cache, useClock := c.useClock + 1 }, .ready)
      | none => (r.1, .noRoom)

/-- The accesses of the stream that executes which a fill for its instruction must see performed: those that an acquire or a
fence orders before a later load, and the strongly ordered ones (R203, R278). -/
def State.fillOrder (s : State) : List Nat :=
  ((s.unperformed s.w.place.part s.w.id).filter (fun u => u.kind == 0 || s.w.fenced false u)).map (·.id)

/-- What the instruction that executes waits for before its sets are filled. A set in the cache is not read again. -/
def State.fillWaits (s : State) (hs : List Nat) : List Nat :=
  let c := s.cluster (s.w.core / 64)
  if hs.all (fun h => (c.set? s.w.place.ctx h).isSome) then [] else s.fillOrder

/-- Changes a cached set. -/
def Cluster.onSet (c : Cluster) (ctx h : Nat) (f : WSet → WSet) : Cluster :=
  { c with cache := c.cache.map (fun x => if x.is ctx h then f x else x) }

end Sys2Proof.Machine
end

