-- ==== Sys2Proof/Machine/Neural.lean ====
section
/-! DEFINITION. Neural calls, pins and tokens, and the regroup unit's events (R270 to R291). -/

namespace Sys2Proof.Machine

/-! Outputs that land in a wave, resident or saved (R273, R283, R287, R288). -/

/-- A change of a wave's own registers, whichever part of its team has the turn. -/
def Wave.own (w : Wave) (f : Wave → Wave) : Wave := { f { w with sel := none } with sel := w.sel }

/-- Writes one lane of consecutive vector registers. -/
def Wave.wrLane (w : Wave) (first l : Nat) (xs : List RWord) : Wave :=
  w.own (fun w => ((List.range xs.length).zip xs).foldl (fun w x => w.wrV (first + x.1) (1#32 <<< l) (VReg.splat x.2)) w)

/-- The token of a job becomes ready once its last lane is done (R273, R287, R332). -/
def Wave.jobEnd (w : Wave) (id : Nat) : Wave :=
  match w.jobs.find? (fun j => j.id == id) with
  | none => w
  | some j =>
    if j.todo != 0 then w
    else if j.failed == 0 then
      { (w.readyTok j.tok j.ok true) with jobs := w.jobs.filter (fun y => y.id != id) }
    else (w.readyTok j.tok j.failed false).setTok j.tok { ((w.readyTok j.tok j.failed false).tok j.tok) with fail := true }

/-- Changes a job. -/
def Wave.onJob (w : Wave) (id : Nat) (f : OutJob → OutJob) : Wave :=
  { w with jobs := w.jobs.map (fun j => if j.id == id then f j else j) }

/-- A lane's outputs land. -/
def Wave.jobLane (w : Wave) (id first l : Nat) (xs : List RWord) (ok : Bool) : Wave :=
  let b : Word := 1#32 <<< l
  ((w.wrLane first l xs).onJob id (fun j => { j with todo := j.todo &&& ~~~b, ok := if ok then j.ok ||| b else j.ok })).jobEnd id

/-- A lane's outputs fail and keep their old data (R287); the job keeps the address of the first byte that failed. -/
def Wave.jobFail (w : Wave) (id l addr : Nat) : Wave :=
  let b : Word := 1#32 <<< l
  (w.onJob id (fun j => { j with
    todo := j.todo &&& ~~~b, failed := j.failed ||| b, addr := if j.failed = 0 then BitVec.ofNat 64 addr else j.addr })).jobEnd id

/-! NCALL (R271 to R274). -/

/-- The words a lane of an NCALL consumes: its handle and its inputs. -/
def State.callLane (s : State) (a : BitVec 8) (nin : Nat) (hnd : Operand) (l : Nat) : Val × List RWord :=
  (s.rdOp .i32 1 hnd l, (List.range nin).map (fun k => VReg.lane (s.w.rdV (a.toNat + k)) l))

/-- Whether every bin is sealed: the intake stops accepting (R282). -/
def Cluster.stalled (c : Cluster) : Bool := decide (8 ≤ c.bins.length) && c.bins.all (fun b => b.2.sealed)

/-- NCALL: nullified lanes at once, the others on their way to the intake. It waits while the intake accepts none (R282), and
for what must be seen by a fill that it causes (R278). -/
def ncallBody (h : Hdr) (tok : BitVec 4) (d a : BitVec 8) (hnd : Operand) (nin nout : Nat) (s : State) : Res :=
  let q := tok.toNat
  if (s.w.tok q).st = .pending then .trap s (tokBusy q)
  else
    let m := s.w.inLanes h.guard
    let lane := s.callLane a nin hnd
    let act := laneMask (fun l => m.getLsbD l && (lane l).1.valid && (lane l).2.all (·.valid))
    let null := m &&& ~~~act
    let w := (List.range nout).foldl (fun w k => w.wrV (d.toNat + k) null VReg.start) (s.w.pendTok q)
    if act = 0 then .done (s.setW (w.readyTok q 0 true))
    else
      let lanes := (lanesOf act).map (fun l => (l, (lane l).1.bits.toNat % 65536, (lane l).2.map (·.data)))
      if (s.cluster (s.w.core / 64)).stalled then .hold s .busy
      else
      match s.fillWaits (lanes.map (fun x => x.2.1)) with
      | i :: is => .hold s (.remote (i :: is))
      | [] =>
      let k := s.newId
      let j : OutJob := ⟨k.2, false, q, d.toNat, nout, act, act, 0, 0, 0⟩
      let c : Call := ⟨false, s.w.core, s.w.place.ctx, s.w.place.part, s.w.id, k.2, d.toNat, nin, nout, lanes, [], s.fillOrder⟩
      let cl := s.w.core / 64
      let s1 := k.1.setW { w with jobs := w.jobs ++ [j] }
      .done (s1.setCluster cl { (s1.cluster cl) with intake := (s1.cluster cl).intake ++ [c] })

/-! WPIN, WUNPIN and WPREF (R279, R280). -/

/-- The handle of a weight-set instruction. -/
def handleOf (x : Val) : Nat := x.bits.toNat % 65536

def wpinBody (d : BitVec 8) (hnd : Operand) (s : State) : Res :=
  let x := s.rdOp .i32 1 hnd 0
  let put (s : State) (n : Word) : Res := .done (s.setW (s.w.wrS d.toNat ⟨n, true⟩))
  if !x.valid then .done (s.setW (s.w.wrS d.toNat RWord.none))
  else
    let cl := s.w.core / 64
    let ctx := s.w.place.ctx
    match s.fillWaits [handleOf x] with
    | i :: is => .hold s (.remote (i :: is))
    | [] =>
    let r := s.fillSet cl s.w.place.part ctx (handleOf x)
    match r.2 with
    | .noRoom => .hold r.1 .busy
    | .status n => put r.1 (BitVec.ofNat 32 n)
    | .bad _ => put r.1.tick (Config.pinStatus r.1.fresh)
    | .ready =>
      let c := r.1.cluster cl
      match c.set? ctx (handleOf x) with
      | none => put r.1 0
      | some y =>
        if decide (255 ≤ y.pin) || (y.pin == 0 && decide (Config.pinBytes < c.pinned + y.size)) then put r.1 3
        else put (r.1.setCluster cl (c.onSet ctx (handleOf x) (fun y => { y with pin := y.pin + 1 }))) 0

def wunpinBody (hnd : Operand) (s : State) : Res :=
  let x := s.rdOp .i32 1 hnd 0
  let cl := s.w.core / 64
  if !x.valid then .done s
  else .done (s.setCluster cl ((s.cluster cl).onSet s.w.place.ctx (handleOf x) (fun y => { y with pin := y.pin - 1 })).sweep)

def wprefBody (hnd : Operand) (s : State) : Res :=
  let x := s.rdOp .i32 1 hnd 0
  if !x.valid then .done s
  else
    match s.fillWaits [handleOf x] with
    | i :: is => .hold s (.remote (i :: is))
    | [] =>
    let r := s.fillSet (s.w.core / 64) s.w.place.part s.w.place.ctx (handleOf x)
    match r.2 with
    | .noRoom => .hold r.1 .busy
    | .ready | .status _ | .bad _ => .done r.1

def wprefDropBody (hnd : Operand) (s : State) : Res :=
  let x := s.rdOp .i32 1 hnd 0
  let cl := s.w.core / 64
  if !x.valid then .done s
  else
    .done (s.setCluster cl ((s.cluster cl).onSet s.w.place.ctx (handleOf x)
      (fun y => if y.pin == 0 then { y with drop := true } else y)).sweep)

/-! WAITQ and POLLQ (R289). -/

/-- Consumes a ready token, whose V and VALUE stay as they are (R93): DATAERR where it reports a failure (R287); a token of
TLWAIT acquires (R307). -/
def State.takeToken (s : State) (d : BitVec 8) (q : Nat) : Res :=
  let t := s.w.tok q
  let empty : Token := { t with st := .empty, fail := false, tl := false }
  match s.w.failedJob q with
  | some j => .trap (s.setW ((s.w.clearFail j).setTok q empty)) { cause := .dataerr, addr := j.addr, lanes := j.failed }
  | none =>
    let s1 := if t.tl then s.l1Acquire s.w.core true true else s
    .done (s1.setW ((s1.w.setTok q empty).wrS d.toNat ⟨t.value, t.valid⟩))

/-- The NCALLs of a token have their bins flushed (R282). -/
def State.flushToken (s : State) (q : Nat) : State :=
  (s.w.jobs.filter (fun j => j.tok == q)).foldl (fun s j => s.flushJob s.w.id j.id) s

def waitqBody (d : BitVec 8) (tok : BitVec 4) (s : State) : Res :=
  match (s.w.tok tok.toNat).st with
  | .empty => .done (s.setW (s.w.wrS d.toNat RWord.none))
  | .pending => .hold (s.flushToken tok.toNat) (.waitq tok.toNat)
  | .ready => s.takeToken d tok.toNat

def pollqBody (d : BitVec 8) (tok : BitVec 4) (s : State) : Res :=
  match (s.w.tok tok.toNat).st with
  | .empty | .pending => .done (s.setW (s.w.wrS d.toNat RWord.none))
  | .ready => s.takeToken d tok.toNat

/-! The intake and the bins (R270, R281, R282). -/

/-- Accepts the next NCALL: round-robin by core from `turn`, within a core in issue order (R270). -/
def Cluster.accept (c : Cluster) : Cluster :=
  let has (k : Nat) : Bool := c.intake.any (fun x => !x.taken && x.core % 64 == k)
  match if c.stalled then none else ((List.range 64).map (fun k => (c.turn + k) % 64)).find? has with
  | none => c
  | some k =>
    match indexWhere (fun x : Call => !x.taken && x.core % 64 == k) c.intake 0 with
    | none => c
    | some i =>
      let rest := dropAt c.intake i
      let x := (c.intake.drop i).take 1 |>.map (fun y => { y with taken := true })
      { c with intake := rest.filter (fun y => y.taken) ++ x ++ rest.filter (fun y => !y.taken), turn := (k + 1) % 64 }

/-- Whether a lane's set is settled for a call (R281). -/
def Cluster.settled (c : Cluster) (x : Call) (h : Nat) : Bool :=
  (c.set? x.ctx h).isSome || x.bad.any (fun b => b.1 == h)

/-- The open bin of a set. -/
def Cluster.openBin (c : Cluster) (ctx h : Nat) : Option Nat :=
  (List.range 8).find? (fun b =>
    match Tab.find c.bins b with
    | some x => !x.sealed && x.ctx == ctx && x.handle == h
    | none => false)

/-- The open bin whose first row is oldest, the lowest index on a tie (R281). -/
def Cluster.oldestBin (c : Cluster) : Option Nat :=
  ((List.range 8).foldl (fun (m : Option (Nat × Nat)) b =>
    match Tab.find c.bins b with
    | some x =>
      if x.sealed then m
      else
        let r := (x.rows.headD ⟨⟨0, 0, 0⟩, 0, 0, 0, 0, [], 0⟩).rcyc
        match m with
        | some y => if r < y.2 then some (b, r) else m
        | none => some (b, r)
    | none => m) none).map (·.1)

/-- The free bin with the lowest index. -/
def Cluster.lowestFree (c : Cluster) : Option Nat := (List.range 8).find? (fun b => !Tab.has c.bins b)

/-- Makes a bin free for a new handle where none is: the open bin whose first row is oldest is flushed, and sealed where the
run queue is full (R281, R282). -/
def Cluster.freeBin (c : Cluster) : Cluster :=
  match c.lowestFree, c.oldestBin with
  | none, some b => c.flush b
  | _, _ => c

/-- Appends a row to the bin of its set, and tells whether a bin could take it. -/
def Cluster.addRow (c : Cluster) (ctx h : Nat) (r : Row) : Cluster × Bool :=
  let put (c : Cluster) (b : Nat) (rows : List Row) : Cluster :=
    let c1 := { c with bins := Tab.set c.bins b ⟨ctx, h, rows ++ [r], false⟩, useClock := c.useClock + 1 }
    let c2 := c1.onSet ctx h (fun y => { y with last := c1.useClock })
    if 32 ≤ rows.length + 1 then c2.flush b else c2
  match c.openBin ctx h with
  | some b => (put c b (match Tab.find c.bins b with | some x => x.rows | none => []), true)
  | none =>
    let c1 := c.freeBin
    match c1.lowestFree with
    | some b => (put c1 b [], true)
    | none => (c1, false)

/-- The binning of the lanes of a call: what is left where the intake stalls. -/
structure BinAcc where
  st : State
  left : List (Nat × Nat × List Word)
  stuck : Bool
deriving DecidableEq, Repr

/-- Bins one lane by its status (R277, R281). -/
def BinAcc.lane (acc : BinAcc) (cl : Nat) (x : Call) (l : Nat × Nat × List Word) : BinAcc :=
  let s := acc.st
  let c := s.cluster cl
  let zero := List.replicate x.nout RWord.none
  let refuse : BinAcc := { acc with st := s.onStream x.wave (fun w => w.jobLane x.job x.first l.1 zero false) }
  if acc.stuck then { acc with left := acc.left ++ [l] }
  else
    match x.bad.find? (fun b => b.1 == l.2.1), c.set? x.ctx l.2.1 with
    | some b, _ => if b.2.1 = 9 then { acc with st := s.onStream x.wave (fun w => w.jobFail x.job l.1 b.2.2) } else refuse
    | none, none => { acc with left := acc.left ++ [l], stuck := true }
    | none, some y =>
      if x.nin != imgIn y.image || x.nout != imgOut y.image then refuse
      else
        let r := c.addRow x.ctx l.2.1 ⟨x.wave, x.job, l.1, x.first, x.nout, l.2.2.map (fun v => BitVec.ofNat 32 (toF16 v.toNat)), s.rcyc cl⟩
        if r.2 then { acc with st := s.setCluster cl r.1 }
        else { acc with st := s.setCluster cl r.1, left := acc.left ++ [l], stuck := true }

/-- Bins the accepted calls whose sets are settled, in arrival order (R281). -/
def State.binCalls (s : State) (cl : Nat) : List Call → State × List Call
  | [] => (s, [])
  | x :: t =>
    if x.taken && x.lanes.all (fun l => (s.cluster cl).settled x l.2.1) then
      let a := x.lanes.foldl (fun a l => BinAcc.lane a cl x l) ⟨s, [], false⟩
      if a.left.isEmpty then a.st.binCalls cl t else (a.st, { x with lanes := a.left } :: t)
    else
      let r := s.binCalls cl t
      (r.1, x :: r.2)

/-- Whether the caller of a row leaves: its wave has executed HALT, or its gang is evicted or chosen for eviction (R282). -/
def State.leaving (s : State) (r : Row) : Bool :=
  (match s.stream? r.wave with | some w => w.halted || w.core == noCore | none => false)
    || (match s.gang? r.wave.gang with | some x => x.chosen | none => false)

/-- Whether a bin's first row is 256 RCYC old (R282). -/
def Bin.aged (b : Bin) (now : Nat) : Bool :=
  match b.rows with
  | r :: _ => decide (256 ≤ (now + 2 ^ 64 - r.rcyc) % 2 ^ 64)
  | [] => false

/-- Whether a cause of R282 other than a full bin and a new handle holds for a bin: a waiter or reader, age, a caller that
leaves. -/
def State.flushDue (s : State) (cl : Nat) (b : Bin) : Bool :=
  b.rows.any (fun r => (s.cluster cl).wanted.contains (r.wave, r.job) || s.leaving r) || b.aged (s.rcyc cl)

/-- The flushing of a cycle, after binning: every open bin that is due, in ascending index (R282). -/
def State.flushPass (s : State) (cl : Nat) : State :=
  s.setCluster cl { ((s.cluster cl).flushWhere (s.flushDue cl)) with wanted := [] }

/-- NCALL_INTAKE: a call is accepted, those whose sets are settled are binned, and the bins that are due are flushed (R281,
R282). -/
def State.intakeStep (s : State) (cl : Nat) : State :=
  let s1 := s.setCluster cl (s.cluster cl).accept
  let r := s1.binCalls cl (s1.cluster cl).intake
  (r.1.setCluster cl { (r.1.cluster cl) with intake := r.2 }).flushPass cl

/-- The first accepted call with an unsettled set that may be filled, and that set: a set that left the cache after the call
issued is filled once what happens before that issue has performed (R278). -/
def State.wantsFill (s : State) (cl : Nat) : Option (Call × Nat) :=
  ((s.cluster cl).intake.filter (fun x => x.taken && (s.outstanding x.part x.waits).isEmpty)).findSome? (fun x =>
    (x.lanes.find? (fun l => !(s.cluster cl).settled x l.2.1)).map (fun l => (x, l.2.1)))

/-- WEIGHT_FILL (R278). -/
def State.weightFill (s : State) (cl : Nat) : State :=
  match s.wantsFill cl with
  | none => s
  | some (x, h) =>
    let r := s.fillSet cl x.part x.ctx h
    let note (n ia : Nat) : State :=
      let c := r.1.cluster cl
      r.1.setCluster cl { c with intake := c.intake.map (fun y =>
        if y.wave == x.wave && y.job == x.job then { y with bad := y.bad ++ [(h, n, ia)] } else y) }
    match r.2 with
    | .ready | .noRoom => r.1
    | .status n => note n 0
    | .bad ia => note 9 ia

/-- BIN_AGE_FLUSH: the flushing of a cycle in which the intake holds no call (R282). -/
def State.ageFlush (s : State) (cl : Nat) : State := s.flushPass cl

/-- The results of a row land with its caller (R283). -/
def State.landRow (s : State) (img : List Byte) (r : Row) : State :=
  let out := (runRow img (r.inputs.map (fun x => x.toNat))).map (fun x => (⟨BitVec.ofNat 32 x, true⟩ : RWord))
  s.onStream r.wave (fun w => w.jobLane r.job r.first r.lane out true)

/-- A tile whose weights hold an uncorrectable error: each of its rows depends on every weight of the set, and fails (R287).
The host record is one of the cache's SRAM (R419). -/
def State.failTile (s : State) (cl : Nat) (t : Tile) (addr : Nat) : State :=
  t.rows.foldl (fun (s : State) (r : Row) => s.onStream r.wave (fun w => w.jobFail r.job r.lane addr))
    (s.hostError 3 (s.ownerOf (cl / 2)) (.weightCache cl) t.ctx addr 1)

/-- TILE_COMPLETE (R283): the results of the tile at the head land with their callers. -/
def State.tileDone (s : State) (cl : Nat) : State :=
  let c := s.cluster cl
  match c.runq with
  | [] => s
  | t :: ts =>
    let s1 :=
      match c.set? t.ctx t.handle with
      | some y =>
        match y.bad with
        | k :: _ => s.failTile cl t (y.ia + k)
        | [] => t.rows.foldl (fun (s : State) (r : Row) => s.landRow y.image r) s
      | none => s
    s1.setCluster cl ({ (s1.cluster cl) with runq := ts }).unseal.sweep

def execNcall (h : Hdr) (tok : BitVec 4) (d a : BitVec 8) (hnd : Operand) (nin1 : BitVec 5) (nout1 : BitVec 4) (s : State) : Out :=
  issue (.ncall h tok d a hnd nin1 nout1) s (ncallBody h tok d a hnd (nin1.toNat + 1) (nout1.toNat + 1))
def execWpin (h : Hdr) (d : BitVec 8) (hnd : Operand) (s : State) : Out := issue (.wpin h d hnd) s (wpinBody d hnd)
def execWunpin (h : Hdr) (hnd : Operand) (s : State) : Out := issue (.wunpin h hnd) s (wunpinBody hnd)
def execWpref (h : Hdr) (hnd : Operand) (s : State) : Out := issue (.wpref h hnd) s (wprefBody hnd)
def execWprefDrop (h : Hdr) (hnd : Operand) (s : State) : Out := issue (.wprefDrop h hnd) s (wprefDropBody hnd)
def execWaitq (h : Hdr) (d : BitVec 8) (tok : BitVec 4) (s : State) : Out := issue (.waitq h d tok) s (waitqBody d tok)
def execPollq (h : Hdr) (d : BitVec 8) (tok : BitVec 4) (s : State) : Out := issue (.pollq h d tok) s (pollqBody d tok)
def execNcallIntake (cl : Nat) (s : State) : Out := .next (s.intakeStep cl)
def execWeightFill (cl : Nat) (s : State) : Out := .next (s.weightFill cl)
def execBinAgeFlush (cl : Nat) (s : State) : Out := .next (s.ageFlush cl)
def execTileComplete (cl : Nat) (s : State) : Out := .next (s.tileDone cl)

end Sys2Proof.Machine
end

