-- ==== Sys2Proof/Machine/Rays.lean ====
section
/-! DEFINITION. Ray traversal: TRACE, TREND and the search of a traversal unit (R327 to R334). -/

namespace Sys2Proof.Machine

/-- FL, the first leaf slot of a hierarchy of `depth` levels (R327). -/
def firstLeaf (depth : Nat) : Nat := (8 ^ depth - 1) / 7

/-- f32 words of the rays. -/
def f32 (w : Word) : XVal := decodeElem .f32 w.toNat
def toF32 (rnd : Rnd) (x : XVal) : Nat := roundArith .f32 rnd 0 x
/-- Exact difference, with a zero that is positive. -/
def XVal.minus (x y : XVal) : XVal := XVal.sum false [x, y.negate]
def XVal.plain (x : XVal) : XVal := if x.isZero then .fin false 0 1 else x
def XVal.least (x y : XVal) : XVal := if XVal.lt y x then y else x
def XVal.most (x y : XVal) : XVal := if XVal.lt x y then y else x

/-- A bad ray (R332). -/
def Ray.bad (r : Ray) : Bool :=
  (r.org ++ r.dir).any (fun w => (f32 w).isNan || (f32 w).isInf) || (f32 r.tmin).isNan || (f32 r.tmax).isNan
    || XVal.lt (f32 r.tmax) (f32 r.tmin)

/-- The bounds of child `k` on axis `a` (R328). -/
def childBounds (node : List Byte) (k a : Nat) : Nat × Nat :=
  let o := decodeElem .f32 (fieldAt node (4 * a) 4)
  let e := signedOf 8 (fieldAt node (12 + a) 1)
  let v (off : Nat) : XVal := XVal.sum false [o, XVal.dyadic false (fieldAt node (16 + 6 * k + off + a) 1) e]
  (toF32 .rdn (v 0), toF32 .rup (v 3))

/-- Whether a child is empty (R328). -/
def childEmpty (node : List Byte) (k : Nat) : Bool :=
  (List.range 3).any (fun a => decide (fieldAt node (19 + 6 * k + a) 1 < fieldAt node (16 + 6 * k + a) 1))

/-- One axis of the slab test (R333): near and far, or a miss. -/
def slabAxis (r : Ray) (node : List Byte) (k a : Nat) : Option (Nat × Nat) :=
  let b := childBounds node k a
  let lo := decodeElem .f32 b.1
  let hi := decodeElem .f32 b.2
  let o := f32 (r.org.getD a 0)
  let d := f32 (r.dir.getD a 0)
  if lo.isNan || hi.isNan then none
  else if d.isZero then
    if XVal.lt o lo || XVal.lt hi o then none else some (toF32 .rne (.inf true), toF32 .rne (.inf false))
  else
    let t1 := ((lo.minus o).div d).plain
    let t2 := ((hi.minus o).div d).plain
    some (toF32 .rdn (t1.least t2), toF32 .rup (t1.most t2))

/-- The slab test of a child: its entry value where it is hit (R333). -/
def slabTest (r : Ray) (node : List Byte) (k : Nat) : Option Nat :=
  if childEmpty node k then none
  else
    match slabAxis r node k 0, slabAxis r node k 1, slabAxis r node k 2 with
    | some x, some y, some z =>
      let t0 := [x.1, y.1, z.1].foldl (minMaxF .f32 true) r.tmin.toNat
      let t1 := [x.2, y.2, z.2].foldl (minMaxF .f32 false) r.tmax.toNat
      if XVal.lt (decodeElem .f32 t1) (decodeElem .f32 t0) then none else some t0
    | _, _, _ => none

/-- Inserts a hit: the smallest (t0, k) comes first. -/
def insertHit (h : Nat × Nat) : List (Nat × Nat) → List (Nat × Nat)
  | [] => [h]
  | x :: t =>
    if XVal.lt (decodeElem .f32 x.2) (decodeElem .f32 h.2)
        || (XVal.same (decodeElem .f32 x.2) (decodeElem .f32 h.2) && decide (x.1 < h.1)) then x :: insertHit h t
    else h :: x :: t

/-- The hits of a node, the smallest (t0, k) first. -/
def nodeHits (r : Ray) (node : List Byte) : List (Nat × Nat) :=
  (List.range 8).foldl (fun hs k =>
    if bit (fieldAt node 15 1) k then
      match slabTest r node k with
      | some t => insertHit (k, t) hs
      | none => hs
    else hs) []

/-- What a search has come to: a leaf and its entry value, a reason, or an uncorrectable error at an IA. -/
inductive Found where
  | leaf (prim te : Nat)
  | none (reason : Nat)
  | bad (ia : Nat)
deriving DecidableEq, Repr

/-- A unit fetches a superblock of nodes into its node cache; the one fetched first leaves a full cache (R332). -/
def Cluster.fetchNodes (c : Cluster) (x : NodeEnt) : Cluster :=
  if c.nodes.contains x then c
  else
    let mine := (x :: c.nodes.filter (fun y => y.unit == x.unit)).take Config.nodeLines
    { c with nodes := mine ++ c.nodes.filter (fun y => y.unit != x.unit) }

/-- The traversal unit of a core fetches the child superblocks of the nodes that a ray has hit (R332). -/
def State.fetchNodes (s : State) (core ctx : Nat) (r : Ray) (nodes : List Nat) : State :=
  nodes.foldl (fun s n =>
    match if n < firstLeaf r.depth then s.range ctx (r.base + 64 * (8 * n + 1)) false else none with
    | some t => s.setCluster (core / 64) ((s.cluster (core / 64)).fetchNodes ⟨core % 64 / 16, ctx, t.1 / 512⟩)
    | none => s) s

/-- The search of a ray (R332): `fuel` bounds the nodes it can visit. -/
def State.search (s : State) (p ctx core : Nat) (r : Ray) : Nat → State × Ray × Found
  | 0 => (s, r, .none 0)
  | n + 1 =>
    match r.stack with
    | [] => (s, r, .none 0)
    | (i, te) :: st =>
      let r := { r with stack := st }
      let fl := firstLeaf r.depth
      if XVal.lt (f32 r.tmax) (f32 te) then s.search p ctx core r n
      else if fl ≤ i then (s, r, .leaf ((i - fl) * r.lp % 2 ^ 32) te.toNat)
      else
        let x := s.readSpan p ctx (r.base + 64 * i) 64
        match x.unfit, x.stop with
        | _ :: _, _ => (x.st, r, .none 1)
        | [], some e => if e.cause = .dataerr then (x.st, r, .bad e.addr) else (x.st, r, .none 1)
        | [], none =>
          let hs := (nodeHits r x.bytes).map (fun h => (8 * i + 1 + h.1, BitVec.ofNat 32 h.2))
          (x.st.fetchNodes core ctx r (hs.map (·.1))).search p ctx core { r with stack := hs ++ st } n

/-! The instructions. -/

/-- RANGEFAULT of a hierarchy that no one range holds (R331). -/
def State.hierarchyOk (s : State) (base depth : Nat) : Bool :=
  let last := base + 64 * firstLeaf depth - 1
  let idx (va : Nat) : Option Nat := (List.range 8).find? (fun i =>
    let r := s.rangeReg s.w.place.ctx i
    bit r.2.1 0 && va / 2 ^ 48 == 0 && decide (bits r.1 47 12 ≤ bits va 47 12) && decide (bits va 47 12 ≤ bits r.2.1 47 12))
  (idx base).isSome && idx base == idx last

/-- Lanes whose TRACE result has not landed. -/
def Wave.tracing (w : Wave) : Word := (w.jobs.filter (fun j => j.isTrace)).foldl (fun m j => m ||| j.todo) 0

/-- Issues a TRACE for the lanes of `act` (R332). -/
def State.traceIssue (s : State) (q d : Nat) (m act : Word) (ray : Nat → Option Ray) : State :=
  let w0 := s.w.pendTok q
  let null := m &&& ~~~act
  let w1 := (w0.wrV d null VReg.start).wrV (d + 1) null VReg.start
  if act = 0 then s.setW (w1.readyTok q 0 true)
  else
    let k := s.newId
    let rays := (lanesOf act).foldl (fun t l => match ray l with | some r => Tab.set t l r | none => t) w1.rays
    k.1.setW { w1 with rays := rays, jobs := w1.jobs ++ [⟨k.2, true, q, d, 2, act, act, 0, 0, 0⟩] }

/-- The A words of a lane of TRACE. -/
def Wave.rayWords (w : Wave) (a k l : Nat) : List RWord := (List.range k).map (fun j => VReg.lane (w.rdV (a + j)) l)

def traceBody (h : Hdr) (tok : BitVec 4) (d a b : BitVec 8) (s : State) : Res :=
  let q := tok.toNat
  let m := s.w.inLanes h.guard
  let ws (l : Nat) : List RWord := s.w.rayWords a.toNat 8 l
  let act := laneMask (fun l => m.getLsbD l && (ws l).all (·.valid))
  let base := s.w.rdPair b.toNat
  let c := s.w.rdS (b.toNat + 2)
  let depth := bits c.data.toNat 3 0
  let lp := bits c.data.toNat 31 16
  if !(base.valid && c.valid) then
    .done (s.setW ((s.w.wrV d.toNat m VReg.start).wrV (d.toNat + 1) m VReg.start))
  else if (s.w.tok q).st = .pending then .trap s (tokBusy q)
  else if bits c.data.toNat 15 4 != 0 || depth == 0 || decide (10 < depth) || lp == 0 || base.bits.toNat % 512 != 448 then
    .trap s { cause := .rayarg }
  else if !s.hierarchyOk base.bits.toNat depth then .trap s (rangeFault act base.bits.toNat)
  else if s.w.tracing &&& act != 0 then .hold s .busy
  else
    let ray (l : Nat) : Option Ray :=
      let x := (ws l).map (·.data)
      some ⟨x.take 3, (x.drop 3).take 3, x.getD 6 0, x.getD 7 0, base.bits.toNat, depth, lp, [(0, x.getD 6 0)]⟩
    .done (s.traceIssue q d.toNat m act ray)

def traceNextBody (h : Hdr) (tok : BitVec 4) (d a : BitVec 8) (s : State) : Res :=
  let q := tok.toNat
  let m := s.w.inLanes h.guard
  let x (l : Nat) : RWord := VReg.lane (s.w.rdV a.toNat) l
  let act := laneMask (fun l => m.getLsbD l && (x l).valid)
  if (s.w.tok q).st = .pending then .trap s (tokBusy q)
  else if s.w.tracing &&& act != 0 then .hold s .busy
  else
    .done (s.traceIssue q d.toNat m act (fun l =>
      (Tab.find s.w.rays l).map (fun r => { r with tmax := BitVec.ofNat 32 (minMaxF .f32 false r.tmax.toNat (x l).data.toNat) })))

/-- TREND (R334). -/
def trendBody (h : Hdr) (d : BitVec 8) (s : State) : Res :=
  let m := s.w.inLanes h.guard
  if s.w.tracing &&& m != 0 then .hold s .busy
  else
    let res : VReg := laneList.map (fun l => if Tab.has s.w.rays l then ⟨1, true⟩ else RWord.none)
    .done (s.setW { (s.w.wrV d.toNat m res) with rays := s.w.rays.filter (fun e => !(m.getLsbD e.1)) })

/-- TRACE_RESULT: the search of lane `l` of a wave lands (R332). -/
def State.traceDone (s : State) (id : WaveId) (l : Nat) : State :=
  match (s.stream? id).bind (fun w => (w.jobs.find? (fun j => j.isTrace && j.todo.getLsbD l)).map (fun j => (w, j))) with
  | none => s
  | some (w, j) =>
    let p := w.place.part
    let ctx := w.place.ctx
    let give (s : State) (r : Option Ray) (x y : RWord) : State :=
      s.onStream id (fun w =>
        let w1 := { w with rays := match r with | some r => Tab.set w.rays l r | none => Tab.erase w.rays l }
        w1.jobLane j.id j.first l [x, y] x.valid)
    let miss (s : State) (reason : Nat) : State := give s none RWord.none ⟨BitVec.ofNat 32 reason, true⟩
    match Tab.find w.rays l with
    | none => miss s 3
    | some r =>
      if r.bad then miss s 2
      else if s.unitsWait p then s
      else
        let x := s.search p ctx w.core r (8 ^ (r.depth + 1))
        match x.2.2 with
        | .leaf prim te => give x.1 (some x.2.1) ⟨BitVec.ofNat 32 prim, true⟩ ⟨BitVec.ofNat 32 te, true⟩
        | .none reason => miss x.1 reason
        | .bad va =>
          (x.1.dramError p ctx ((s.range ctx va false).elim va (·.1))).onStream id (fun w =>
            ({ w with rays := Tab.erase w.rays l }).jobFail j.id l va)

def execTrace (h : Hdr) (tok : BitVec 4) (d a b : BitVec 8) (s : State) : Out :=
  issue (.trace h tok d a b) s (traceBody h tok d a b)
def execTraceNext (h : Hdr) (tok : BitVec 4) (d a : BitVec 8) (s : State) : Out :=
  issue (.traceNext h tok d a) s (traceNextBody h tok d a)
def execTrend (h : Hdr) (d : BitVec 8) (s : State) : Out := issue (.trend h d) s (trendBody h d)
def execTraceResult (w : WaveId) (n : Nat) (s : State) : Out := .next (s.traceDone w n)

end Sys2Proof.Machine
end

