-- ==== Sys2Proof/Machine/Launch.lean ====
section
/-! DEFINITION. Pending gangs: how a launch, the dicing unit or a draw makes one (R14, R255, R314, R317). -/

namespace Sys2Proof.Machine

/-- A group before its first placement: fresh merge counters, decoder slots and regions (R234, R238, R163). -/
def Grp.fresh : Grp :=
  ⟨[], [], [], 0, [], [0, 0, 0, 0], [], [.empty, .empty, .empty, .empty], [], [], [], false⟩

/-- Belay state at belay start (R214). -/
def Belay.fresh : Belay := ⟨List.replicate 16 0, 0, none, 0, []⟩

/-- A pending gang, linear index `lin` of its launch. -/
def Gang.fresh (l : Launch) (lin : Nat) : Gang :=
  ⟨l, lin, .pending, 0, 0, List.replicate l.ngrp Grp.fresh, l.belay.map (fun _ => Belay.fresh), none, false, false⟩

/-- Appends a gang to its queue's pending list (R255). -/
def State.addGang (s : State) (l : Launch) (lin : Nat) : State :=
  let n := s.nextGang
  let q := s.queue l.queue
  ({ s with gangs := Tab.set s.gangs n (Gang.fresh l lin), nextGang := n + 1 }).setQueue l.queue
    { q with pending := q.pending ++ [n] }

/-- Appends gangs `from … from+n-1`. -/
def State.addGangs (s : State) (l : Launch) (lin : Nat) : Nat → State
  | 0 => s
  | n + 1 => (s.addGang l lin).addGangs l (lin + 1) n

/-- Gangs of a launch that are not retired. -/
def State.liveGangs (s : State) (p : Launch → Bool) : List (Nat × Gang) :=
  s.gangs.filter (fun e => e.2.st != .retired && p e.2.launch)

/-- Waves of a group. -/
def Launch.nwave (l : Launch) : Nat := (l.nlane + 31) / 32

/-- Present lanes of wave `k` of a group (R11, R314, R317). -/
def Launch.present (l : Launch) (k : Nat) : Word :=
  match l.masks[k]? with
  | some m => m
  | none => laneMask (fun i => decide (32 * k + i < l.nlane))

end Sys2Proof.Machine
end

