-- ==== Sys2Proof/Machine/Render.lean ====
section
/-! DEFINITION. Dicing, grid shading and sampling (R314 to R326). -/

namespace Sys2Proof.Machine

/-! The grid of a wave (R317 to R321). -/

/-- The grid that a wave shades. -/
def Wave.grid? (w : Wave) : Option Nat :=
  match w.place.kind with
  | .shade n => some n
  | _ => none

/-- A grid of a cluster, as a wave of its own group finds it: a grid that has been dropped, and its number given anew, is none
of the wave's (R335). -/
def State.grid? (s : State) (cl n : Nat) : Option Grid :=
  (Tab.find (s.cluster cl).grids n).filter (fun g => g.gang == s.w.id.gang)

def State.setGrid (s : State) (cl n : Nat) (g : Grid) : State :=
  s.setCluster cl { (s.cluster cl) with grids := Tab.set (s.cluster cl).grids n g }

/-- Grids that hold a reservation (R318). -/
def Cluster.reservedGrids (c : Cluster) : Nat := (c.grids.filter (fun e => e.2.reserved)).length

def gridState : TrapInfo := { cause := .gridstate }

/-- Whether an SRAM word is one of the records of a grid that `want` admits. -/
def SramByte.inGrid (y : SramByte) (cl n : Nat) (want : Nat → Bool) : Bool :=
  match y with
  | .grid c g k => c == cl && g == n && want k
  | .l2 _ | .l1 _ _ | .buf _ _ _ _ => false

/-- GEMIT (R319, R321). -/
def gemitBody (h : Hdr) (a : BitVec 8) (s : State) : Res :=
  let cl := s.w.core / 64
  match s.w.grid?, s.w.gdone with
  | none, _ => .trap s gridState
  | _, true => .trap s gridState
  | some n, false =>
    match s.grid? cl n with
    | none => .done s
    | some g =>
      if !g.reserved && decide (Config.nGrid ≤ (s.cluster cl).reservedGrids) then .hold s .gemit
      else
        let g1 := if g.reserved then g else { g with reserved := true, recs := [] }
        let m := s.w.inLanes h.guard
        let recs := (lanesOf m).foldl (fun t l =>
          let ws := s.w.rayWords a.toNat 8 l
          if ws.all (·.valid) then Tab.set t (32 * s.w.id.wave + l) (ws.map (·.data)) else t) g1.recs
        .done (({ s with sram := s.sram.filter (fun y => !y.inGrid cl n (fun k =>
          m.getLsbD (k % 32) && k / 32 == s.w.id.wave && (s.w.rayWords a.toNat 8 (k % 32)).all (·.valid))) } : State).setGrid cl n
            { g1 with recs := recs })

/-- GDONE (R320, R321). -/
def gdoneBody (s : State) : Res :=
  let cl := s.w.core / 64
  match s.w.grid?, s.w.gdone with
  | none, _ => .trap s gridState
  | _, true => .trap s gridState
  | some n, false =>
    let s1 := s.setW { s.w with gdone := true }
    match s1.grid? cl n with
    | none => .done s1
    | some g => .done (s1.setGrid cl n { g with closed := g.closed ++ [s.w.id.wave] })

/-! Dicing (R314, R315). -/

/-- Half of a sum of two dyadic bounds, exact (R315). -/
def midpoint (a b : Word) : Word := BitVec.ofNat 32 (toF32 .rne ((XVal.sum false [f32 a, f32 b]).mul (.fin false 1 2)))

/-- Micropolygons along a side (R315). -/
def diceCount (len rate : XVal) : Nat :=
  match len.div rate with
  | .fin false n d => Nat.max 1 ((n + d - 1) / d)
  | _ => 1

/-- What becomes of a region with registers v5 … v10 (R315). -/
def diceRegionBy (d : DrawRun) (r : Region) (ws : List RWord) : List Region :=
  let x (k : Nat) : XVal := f32 (ws.getD k RWord.none).data
  let num (n : Nat) : XVal := .fin false n 1
  let zero : XVal := .fin false 0 1
  if ws.any (fun w => !w.valid || (f32 w.data).isNan || (f32 w.data).isInf) then []
  else if XVal.lt (x 2) (x 0) || XVal.lt (x 3) (x 1) || XVal.lt (x 2) zero || XVal.lt (x 3) zero
      || XVal.lt (num d.width) (x 0) || XVal.lt (num d.height) (x 1) then []
  else
    let nu := diceCount (x 4) (f32 d.rate)
    let nw := diceCount (x 5) (f32 d.rate)
    let r := { r with owner := none }
    if (decide (nu ≤ 15) && decide (nw ≤ 15)) || decide (24 ≤ r.splits) then [{ r with grid := some (Nat.min nu 15, Nat.min nw 15) }]
    else if nw ≤ nu then
      let m := midpoint r.u0 r.u1
      [{ r with u1 := m, splits := r.splits + 1 }, { r with u0 := m, splits := r.splits + 1 }]
    else
      let m := midpoint r.w0 r.w1
      [{ r with w1 := m, splits := r.splits + 1 }, { r with w0 := m, splits := r.splits + 1 }]

/-- A whole patch as a region (R314). -/
def patchRegion (p : Nat) : Region := ⟨p, 0, 0x3F800000, 0, 0x3F800000, 0, none, none⟩

/-- Replaces the regions that a gang owns by what became of them: lane `k` of its wave holds the k-th one. -/
def decideRegions (d : DrawRun) (g : Nat) (regs : Nat → List RWord) : Nat → List Region → List Region
  | _, [] => []
  | k, r :: t =>
    if r.owner == some g then diceRegionBy d r (regs k) ++ decideRegions d g regs (k + 1) t
    else r :: decideRegions d g regs k t

/-- Gives undecided regions, `n` at most, to a gang. -/
def claimRegions (g : Nat) : Nat → List Region → List Region × List Region
  | 0, rs => (rs, [])
  | _, [] => ([], [])
  | n + 1, r :: t =>
    if r.owner.isNone && r.grid.isNone then
      let q := claimRegions g n t
      ({ r with owner := some g } :: q.1, r :: q.2)
    else
      let q := claimRegions g (n + 1) t
      (r :: q.1, q.2)

/-- A word of each region in its lane. -/
def laneWords (rs : List Region) (f : Region → Word) : VReg :=
  laneList.map (fun l => match rs[l]? with | some r => ⟨f r, true⟩ | none => RWord.none)

/-- The launch of a bound wave (R314). A draw gives no length of its code region: PCs are not bounded by one. -/
def DrawRun.boundLaunch (d : DrawRun) (cl : Nat) (rs : List Region) : Launch where
  part := d.part
  ctx := d.ctx
  queue := d.queue
  kind := .bound
  code := d.code
  clen := 2 ^ 32
  gx := 1
  gy := 1
  gz := 1
  nlane := 32
  ngrp := 1
  smap := List.replicate 16 0
  stab := [(d.bent, d.bregs)]
  wb := 0
  ab := 0
  cb := 0
  bruFree := false
  helper := none
  lend := false
  belay := none
  cluster := some cl
  initV := [[(0, laneWords rs (fun r => BitVec.ofNat 32 r.p)), (1, laneWords rs (·.u0)), (2, laneWords rs (·.u1)),
             (3, laneWords rs (·.w0)), (4, laneWords rs (·.w1))]]
  masks := [lowLanes rs.length]

/-- The draws of a cluster with one changed. -/
def State.onDraw (s : State) (cl q : Nat) (f : DrawRun → DrawRun) : State :=
  s.setCluster cl { (s.cluster cl) with draws := (s.cluster cl).draws.map (fun d => if d.queue == q then f d else d) }

/-- Places up to 32 regions with the bound shader (R314). -/
def State.boundNext (s : State) (cl : Nat) (d : DrawRun) : State :=
  let open_ := d.regions.filter (fun r => r.owner.isNone && r.grid.isNone)
  let fresh := Nat.min (d.npatch - d.nextPatch) (32 - open_.length)
  let regions := d.regions ++ (List.range fresh).map (fun k => patchRegion (d.nextPatch + k))
  let c := claimRegions s.nextGang 32 regions
  if c.2.isEmpty then s
  else
    (s.onDraw cl d.queue (fun d => { d with regions := c.1, nextPatch := d.nextPatch + fresh })).addGang
      (d.boundLaunch cl c.2) 0

/-- A wave whose results have all landed. -/
def Wave.landed (w : Wave) : Bool := w.inflight.isEmpty && w.replay.isEmpty && w.jobs.all (fun j => j.todo == 0)

/-- The bound wave of a draw, if one is out. -/
def DrawRun.boundGang (d : DrawRun) : Option Nat := d.regions.findSome? (fun r => r.owner)

/-- DICE_REGION for one draw: the regions of its halted bound wave are decided, and the next ones are placed. -/
def State.diceDraw (s : State) (cl : Nat) (d : DrawRun) : State :=
  match d.boundGang with
  | none => s.boundNext cl d
  | some g =>
    match s.stream? ⟨g, 0, 0⟩ with
    | none => s
    | some w =>
      if w.halted && w.landed then
        let regs (k : Nat) : List RWord := (List.range 6).map (fun j => VReg.lane (Tab.get VReg.start w.v (5 + j)) k)
        let d1 := { d with regions := decideRegions d g regs 0 d.regions }
        (s.onDraw cl d.queue (fun _ => d1)).boundNext cl d1
      else s

def State.diceStep (s : State) (cl : Nat) : State := (s.cluster cl).draws.foldl (fun s d => s.diceDraw cl d) s

/-! Grid launch (R316, R317). -/

/-- A parameter of vertex `i` of `n`: lo + (hi − lo) × i / n, rounded once (R317). -/
def gridParam (lo hi : Word) (i n : Nat) : Word :=
  BitVec.ofNat 32 (toF32 .rne (XVal.sum false [f32 lo, ((f32 hi).minus (f32 lo)).mul (.fin false i n)]))

/-- The start registers of wave `k` of a grid (R317). -/
def gridRegs (r : Region) (nu nw k : Nat) : Tab VReg :=
  let reg (f : Nat → Nat → Word) : VReg :=
    laneList.map (fun l =>
      let v := 32 * k + l
      if v % 16 ≤ nu && v / 16 ≤ nw then ⟨f (v % 16) (v / 16), true⟩ else RWord.none)
  [(0, reg (fun _ _ => BitVec.ofNat 32 r.p)), (1, reg (fun i _ => gridParam r.u0 r.u1 i nu)),
   (2, reg (fun _ j => gridParam r.w0 r.w1 j nw)), (3, reg (fun i _ => BitVec.ofNat 32 i)),
   (4, reg (fun _ j => BitVec.ofNat 32 j))]

/-- The launch of a grid-shading group (R317). -/
def DrawRun.gridLaunch (d : DrawRun) (cl n : Nat) (r : Region) (nu nw : Nat) : Launch where
  part := d.part
  ctx := d.ctx
  queue := d.queue
  kind := .shade n
  code := d.code
  clen := 2 ^ 32
  gx := 1
  gy := 1
  gz := 1
  nlane := 16 * (nw + 1)
  ngrp := 1
  smap := List.replicate 16 0
  stab := [(d.gent, d.gregs)]
  wb := 0
  ab := 0
  cb := 0
  bruFree := false
  helper := none
  lend := false
  belay := none
  cluster := some cl
  initV := (List.range ((16 * (nw + 1) + 31) / 32)).map (gridRegs r nu nw)
  masks := (List.range ((16 * (nw + 1) + 31) / 32)).map (fun k =>
    laneMask (fun l => decide ((32 * k + l) % 16 ≤ nu) && decide ((32 * k + l) / 16 ≤ nw)))

/-- Whether a GEMIT of a draw stands blocked (R316). -/
def State.gemitBlocked (s : State) (q : Nat) : Bool :=
  s.streams.any (fun w => w.wait == .gemit && (match s.gang? w.id.gang with | some x => x.launch.queue == q | none => false))

/-- GRID_LAUNCH for one draw: the region at the head of the depth-first order, once it is a decided grid. -/
def State.gridDraw (s : State) (cl : Nat) (d : DrawRun) : State :=
  match d.regions with
  | r :: rs =>
    match r.grid with
    | some (nu, nw) =>
      if s.gemitBlocked d.queue then s
      else
        let c := s.cluster cl
        let g : Grid := ⟨s.nextGang, d.queue, d.ctx, nu, nw, d.gseq, false, [], []⟩
        let s1 := s.setCluster cl { c with grids := Tab.set c.grids c.nextGrid g, nextGrid := c.nextGrid + 1 }
        (s1.onDraw cl d.queue (fun d => { d with regions := rs, gseq := (d.gseq + 1) % 2 ^ 24 })).addGang
          (d.gridLaunch cl c.nextGrid r nu nw) 0
    | none => s
  | [] => s

/-- Whether a draw has a grid that may be launched. -/
def State.gridReady (s : State) (d : DrawRun) : Bool :=
  (match d.regions with | r :: _ => r.grid.isSome | [] => false) && !s.gemitBlocked d.queue

/-- GRID_LAUNCH: the unit launches one grid, of the first draw that has one (R316). -/
def State.gridStep (s : State) (cl : Nat) : State :=
  match (s.cluster cl).draws.find? s.gridReady with
  | some d => s.gridDraw cl d
  | none => s

/-! Sampling (R322 to R326). -/

/-- A moved vertex at time `t` and lens (u, v): x′, y′, z′ as f32 codes (R324). -/
def movedVertex (ws : List Word) (t u v : XVal) : Nat × Nat × Nat :=
  let w (k : Nat) : XVal := f32 (ws.getD k 0)
  let r (x : XVal) : XVal := decodeElem .f32 (toF32 .rne x)
  let add (x y : XVal) : XVal := r (XVal.sum false [x, y])
  let mul (x y : XVal) : XVal := r (x.mul y)
  (toF32 .rne (add (add (w 0) (mul t (w 3))) (mul u (w 6))), toF32 .rne (add (add (w 1) (mul t (w 4))) (mul v (w 6))),
   toF32 .rne (add (w 2) (mul t (w 5))))

/-- The exact cross product (B − A) × (Q − A). -/
def edge (a b q : XVal × XVal) : XVal :=
  XVal.minus ((b.1.minus a.1).mul (q.2.minus a.2)) ((b.2.minus a.2).mul (q.1.minus a.1))

/-- Whether a point lies in a triangle (R325). -/
def inTriangle (a b c q : XVal × XVal) : Bool :=
  let zero : XVal := .fin false 0 1
  let es := [edge a b q, edge b c q, edge c a q]
  !(edge a b c).isZero && (es.all (fun e => !XVal.lt e zero) || es.all (fun e => !XVal.lt zero e))

/-- The depth and ATTR with which micropolygon (a, b) of a grid covers a point at a time and lens position (R325). -/
def covers (g : Grid) (a b : Nat) (t u v : XVal) (q : XVal × XVal) : Option (Nat × Word) :=
  let rec? (i j : Nat) : Option (List Word) := Tab.find g.recs (16 * j + i)
  match rec? a b, rec? (a + 1) b, rec? (a + 1) (b + 1), rec? a (b + 1) with
  | some r0, some r1, some r2, some r3 =>
    let m := [r0, r1, r2, r3].map (fun r => movedVertex r t u v)
    let d (x : Nat) : XVal := decodeElem .f32 x
    let bad (x : Nat) : Bool := (d x).isNan || (d x).isInf
    if m.any (fun p => bad p.1 || bad p.2.1 || bad p.2.2) then none
    else
      let p (k : Nat) : XVal × XVal := let x := m.getD k (0, 0, 0); (d x.1, d x.2.1)
      if inTriangle (p 0) (p 1) (p 2) q || inTriangle (p 0) (p 2) (p 3) q then
        let z := (m.drop 1).foldl (fun z x => minMaxF .f32 false z x.2.2) ((m.getD 0 (0, 0, 0)).2.2)
        some (z, r0.getD 7 0)
      else none
  | _, _, _, _ => none

/-- A sample's position, time and lens coordinates from its pattern entry (R322). -/
def samplePoint (ent : List Byte) (px py : Nat) : (XVal × XVal) × XVal × XVal × XVal :=
  let n (k : Nat) : Nat := fieldAt ent k 1
  ((.fin false (256 * px + n 0) 256, .fin false (256 * py + n 1) 256), .fin false (n 2) 256,
   (XVal.ofInt (signedOf 8 (n 3))).mul (.fin false 1 128), (XVal.ofInt (signedOf 8 (n 4))).mul (.fin false 1 128))

/-- One sample resolved against a grid: every covering micropolygon updates its record (R326). -/
def State.resolveSample (s : State) (cl : Nat) (d : DrawRun) (g : Grid) (px py k : Nat) : State :=
  let e := s.fillBytes d.part (d.spat + ((32 * (py % 32) + px % 32) * 16 + k) * 8) 8
  match e.2.2 with
  | some ia => e.1.dramError d.part d.ctx ia
  | none =>
    let pt := samplePoint e.2.1 px py
    (List.range (g.nu * g.nw)).foldl (fun s n =>
      let a := n % g.nu
      let b := n / g.nu
      match covers g a b pt.2.1 pt.2.2.1 pt.2.2.2 pt.1 with
      | none => s
      | some (z, attr) =>
        let ia := d.sbuf + ((py * d.width + px) * d.spp + k) * 16
        let r := s.atomic d.part (.sampler cl) d.ctx ia
          (.sample (BitVec.ofNat 32 z) attr (BitVec.ofNat 32 (g.gseq * 256 + 16 * b + a)))
        match r.2 with
        | .inl y => if y.bad then r.1.dramError d.part d.ctx ia else r.1
        | .inr _ => r.1) e.1

/-- Every sample of the screen against a grid. -/
def State.resolveGrid (s : State) (cl : Nat) (d : DrawRun) (g : Grid) : State :=
  (List.range (d.width * d.height)).foldl (fun s n =>
    (List.range d.spp).foldl (fun s k => s.resolveSample cl d g (n % d.width) (n / d.width) k) s) s

/-- The vertex records of a grid in which the sampler meets an uncorrectable error. -/
def State.badVertices (s : State) (cl n : Nat) (g : Grid) : List Nat := (Tab.keys g.recs).filter (fun k => s.sram.contains (.grid cl n k))

/-- A complete grid meets the screen. An uncorrectable error in one of its vertex records posts a host record each, and the grid gives
no sample: the error has no effect beyond that grid (R335; DESIGN CHOICE: the rule does not say how much of the grid it costs). -/
def State.sampleGrid (s : State) (cl : Nat) (d : DrawRun) (n : Nat) (g : Grid) : State :=
  match s.badVertices cl n g with
  | [] => s.resolveGrid cl d g
  | ks => ks.foldl (fun s k => s.hostError 3 d.part (.gridBuffer cl) d.ctx (32 * k) 1) s

/-- Whether every wave of a grid's group has executed GDONE or HALT (R320). -/
def State.gridComplete (s : State) (g : Grid) : Bool :=
  match s.gang? g.gang with
  | none => true
  | some x =>
    x.st != .pending && (List.range x.launch.nwave).all (fun k =>
      g.closed.contains k || (match s.stream? ⟨g.gang, 0, k⟩ with | some w => w.halted | none => true))

/-- The draw that a grid belongs to. -/
def State.drawOf (s : State) (cl : Nat) (g : Grid) : Option DrawRun := (s.cluster cl).draws.find? (fun d => d.queue == g.queue)

/-- GRID_RESOLVE: the first complete grid passes to the sampler, or is dropped where it was never reserved (R320). -/
def State.resolveStep (s : State) (cl : Nat) : State :=
  match (s.cluster cl).grids.find? (fun e => s.gridComplete e.2) with
  | none => s
  | some (n, g) =>
    let p := match s.gang? g.gang, s.drawOf cl g with | _, some d => d.part | some x, none => x.launch.part | none, none => 0
    if s.unitsWait p then s
    else
      let s1 := match g.reserved, s.drawOf cl g with | true, some d => s.sampleGrid cl d n g | _, _ => s
      { s1.setCluster cl { (s1.cluster cl) with grids := Tab.erase (s1.cluster cl).grids n } with
        sram := s1.sram.filter (fun y => !y.inGrid cl n (fun _ => true)) }

/-- A draw with nothing left to dice, shade or resolve, and no sample update that has not performed (R313, R337). -/
def State.drawDone (s : State) (cl : Nat) (d : DrawRun) : Bool :=
  d.regions.isEmpty && d.nextPatch == d.npatch
    && (s.liveGangs (fun l => l.queue == d.queue && (match l.kind with | .node _ => false | _ => true))).isEmpty
    && (s.cluster cl).grids.all (fun e => e.2.queue != d.queue)
    && (s.pendingAccs d.part).all (fun a => !(a.agent == .sampler cl && a.ctx == d.ctx))

def execGemit (h : Hdr) (a : BitVec 8) (s : State) : Out := issue (.gemit h a) s (gemitBody h a)
def execGdone (h : Hdr) (s : State) : Out := issue (.gdone h) s gdoneBody
def execDiceRegion (cl : Nat) (s : State) : Out := .next (s.diceStep cl)
def execGridLaunch (cl : Nat) (s : State) : Out := .next (s.gridStep cl)
def execGridResolve (cl : Nat) (s : State) : Out := .next (s.resolveStep cl)

end Sys2Proof.Machine
end

