-- ==== Sys2Proof/Machine/Pool.lean ====
section
/-! DEFINITION. The register pool: REGREL, REGCLM and REGQRY (R97 to R102). -/

namespace Sys2Proof.Machine

/-- POOLARG (R98). -/
def poolArg (n : Nat) : TrapInfo := { cause := .poolarg, addr := BitVec.ofNat 64 n }

/-- A count that R98 refuses. -/
def countBad (n : Nat) : Bool := n == 0 || n % 4 != 0 || decide (256 < n)

/-- REGREL (R99): the gate has waited for the writes that are pending. -/
def regrelTo (n : Nat) (s : State) : Res :=
  let c := s.w.c
  if countBad n || decide (c < n) then .trap s (poolArg n)
  else .done ((s.setW { s.w with c := n, v := Tab.below s.w.v n }).addFreed s.w.core (c - n))

/-- REGCLM (R100): the claim is entered and then waited for; GRANT_PASS raises the count. -/
def regclmTo (x : Instr) (n : Nat) (s : State) : Res :=
  if countBad n then .trap s (poolArg n)
  else if n ≤ s.w.c then .done s
  else
    let c := s.core s.w.core
    if (c.claims ++ c.dead).any (fun k => k.wave == s.w.id) then .hold s (.regclm n)
    else
      let k : Claim := ⟨s.w.id, s.w.slot, n, n - s.w.c, Tab.get 0 s.clock (sliceOf s.w.core), wordOf x⟩
      .hold (s.setCore s.w.core { c with claims := c.claims ++ [k] }) (.regclm n)

/-- The count that a scalar register names: none where it is invalid (R98). -/
def State.countOf (s : State) (a : BitVec 8) : Option Nat :=
  let x := s.w.rdS a.toNat
  if x.valid then some x.data.toNat else none

def regrelSBody (a : BitVec 8) (s : State) : Res := match s.countOf a with | some n => regrelTo n s | none => .done s
def regclmSBody (x : Instr) (a : BitVec 8) (s : State) : Res :=
  match s.countOf a with
  | some n => regclmTo x n s
  | none => .done s

/-- REGQRY: `free` is the count after this cycle's grant pass (R102). -/
def regqryBody (d : BitVec 8) (w : QryWhat) (s : State) : Res :=
  let x := match w with
    | .own => s.w.c
    | .free => Config.nVReg - (s.core s.w.core).poolUsed
    | .claims => (s.core s.w.core).claims.length
  .done (s.setW (s.w.wrS d.toNat ⟨BitVec.ofNat 32 x, true⟩))

/-- Withdraws the claim of a wave, also one whose REGDEAD is due. -/
def State.withdraw (s : State) (core : Nat) (w : WaveId) : State :=
  s.setCore core { (s.core core) with
    claims := (s.core core).claims.filter (fun k => k.wave != w)
    dead := (s.core core).dead.filter (fun k => k.wave != w) }

def execRegrel (h : Hdr) (n : BitVec 9) (s : State) : Out := issue (.regrel h n) s (regrelTo n.toNat)
def execRegrelS (h : Hdr) (a : BitVec 8) (s : State) : Out := issue (.regrelS h a) s (regrelSBody a)
def execRegclm (h : Hdr) (n : BitVec 9) (s : State) : Out := issue (.regclm h n) s (regclmTo (.regclm h n) n.toNat)
def execRegclmS (h : Hdr) (a : BitVec 8) (s : State) : Out := issue (.regclmS h a) s (regclmSBody (.regclmS h a) a)
def execRegqry (h : Hdr) (d : BitVec 8) (w : QryWhat) (s : State) : Out := issue (.regqry h d w) s (regqryBody d w)

end Sys2Proof.Machine
end

