-- ==== Sys2Proof/Machine/Helpers.lean ====
section
/-! DEFINITION. Recruited helpers: RECRUIT, HGET, HRED, HJOIN, HEXIT and HREL (R149 to R160). -/

namespace Sys2Proof.Machine

/-! RECRUIT (R152, R153). -/

/-- A refusal: 0, valid. -/
def State.refuse (s : State) (d : BitVec 8) : Res := .done (s.setW (s.w.wrS d.toNat RWord.zero))

/-- The registers that a snapshot copies: v0 … v31 and s1 … s31. -/
def snapRegs : List Reg := (List.range 32).map Reg.v ++ (List.range 31).map (fun n => Reg.s (n + 1))

/-- Present lanes of a wave as a mask, at most `n` of them, ascending. -/
def firstLanes (m : Word) (n : Nat) : Word := (lanesOf m |>.take n).foldl (fun a l => a ||| (1#32 <<< l)) 0

/-- Orders waves by slot. -/
def insertSlot (x : Wave) : List Wave → List Wave
  | [] => [x]
  | y :: t => if decide (y.slot ≤ x.slot) then y :: insertSlot x t else x :: y :: t

/-- The waves that may lend lanes to the recruiter, in ascending slot. -/
def State.lendersFor (s : State) : List Wave :=
  ((s.wavesOn s.w.core).filter (fun x =>
    !(x.id.gang == s.w.id.gang && x.id.group == s.w.id.group) && s.blocked x && !x.halted && x.team.isNone
      && x.lentTo.isNone && x.place.lend)).foldl (fun acc x => insertSlot x acc) []

/-- The lent lanes until `n` are found, one lending wave after another; none where the pool is short of 16 registers. -/
def pickLent (free : Nat) : Nat → List Wave → Option (List (WaveId × Word))
  | 0, _ => some []
  | _, [] => some []
  | n + 1, x :: t =>
    if free < 16 then none
    else
      let m := firstLanes x.place.present (n + 1)
      (pickLent (free - 16) (n + 1 - popLanes m) t).map (fun r => (x.id, m) :: r)

/-- A part right after RECRUIT (R78, R150). -/
def HPart.fresh (entry prev : Word) (lender : Option WaveId) (lanes : Word) (hbase : Nat) : HPart where
  lender := lender
  lanes := lanes
  hbase := hbase
  running := true
  pc := entry
  prev := prev
  exec := lanes
  s := []
  v := []
  seed := laneList.map (fun l => BitVec.ofNat 32 (Nat.xor 0x2545F491 (hbase + popLanes (lanes &&& lowLanes l))))
  windows := []
  inflight := []
  faulted := 0
  owed := []
  stopping := false
  drain := none
  reached := []
  ahead := none

/-- The parts of a team from lenders and lanes, helper indices counted on from `h`. -/
def makeParts (entry prev : Word) : Nat → List (Option WaveId × Word) → List HPart
  | _, [] => []
  | h, x :: t => HPart.fresh entry prev x.1 x.2 h :: makeParts entry prev (h + popLanes x.2) t

/-- The snapshot of the recruiter (R153). -/
def Wave.snapshot (w : Wave) (r : Nat) : List RWord × List RWord :=
  ((List.range 32).map (fun n => if w.c ≤ n then RWord.none else VReg.lane (w.rdV n) r),
   (List.range 32).map w.rdS)

/-- Marks the lanes of the lending waves as lent. -/
def State.lendAll (s : State) (ls : List (WaveId × Word)) : State :=
  ls.foldl (fun s x => s.onStream x.1 (fun y => { y with lentTo := some s.w.id })) s

/-- The team is made: what the recruiter accessed before happens before its helpers' accesses, its update-only lines being sent
(R159, R200). -/
def State.makeTeam (s : State) (d : BitVec 8) (r : Nat) (entry : Word) (ps : List (Option WaveId × Word))
    (lent : List (WaveId × Word)) : State :=
  let s1 := (s.lendAll lent).sendWaveLines.fenceOff (fun _ => true) true
  let snap := s1.w.snapshot r
  let n := sumNat (ps.map (fun p => popLanes p.2))
  let t : Team := ⟨r, n, snap.1, snap.2, makeParts entry s1.w.pc 0 ps, 0, [], false, [], []⟩
  s1.setW { (s1.w.wrS d.toNat ⟨lowLanes n, true⟩) with team := some t }

/-- Grants helpers to the recruiter lane `r` (R152). -/
def State.grantHelpers (s : State) (d : BitVec 8) (r want : Nat) (entry : Word) (any : Bool) : Res :=
  let own := firstLanes (s.w.place.present &&& ~~~s.w.execM &&& ~~~(1#32 <<< r)) want
  let k := popLanes own
  match if any then pickLent (s.freeRegs s.w.core) (want - k) s.lendersFor else some [] with
  | none => s.refuse d
  | some lent =>
    let ps := (if own = 0 then [] else [(none, own)]) ++ lent.map (fun x => (some x.1, x.2))
    if ps.isEmpty then s.refuse d else .done (s.makeTeam d r entry ps lent)

/-- The NCALL and TRACE results that a snapshot must find landed. -/
def Wave.snapJobs (w : Wave) : List OutJob := w.jobs.filter (fun j => decide (j.first < 32) && j.todo != 0)

/-- What a snapshot waits for (R152): results in flight to v0 … v31 and s1 … s31 land first. -/
def State.snapWait (s : State) (go : State → Res) : Res :=
  let es := s.w.flight.filter (fun e => e.dests.any (fun r => snapRegs.contains r))
  match es.find? (fun e => !e.waits.isEmpty), es.find? (fun e => e.bad != 0), s.w.snapJobs with
  | some e, _, _ => .hold s (.remote e.waits)
  | none, some e, _ =>
    match failedReturn s e with
    | .trap s' t => .trap s' t
    | _ => .hold s .busy
  | none, none, j :: _ => .hold (s.flushJob s.w.id j.id) .busy
  | none, none, [] => go (s.setW (es.foldl Wave.land s.w))

def recruitBody (d : BitVec 8) (want : Operand) (any : Bool) (s : State) : Res :=
  let x := s.rdW want
  let n := Nat.min x.bits.toNat 32
  if !x.valid then .done (s.setW (s.w.wrS d.toNat RWord.none))
  else
    match s.w.place.helper, lanesOf s.w.execM with
    | some entry, [r] =>
      if n = 0 || s.w.team.isSome then s.refuse d else s.snapWait (fun s => s.grantHelpers d r n entry any)
    | _, _ => s.refuse d

/-! HGET (R153). -/

/-- The snapshot word that HGET names. -/
def Wave.snapWord (w : Wave) (a : Operand) : RWord :=
  match w.team, a with
  | some t, .v n => t.snapV.getD n.toNat RWord.none
  | some t, .s n => t.snapS.getD n.toNat RWord.none
  | _, _ => RWord.none

/-- A snapshot word as a result: an invalid one nullifies. -/
def snapRes (r : RWord) : LaneRes := if r.valid then LaneRes.ok r.data.toNat else LaneRes.null

def hgetBody (h : Hdr) (d a : Operand) (s : State) : Res :=
  .done (s.writeForm h.guard d 1 (fun _ => snapRes (s.w.snapWord a)))

/-! HRED (R154). -/

/-- The contribution of a helper joins its partial, the first as it stands. -/
def addPartial (op : RedOp) (ty : ElemType) (rnd : Rnd) (h r : Nat) (x : Val) (ps : List HPartial) : List HPartial :=
  if ps.any (fun p => p.h == h && p.reg == r) then
    ps.map (fun p => if p.h == h && p.reg == r then
        { p with val := ⟨BitVec.ofNat 64 (redCombine op ty rnd p.val.bits.toNat x.bits.toNat), true⟩ } else p)
  else ps ++ [⟨h, r, x⟩]

/-- Whether a team accepts an HRED to R (R154), and its targets after. -/
def Team.target (t : Team) (g : HTarget) : Option (List HTarget) :=
  match t.targets.find? (fun x => x.reg == g.reg) with
  | some x => if x == g then some t.targets else none
  | none => if t.targets.length < 4 then some (t.targets ++ [g]) else none

def hredBody (h : Hdr) (r : BitVec 8) (a : Operand) (op : RedOp) (ty : ElemType) (rnd : Rnd) (s : State) : Res :=
  let x (l : Nat) : Val := s.rdOp ty (typeWords ty) a l
  let act := laneMask (fun l => (s.w.inLanes h.guard).getLsbD l && (x l).valid)
  match s.w.team with
  | none => .done s
  | some t =>
    if act = 0 then .done s
    else
      match t.target ⟨r.toNat, op, ty, rnd⟩ with
      | none => .trap s { cause := .hredarg, lanes := act }
      | some gs =>
        let ps := (lanesOf act).foldl (fun ps l =>
          match s.w.helperIdx l with
          | some k => addPartial op ty rnd k r.toNat (x l) ps
          | none => ps) t.partials
        .done (s.setW { s.w with team := some { t with targets := gs, partials := ps } })

/-! HJOIN, HEXIT, HREL (R155 to R158). -/

/-- Orders the targets by register. -/
def insertTarget (x : HTarget) : List HTarget → List HTarget
  | [] => [x]
  | y :: t => if decide (y.reg ≤ x.reg) then y :: insertTarget x t else x :: y :: t

/-- One fold step: an invalid accumulator gives 0, invalid. -/
def foldPartial (g : HTarget) (acc x : Val) : Val :=
  if acc.valid && x.valid then ⟨BitVec.ofNat 64 (redCombine g.op g.ty g.rnd acc.bits.toNat x.bits.toNat), true⟩ else Val.none

/-- The value of a target after the completed helpers, in ascending index, are folded into it. -/
def Team.foldTarget (t : Team) (g : HTarget) (acc : Val) : Val :=
  ((List.range t.hcount).filter (fun h => t.completed.getLsbD h)).foldl (fun acc h =>
    match t.partials.find? (fun p => p.h == h && p.reg == g.reg) with
    | some p => foldPartial g acc p.val
    | none => acc) acc

/-- Writes a value of `k` words in one lane of the recruiter. -/
def Wave.wrLaneVal (w : Wave) (n k l : Nat) (x : Val) : Wave :=
  (List.range k).foldl (fun w j => w.wrV (n + j) (1#32 <<< l) (VReg.splat (valWord x j))) w

/-- The reductions that HJOIN writes (R158). They are folded into a register whatever an older long-latency instruction of the recruiter
is still to write there, and its result then overwrites the fold (DESIGN CHOICE: the word of HJOIN names none of these registers, and
R24 decides by the names in the word). -/
def Wave.joinTargets (w : Wave) (t : Team) : Wave :=
  (t.targets.foldl (fun acc x => insertTarget x acc) []).foldl (fun w g =>
    let k := typeWords g.ty
    if w.c < g.reg + k then w else w.wrLaneVal g.reg k t.lane (t.foldTarget g (w.rdVL k g.reg t.lane))) w

def hjoinBody (d : BitVec 8) (s : State) : Res :=
  match s.w.team with
  | none => .done (s.setW (s.w.wrS d.toNat RWord.zero))
  | some t =>
    if t.parts.any (fun p => p.running) then .hold s .busy
    else
      match t.fault with
      | some i => .trap s.markReported i
      | none =>
        let s1 := s.setW ((s.w.joinTargets t).wrS d.toNat ⟨t.completed, true⟩)
        .done (s1.endTeam.sendWaveLines.fenceOff (fun _ => true) true)

/-- The helper indices of the lanes in EXEC. -/
def Wave.execHelpers (w : Wave) : Word :=
  (lanesOf w.execM).foldl (fun m l => match w.helperIdx l with | some h => m ||| (1#32 <<< h) | none => m) 0

/-- The accesses that HEXIT waits for: those of its part, and the REDs it has just sent, numbered from `n` (R155). -/
def State.exitWaits (s : State) (n : Nat) : List Nat :=
  match s.w.cur with
  | some p => s.partOwes s.w.place.part p ++ s.outstanding s.w.place.part ((List.range (s.nextId - n)).map (fun k => n + k))
  | none => []

/-- Ends the executing part. -/
def State.exitPart (s : State) : State :=
  let done := s.w.execHelpers
  match s.w.cur, s.w.team with
  | some p, some t =>
    let w := s.w.setCur p.stop
    s.setW { w with team := w.team.map (fun x => { x with completed := t.completed ||| done }) }
  | _, _ => s

/-- HEXIT: update-only lines are sent, and results that met an error fault their lanes first (R155, R157). -/
def hexitBody (s : State) : Res :=
  let n := s.nextId
  let s := s.sendWaveLines
  match s.exitWaits n, s.w.flight.find? (fun e => e.bad != 0) with
  | i :: is, _ => .hold s (.remote (i :: is))
  | [], some e =>
    match failedReturn s e with
    | .hold s' k => .hold s' k
    | _ => .hold s .busy
  | [], none => .gone (s.setW (s.w.flight.foldl Wave.land s.w)).exitPart

def hrelBody (s : State) : Res :=
  match s.releaseTeam with
  | .inr s => .hold s .busy
  | .inl s => .done s

def execRecruit (h : Hdr) (d : BitVec 8) (want : Operand) (any : Bool) (s : State) : Out :=
  issue (.recruit h d want any) s (recruitBody d want any)
def execHget (h : Hdr) (d a : Operand) (s : State) : Out := issue (.hget h d a) s (hgetBody h d a)
def execHred (h : Hdr) (r : BitVec 8) (a : Operand) (op : RedOp) (ty : ElemType) (rnd : Rnd) (s : State) : Out :=
  issue (.hred h r a op ty rnd) s (hredBody h r a op ty rnd)
def execHjoin (h : Hdr) (d : BitVec 8) (s : State) : Out := issue (.hjoin h d) s (hjoinBody d)
def execHexit (h : Hdr) (s : State) : Out := issue (.hexit h) s hexitBody
def execHrel (h : Hdr) (s : State) : Out := issue (.hrel h) s hrelBody

end Sys2Proof.Machine
end

