-- ==== Sys2Proof/Machine/Traps.lean ====
section
/-! DEFINITION. TRAP, TRET, the replay-queue instructions and CXRD and CXWR (R401 to R406). -/

namespace Sys2Proof.Machine

def trapBody (code : BitVec 8) (s : State) : Res := .trap s { cause := .swtrap, sub := code.toNat }

/-! TRET (R404). -/

/-- Leaves handler mode at `pc`; the windows that the handler has opened count the TRET (R23). -/
def tretTo (pc : Word) (s : State) : Res :=
  .gone (s.setW { (trapReturn s.w pc) with windows := tickWindows s.w.windows })

def tretBody (s : State) : Res := tretTo s.w.xpc s
def tretSkipBody (s : State) : Res := tretTo (s.w.xpc + 12) s

/-! Re-issue of a failed entry (R404). -/

/-- The words of a lane in consecutive captured registers, as one value. -/
def capture (rs : List VReg) (k l : Nat) : Val :=
  match k with
  | 2 => pairVal (VReg.lane (rs.getD 0 VReg.start) l) (VReg.lane (rs.getD 1 VReg.start) l)
  | _ => wordVal (VReg.lane (rs.getD 0 VReg.start) l)

/-- The VA of a lane of an entry. -/
def Entry.va (e : Entry) (l : Nat) : Nat := (capture e.addr 2 l).bits.toNat

/-- The lanes in which an entry acts when it is issued again: those whose captured words are valid. -/
def Entry.act (e : Entry) (data : Nat → Bool) : Word :=
  laneMask (fun l => e.lanes.getLsbD l && (capture e.addr 2 l).valid && data l)

/-- LDTB or LDC issued again: the offsets, and for LDC the target groups, are the captured words. -/
def State.reissueBuf (s : State) (x : Instr) (m : MemOp) (b : Buf) (peer : Bool) (e : Entry) : Res :=
  let off := capture e.addr 1
  let grp (l : Nat) : Val := if peer then capture e.data 1 l else ⟨BitVec.ofNat 64 s.w.id.group, true⟩
  let act := laneMask (fun l => e.lanes.getLsbD l && (off l).valid && (grp l).valid)
  s.bufFetch x m.ty b e.wlanes act ((lanesOf act).map (fun l => ⟨l, (grp l).bits.toNat, (off l).bits.toNat⟩)) e.data (!peer)

/-- TKADV issued again, with its captured address and amount: a result that comes at once stands in flight until it lands. -/
def State.reissueTicket (s : State) (x : Instr) (d : BitVec 8) (sc : Scope) (e : Entry) : Res :=
  let n := capture e.data 1 0
  if !(e.lanes.getLsbD 0 && (capture e.addr 2 0).valid && n.valid) then
    let k := s.newId
    .done (k.1.flightEntry x true 1 0 e.va e.data [VReg.splat RWord.none] [] 0 0 k.2)
  else
    s.tkadvAt x d e.va (valWord n 0).data sc (fun t acc id y =>
      if y.bad then t.ticketBad acc
      else .done (t.flightEntry x true 1 1 e.va e.data [VReg.splat ⟨BitVec.ofNat 32 y.old, true⟩] [] 0 0 id))

/-- The access of an entry issued again, at a stream that no longer holds it in flight. -/
def State.reissueBody (s : State) (e : Entry) : Option Res :=
  match decode (wordBytes e.word) with
  | .ok (.ld m, _) => some (s.loadGlobal (.ld m) m.ty e.va (noFill m.cache) false e.wlanes (e.act (fun _ => true)))
  | .ok (.lds m, _) => some (s.loadGlobal (.lds m) m.ty e.va (noFill m.cache) true e.wlanes (e.act (fun _ => true)))
  | .ok (.atom m op, _) =>
    let k := typeWords m.ty
    let x := capture e.data k
    some (s.atomReturn (.atom m op) m.ty e.va m.order m.scope e.wlanes (e.act (fun l => (x l).valid)) false e.data
      (fun l => .atomic op m.ty l (x l).bits) (fun l => leBytes (typeBytes m.ty) (x l).bits.toNat))
  | .ok (.cas m, _) =>
    let k := typeWords m.ty
    let x := capture e.data k
    let y := capture (e.data.drop k) k
    some (s.atomReturn (.cas m) m.ty e.va m.order m.scope e.wlanes (e.act (fun l => (x l).valid && (y l).valid)) true e.data
      (fun l => .cas m.ty l (x l).bits (y l).bits)
      (fun l => leBytes (typeBytes m.ty) (x l).bits.toNat ++ leBytes (typeBytes m.ty) (y l).bits.toNat))
  | .ok (.ldtb m b, _) => some (s.reissueBuf (.ldtb m b) m b false e)
  | .ok (.ldc m b, _) => some (s.reissueBuf (.ldc m b) m b true e)
  | .ok (.tkadv h d a n sc, _) => some (s.reissueTicket (.tkadv h d a n sc) d sc e)
  | _ => none

/-- Puts an entry back at its place among those in flight. -/
def putBack (before after : List Entry) (e : Entry) : List Entry := before ++ e :: after

/-- Issues a failed entry again, before any instruction at the PC. A new fault traps at the PC with the entry's word
and PC; the entry stays failed. -/
def State.reissue (s : State) (e : Entry) : State :=
  let before := s.w.inflight.takeWhile (fun y => y.id != e.id)
  let after := (s.w.inflight.drop (before.length + 1))
  match s.setW { s.w with inflight := before ++ after } |>.reissueBody e with
  | none => s.setW { s.w with inflight := putBack before after { e with st := .waiting } }
  | some (.done s1) =>
    match s1.w.inflight.getLast? with
    | some n => s1.setW { s1.w with inflight := putBack before after { n with pc := e.pc }, wait := .none }
    | none => s1
  | some (.trap s1 t) =>
    let w := { s1.w with inflight := putBack before after e }
    match w.trapWaits with
    | i :: is => s1.setW { w with wait := .remote (i :: is) }
    | [] => (s1.setW w).trapNow e.word { t with word := some e.word, hpc := some e.pc }
  | some (.hold s1 k) => s1.setW { s1.w with inflight := putBack before after e, wait := k }
  | some (.jump s1 _) | some (.gone s1) => s1.setW { s1.w with inflight := putBack before after e }

/-- The oldest entry that waits to be issued again. -/
def Wave.failedEntry (w : Wave) : Option Entry :=
  if w.handler || w.sel.isSome then none else w.inflight.find? (fun e => e.st == .failed)

/-! RQRD, RQWR and RQDEL (R401, R403). -/

/-- RQARG (R394). -/
def rqArg (e : Nat) : TrapInfo := { cause := .rqarg, addr := BitVec.ofNat 64 e }

/-- State code of an entry (R401). -/
def EntState.code (x : EntState) : Nat :=
  match x with
  | .waiting => 0
  | .landed => 1
  | .failed => 2

/-- A captured register as a field: an entry in scalar form holds lane 0 only. -/
def Entry.field (e : Entry) (r : VReg) : VReg :=
  laneList.map (fun l => if e.uniform && l != 0 then RWord.none else VReg.lane r l)

/-- A uniform field (R401). -/
def Entry.uniField (e : Entry) (f : Nat) : Nat :=
  match f with
  | 0 => bits e.word.toNat 31 0
  | 1 => bits e.word.toNat 63 32
  | 2 => bits e.word.toNat 95 64
  | 3 => e.pc.toNat
  | 4 => e.st.code
  | _ => e.lanes.toNat

/-- A per-lane field (R401). -/
def Entry.laneField (e : Entry) (f : Nat) : VReg :=
  e.field (if f < 8 then e.addr.getD (f - 6) VReg.start
    else if f < 12 then e.data.getD (f - 8) VReg.start
    else if e.st == .landed then e.res.getD (f - 12) VReg.start else VReg.start)

/-- The entry that an instruction names: nullified, outside the queue, or found (R90, R403). -/
def State.rqEntry (s : State) (o : Operand) : Option (Nat × Option Entry) :=
  let x := s.rdW o
  if x.valid then some (x.bits.toNat, s.w.replay[x.bits.toNat]?) else none

/-- Writes a whole destination of RQRD: every lane that is present, whatever EXEC holds. -/
def Wave.wrAll (w : Wave) (d : Operand) (x : VReg) : Wave :=
  match d with
  | .v n => w.wrV n.toNat w.place.present x
  | .s n => w.wrS n.toNat (VReg.lane x 0)
  | .x _ | .i _ => w

/-- A destination of an instruction that an invalid entry index nullifies as a whole: a scalar one becomes 0, invalid, and a
vector one keeps its words (R90). -/
def Wave.nullAll (w : Wave) (d : Operand) : Wave :=
  match d with
  | .s n => w.wrS n.toNat RWord.none
  | .v _ | .x _ | .i _ => w

def rqrdBody (d e : Operand) (field : BitVec 8) (s : State) : Res :=
  let f := field.toNat
  match s.rqEntry e with
  | none => .done (s.setW (s.w.nullAll d))
  | some (n, none) => .trap s (rqArg n)
  | some (_, some x) =>
    .done (s.setW (s.w.wrAll d (if f < 6 then VReg.splat ⟨BitVec.ofNat 32 (x.uniField f), true⟩ else x.laneField f)))

/-- Replaces a register of a captured list, extending it with unused registers. -/
def setReg : List VReg → Nat → VReg → List VReg
  | [], 0, x => [x]
  | _ :: t, 0, x => x :: t
  | [], n + 1, x => VReg.start :: setReg [] n x
  | r :: t, n + 1, x => r :: setReg t n x

/-- RQWR's effect on an entry. -/
def Entry.write (e : Entry) (f : Nat) (lanes : Word) (x : VReg) : Entry :=
  if f < 6 then { e with lanes := e.lanes &&& lanes, wlanes := e.wlanes &&& ~~~(e.lanes &&& ~~~lanes) }
  else if f < 8 then { e with addr := setReg e.addr (f - 6) x }
  else { e with data := setReg e.data (f - 8) x }

/-- The value that RQWR writes: a lane mask, or a register. An invalid mask nullifies the instruction. -/
def rqwrBody (e x : Operand) (field : BitVec 8) (s : State) : Res :=
  let f := field.toNat
  let y := s.rdW x
  match s.rqEntry e with
  | none => .done s
  | some (n, none) => .trap s (rqArg n)
  | some (n, some ent) =>
    if ent.st != .failed then .trap s (rqArg n)
    else if f < 6 && !y.valid then .done s
    else
      let r := laneList.map (fun l => match x with | .v k => VReg.lane (s.w.rdV k.toNat) l | _ => RWord.none)
      .done (s.setW { s.w with replay := s.w.replay.set n (ent.write f (y.bits.setWidth 32) r) })

def rqdelBody (e : Operand) (s : State) : Res :=
  match s.rqEntry e with
  | none => .done s
  | some (n, none) => .trap s (rqArg n)
  | some (n, some ent) =>
    let w := landEntry s.w { ent with res := ent.dests.map (fun _ => VReg.start), wlanes := ent.lanes }
    .done (s.setW { w with replay := dropAt w.replay n })

/-! CXRD and CXWR (R406). -/

/-- STATE of a token (R93). -/
def TokState.code (t : TokState) : Nat :=
  match t with
  | .empty => 0
  | .pending => 1
  | .ready => 2

/-- What CXRD reads. -/
def State.cxItem (s : State) (i : Nat) : RWord :=
  if i < 16 then ⟨(s.w.tok i).value, (s.w.tok i).valid⟩
  else if i < 32 then ⟨BitVec.ofNat 32 (s.w.tok (i - 16)).st.code, true⟩
  else if i = 32 then ⟨BitVec.ofNat 32 s.w.c, true⟩
  else
    match (s.core s.w.core).claims.find? (fun k => k.wave == s.w.id) with
    | some k => ⟨BitVec.ofNat 32 k.n, true⟩
    | none => RWord.zero

def cxrdBody (d item : BitVec 8) (s : State) : Res := .done (s.setW (s.w.wrS d.toNat (s.cxItem item.toNat)))

def cxwrBody (x : Operand) (item : BitVec 8) (s : State) : Res :=
  let q := item.toNat
  let y := s.rdW x
  if (s.w.tok q).st = .pending then .trap s (rqArg q)
  else .done (s.setW (s.w.setTok q ⟨.ready, y.valid, y.bits.setWidth 32, false, false⟩))

def execTrap (h : Hdr) (code : BitVec 8) (s : State) : Out := issue (.trap h code) s (trapBody code)
def execTret (h : Hdr) (s : State) : Out := issue (.tret h) s tretBody
def execTretSkip (h : Hdr) (s : State) : Out := issue (.tretSkip h) s tretSkipBody
def execRqrd (h : Hdr) (d e : Operand) (field : BitVec 8) (s : State) : Out := issue (.rqrd h d e field) s (rqrdBody d e field)
def execRqwr (h : Hdr) (e x : Operand) (field : BitVec 8) (s : State) : Out := issue (.rqwr h e x field) s (rqwrBody e x field)
def execRqdel (h : Hdr) (e : Operand) (s : State) : Out := issue (.rqdel h e) s (rqdelBody e)
def execCxrd (h : Hdr) (d item : BitVec 8) (s : State) : Out := issue (.cxrd h d item) s (cxrdBody d item)
def execCxwr (h : Hdr) (x : Operand) (item : BitVec 8) (s : State) : Out := issue (.cxwr h x item) s (cxwrBody x item)

end Sys2Proof.Machine
end

