-- ==== Sys2Proof/Machine/Returns.lean ====
section
/-! DEFINITION. The events of the memory system: results that land, stores that perform, parking, replay, page requests,
shoot-downs and write-backs (R188 to R213, R345 to R350). -/

namespace Sys2Proof.Machine

/-! Entries of a wave, wherever they stand. -/

/-- Changes every long-latency instruction of a wave: in flight, in its replay queue, and in the parts of its team. -/
def Wave.mapEntries (w : Wave) (f : Entry → Entry) : Wave :=
  { w with
    inflight := w.inflight.map f
    replay := w.replay.map f
    team := w.team.map (fun t => { t with parts := t.parts.map (fun p => { p with inflight := p.inflight.map f }) }) }

/-- An awaited access has performed. -/
def Entry.unwait (e : Entry) (id : Nat) : Entry := { e with waits := e.waits.filter (fun i => i != id) }

/-- Sets the result words of a lane. -/
def Entry.setLane (e : Entry) (l : Nat) (ws : List RWord) : Entry :=
  { e with res := (e.res.zip ws).map (fun q => q.1.set l q.2) }

/-- Whether an entry is a CAS. -/
def Entry.isCas (e : Entry) : Bool := bits e.word.toNat 95 88 == 0x89

/-- A lane of an entry met an uncorrectable byte: the VA of the lowest such lane is kept (R193). -/
def Entry.markBad (e : Entry) (l : Nat) (va : Nat) : Entry :=
  { e with
    bad := e.bad ||| (1#32 <<< l)
    badAddr := if (lanesOf e.bad).any (fun k => decide (k ≤ l)) then e.badAddr else BitVec.ofNat 64 va }

/-- The lane and the result words of a parked atomic's result. -/
def ParkOp.lane (o : ParkOp) : Nat :=
  match o with
  | .atomic _ _ l _ => l
  | .cas _ l _ _ => l
  | .tkadv _ _ | .sample _ _ _ | .write _ | .quiet _ | .merge _ | .read => 0

/-- The words of one lane of an atomic's operand. -/
def ParkOp.words (o : ParkOp) : Nat :=
  match o with
  | .atomic _ ty _ _ => typeWords ty
  | .cas ty _ _ _ => typeWords ty
  | .tkadv _ _ | .sample _ _ _ | .write _ | .quiet _ | .merge _ | .read => 1

/-- What an atomic that performs late gives its entry (R198, R199, R201). -/
def Entry.late (e : Entry) (o : ParkOp) (r : AtomRes) : Entry :=
  if r.bad then e.markBad o.lane (capture e.addr 2 o.lane).bits.toNat
  else e.setLane o.lane (atomWords e.isCas o.words r.old r.done)

/-- An access of an agent has performed under its number: the entry that awaits it learns of it. -/
def State.performed (s : State) (agent : Agent) (id : Nat) (f : Entry → Entry) : State :=
  match agent with
  | .wave w _ (some e) => s.onStream w (fun x => x.mapEntries (fun y => if y.id == e then (f y).unwait id else y))
  | _ => s

/-! Retrying an access (R191, R346, R348). -/

/-- A reply that the fabric waits for: the old word of an atomic of `n` bytes, open where it met an uncorrectable error (R424). -/
def State.fabReply (s : State) (n : Nat) (r : AtomRes) : State :=
  let bs := if r.bad then (List.range n).map (fun k => Config.openByte (s.fresh + k)) else leBytes n r.old
  let s := if r.bad then s.tick else s
  { s with dev := { s.dev with fabricReads := s.dev.fabricReads ++ [some bs] } }

/-- Retries an access that has left the park buffer or was held: it performs, parks again under a new sequence number, or is held
behind the merges of its line that arrived before it; its own recall was made when it arrived (R170). A read that performs gives its
line to the engine that made it. -/
def State.retry (s : State) (p : Nat) (a : Parked) : State :=
  let write := match a.op with | .read => false | _ => true
  let r := s.xlate p a.ia
  let again (s : State) : State := s.park p a r.2 write
  match r.2 with
  | .stop _ _ _ => again r.1
  | .leaf l =>
    if r.2.reason write != 0 then again r.1
    else if !(r.1.mergeDue p (a.ia / 128) a.id).isEmpty then
      { r.1 with stores := r.1.stores ++ [⟨p, a⟩] }
    else
      match a.op with
      | .read => r.1.serveRead p a l
      | .write _ | .quiet _ | .merge _ =>
        let t := r.1.performOp p a.agent a.ctx a.ia l a.op
        if a.agent == .host then r.1.bellsFirst t else t
      | op =>
        let t := r.1.atomicAt p l a.ia op.bytes op.fn
        let s1 := (if t.2.bad then t.1.dramError p a.ctx a.ia else t.1).l1After a.agent a.ctx a.ia l none
        match a.agent with
        | .fabric => s1.fabReply op.bytes t.2
        | _ => s1.performed a.agent a.id (fun e => e.late op t.2)

/-- BUSY of RPLY clears when every retry has performed or parked again (R348): one that is held behind a merge, or waits in front of a
full park buffer, has done neither. -/
def State.replaySettled (s : State) (p : Nat) : State :=
  let x := s.part p
  let waits (i : Nat) : Bool := x.parkWait.any (fun a => a.id == i) || s.stores.any (fun h => h.part == p && h.acc.id == i)
  if x.rplybusy then
    s.setPart p { x with rplyHeld := x.rplyHeld.filter waits, rplybusy := !(x.rplyIds.isEmpty && (x.rplyHeld.filter waits).isEmpty) }
  else s

/-- The replay of the accesses that a write of RPLY has found parked: each is retried, in the order of its number; while a shoot-down
runs they wait (R348). -/
def State.replayRun (s : State) (p : Nat) : State :=
  if s.shooting p && !(s.part p).rplyIds.isEmpty then s
  else
    let x := s.part p
    let due := x.parked.filter (fun a => x.rplyIds.contains a.id)
    let s1 := s.setPart p { x with
      parked := x.parked.filter (fun a => !x.rplyIds.contains a.id), rplyIds := [], rplyHeld := x.rplyHeld ++ due.map (·.id) }
    (due.foldl (fun s a => s.retry p a) s1).replaySettled p

/-- RPLY (R348): every access parked at the write is retried; one that parks later is none of them. -/
def State.replayAll (s : State) (p : Nat) : State :=
  let x := s.part p
  (s.setPart p { x with rplyIds := x.parked.map (·.id), rplybusy := true }).replayRun p

/-- PARK_ACCESS (R346): an access in front of a full park buffer is translated again once its MTU has room and no shoot-down
holds its page. -/
def State.unparkWait (s : State) (p : Nat) : State :=
  let x := s.part p
  let room (a : Parked) : Bool := !x.held a.ia && decide ((x.parked.filter (fun e => s.mtuOf p e.ia == s.mtuOf p a.ia)).length < Config.parkRoom)
  match x.parkWait.find? room with
  | some a => ((s.setPart p { x with parkWait := x.parkWait.filter (fun e => e.id != a.id) }).retry p a).replaySettled p
  | none => s

/-- Whether a held access waits on: for Noon, for the end of a shoot-down of its page, or for the merges of its line (R170, R349,
R423). -/
def State.heldStill (s : State) (h : HeldStore) : Bool :=
  (s.part h.part).held h.acc.ia || (s.part h.part).power != .noon
    || !(s.mergeDue h.part (h.acc.ia / 128) h.acc.id).isEmpty

/-- STORE_PERFORM (R202): a held write performs, parks under its own number, or a remote write is acknowledged. -/
def State.storeNow (s : State) (n : Nat) : State :=
  match s.stores.find? (fun h => h.acc.id == n) with
  | some h =>
    if s.heldStill h then s
    else ({ s with stores := s.stores.filter (fun y => y.acc.id != n) }.retry h.part h.acc).replaySettled h.part
  | none => { s with remotes := s.remotes.filter (fun r => !(r.id == n && r.entry.isNone)) }

/-! Results that land (R26, R193, R400). -/

/-- Gives a stream the place of the one that executes; the turn list is untouched. -/
def State.focus (s : State) (id : WaveId) : State :=
  if s.w.live && s.w.id == id then s
  else
    match s.stream? id with
    | some x =>
      let rest := s.waves.filter (fun y => !(y.live && y.id == id))
      { s with w := x, waves := if s.w.live then s.w :: rest else rest }
    | none => s

/-- The bytes of a remote reply join a lane's result (R424). -/
def Entry.reply (e : Entry) (r : Remote) (bytes : List Byte) : Entry :=
  match decode (wordBytes e.word) with
  | .ok (.ld m, _) | .ok (.lds m, _) =>
    let k := typeWords m.ty
    let old := capture e.res k r.lane
    let raw := leBytes (typeBytes m.ty) old.bits.toNat
    let new := raw.take r.pos ++ bytes ++ raw.drop (r.pos + bytes.length)
    if old.valid then
      e.setLane r.lane ((List.range k).map (fun j => valWord ⟨BitVec.ofNat 64 (loadValue m.ty (leNat new)), true⟩ j))
    else e
  | .ok (.atom m _, _) => e.setLane r.lane (atomWords false (typeWords m.ty) (leNat bytes) true)
  | .ok (.cas m, _) =>
    let cmp := (capture e.data (typeWords m.ty) r.lane).bits.toNat
    e.setLane r.lane (atomWords true (typeWords m.ty) (leNat bytes) (leNat bytes == cmp))
  | _ => e.setLane r.lane [⟨BitVec.ofNat 32 (leNat bytes), true⟩]

/-- The replies of an entry's remote requests, in the order of their numbers. -/
def State.takeReplies (s : State) (w : WaveId) (entry : Nat) (bytes : List Byte) : State :=
  let rs := s.remotes.filter (fun r => r.wave == w && r.entry == some entry)
  (rs.foldl (fun (acc : State × List Byte) (r : Remote) =>
    let got := (acc.2 ++ List.replicate r.len 0).take r.len
    let s1 := { acc.1 with remotes := acc.1.remotes.filter (fun y => y.id != r.id) }
    (s1.onStream w (fun x => x.mapEntries (fun e => if e.id == entry then (e.reply r got).unwait r.id else e)),
     acc.2.drop r.len)) (s, bytes)).1

/-- Whether a wave stands where a trap of a returning result may be taken at once: not at a blocking instruction, nor at a
containment instruction that awaits its answer, which finish first (R400). -/
def Wave.trapPoint (w : Wave) : Bool :=
  match w.wait with
  | .none | .busy | .remote _ | .merges _ => true
  | _ => false

/-- A result that met an uncorrectable error returns to a wave (R193, R396); one of a handler's own instructions traps in handler
mode (R399). After HALT there is no P: no trap is raised, and the destinations keep what they hold (DESIGN CHOICE), for no hardware error
clears a validity bit (R89). -/
def State.landBad (s : State) (e : Entry) : State :=
  if s.w.halted then
    s.setW { s.w with inflight := s.w.inflight.filter (fun y => y.id != e.id) }
  else if s.w.stopped || !s.w.trapPoint || !s.w.trapWaits.isEmpty || s.w.core == noCore then s
  else if !s.lentAtBoundary s.w then s.callBack
  else
    match failedReturn s e with
    | .trap s' t => s'.reclaim.trapNow e.word t
    | .hold s' _ => s'
    | .dead | .go _ => s

/-- LOAD_DATA_RETURN lands the result numbered `n` of the stream that has the focus: in its registers, or in its replay
entry (R400). -/
def State.landOwn (s : State) (n : Nat) : State :=
  match s.w.inflight.find? (fun e => e.id == n) with
  | some e =>
    if !e.waits.isEmpty || e.st != .waiting then s
    else if e.bad != 0 then s.landBad e
    else s.setW { (landEntry s.w e) with inflight := s.w.inflight.filter (fun y => y.id != n) }
  | none =>
    s.setW { s.w with replay := s.w.replay.map (fun e =>
      if e.id == n && e.waits.isEmpty && e.st == .waiting then { e with st := if e.bad = 0 then .landed else .failed } else e) }

/-- Lands a result of a helper part: a bad one faults the lanes that read it (R157). -/
def State.landPart (s : State) (k n : Nat) : State :=
  let keep := s.w.sel
  let s1 := s.setW { s.w with sel := some k }
  match s1.w.flight.find? (fun e => e.id == n) with
  | some e =>
    if !e.waits.isEmpty then s
    else
      let s2 := if e.bad = 0 then s1.setW (s1.w.land e)
        else match failedReturn s1 e with | .hold s' _ => s' | _ => s1
      s2.setW { s2.w with sel := keep }
  | none => s

/-- LOAD_DATA_RETURN (R17, R26, R193): the replies of other nodes arrive, then the result lands. -/
def State.dataReturn (s : State) (w : WaveId) (n : Nat) (remote : List Byte) : State :=
  match s.stream? w with
  | none => s
  | some _ =>
    let s0 := (s.takeReplies w n remote).focus w
    let s1 := s0.setW { s0.w with sel := none }
    let parts := match s1.w.team with | some t => t.parts.length | none => 0
    (List.range parts).foldl (fun s k => s.landPart k n) (s1.landOwn n)

/-! Rings (R346, R418, R419). -/

/-- FAULT_RECORD_POST: the oldest waiting record is written where the ring has room. In Eclipse the access is held until Noon
(R423). -/
def State.postFault (s : State) (p : Nat) : State :=
  let x := s.part p
  match x.faultQ with
  | r :: rs =>
    if x.frk = 0 || x.power = .eclipse || (x.frw + 2 ^ 32 - x.frr) % 2 ^ 32 == 2 ^ x.frk then s
    else (s.wrPhys (x.frbase + 32 * (x.frw % 2 ^ x.frk)) r).setPart p { x with faultQ := rs, frw := (x.frw + 1) % 2 ^ 32 }
  | [] => s

/-- EVENT_RECORD_POST (R418). In Eclipse the access is held until Noon (R423). -/
def State.postEvent (s : State) (p : Nat) : State :=
  let x := s.part p
  match x.eventQ with
  | r :: rs =>
    if x.evk = 0 || x.power = .eclipse || (x.evw + 2 ^ 32 - x.evr) % 2 ^ 32 == 2 ^ x.evk then s
    else (s.wrPhys (x.evbase + 64 * (x.evw % 2 ^ x.evk)) r).setPart p { x with eventQ := rs, evw := (x.evw + 1) % 2 ^ 32 }
  | [] => s

/-- HOST_ERROR_RECORD_POST (R419): the ring stands in host memory. -/
def State.postHost (s : State) : State :=
  let d := s.dev
  match d.herq with
  | r :: rs =>
    if d.herk = 0 || (d.herw + 2 ^ 32 - d.herr) % 2 ^ 32 == 2 ^ d.herk then s
    else
      { s with dev := { d with
          hostMem := Mem.writeN d.hostMem (d.herbase + 32 * (d.herw % 2 ^ d.herk)) r, herq := rs, herw := (d.herw + 1) % 2 ^ 32 } }
  | [] => s

/-! Page requests (R213, R347). -/

/-- The token of a page request whose pages have all been judged becomes ready. -/
def State.pgDone (s : State) (p : Nat) : State :=
  let x := s.part p
  let done := x.pgwaits.filter (fun g => g.pages.all (fun q => q.2.2.isSome))
  let s1 := s.setPart p { x with pgwaits := x.pgwaits.filter (fun g => !g.pages.all (fun q => q.2.2.isSome)) }
  done.foldl (fun (s : State) (g : PgWait) => s.onStream g.wave (fun w => w.readyTok g.tok (residentLanes g.pages) true)) s1

/-- PGACK: the page of the request is walked again and judged. -/
def State.pgAnswer (s : State) (p rseq : Nat) : State :=
  let x := s.part p
  match x.pgreqs.find? (fun r => r.rseq == rseq) with
  | none => s
  | some r =>
    let ok := match s.walk p (r.page * 4096) with | .leaf l => l.pres | .stop _ _ _ => false
    let ctxOf (g : PgWait) : Nat := match s.stream? g.wave with | some w => w.place.ctx | none => 4096
    let judge (g : PgWait) : PgWait :=
      if ctxOf g == r.ctx then
        { g with pages := g.pages.map (fun q => if q.1 == r.page && q.2.2.isNone then (q.1, q.2.1, some ok) else q) }
      else g
    (s.setPart p { x with pgreqs := x.pgreqs.filter (fun y => y.rseq != rseq), pgwaits := x.pgwaits.map judge }).pgDone p

/-! Shoot-downs (R349). -/

/-- Starts the shoot-down at the head of the queue. -/
def State.beginShoot (s : State) (p : Nat) : State :=
  match (s.part p).shoots with
  | d :: _ => s.shootPages p d.page d.n
  | [] => s

/-- SHOOT_DOWN: a write of SDCTL with GO = 1; ignored while one of firmware's runs (R344). -/
def State.shootStart (s : State) (p npg : Nat) : State :=
  let x := s.part p
  if x.sdbusy || npg = 0 then s
  else
    let s1 := s.setPart p { x with sdbusy := true, sdnpg := npg, shoots := x.shoots ++ [⟨x.sdia / 4096, npg, true⟩] }
    if x.shoots.isEmpty then s1.beginShoot p else s1

/-- SHOOT_DOWN_COMPLETE: the page-kind caches are cleared, BUSY clears, and the next one starts. -/
def State.shootEnd (s : State) (p : Nat) : State :=
  let x := s.part p
  match x.shoots with
  | d :: ds =>
    let s1 := s.setPart p { x with shoots := ds, sdbusy := if d.byFw then false else x.sdbusy }
    let s2 := (Tab.keys s1.cores).foldl (fun (s : State) c =>
      if s.ownerOf (sliceOf c) == p then s.setCore c { (s.core c) with kinds := [] } else s) s1
    s2.beginShoot p
  | [] => s

def execLoadDataReturn (w : WaveId) (n : Nat) (remote : List Byte) (s : State) : Out := .next (s.dataReturn w n remote)
def execStorePerform (n : Nat) (s : State) : Out := .next (s.storeNow n)
def execUpdateLineSend (core line : Nat) (s : State) : Out := .next (s.sendLine (s.ownerOf (sliceOf core)) core line)
def execParkAccess (p : Nat) (s : State) : Out := .next (s.unparkWait p)
def execFaultRecordPost (p : Nat) (s : State) : Out := .next (s.postFault p)
def execPgack (p : Nat) (rseq : BitVec 32) (s : State) : Out :=
  .next (s.fwWrite (.pgack p rseq) (fun s => s.pgAnswer p rseq.toNat))
/-- A write of RPLY, or the replay that waits for the end of a shoot-down and goes on. -/
def execRply (p : Nat) (s : State) : Out :=
  .next (if (s.part p).rplyIds.isEmpty then s.fwWrite (.rply p) (fun s => s.replayAll p) else s.replayRun p)
def execShootDown (p npg : Nat) (s : State) : Out :=
  .next (s.fwWrite (.shootDown p npg) (fun s => s.shootStart p npg))
def execShootDownComplete (p : Nat) (s : State) : Out := .next (s.shootEnd p)
def execL2WriteBack (p line : Nat) (s : State) : Out := .next (s.writeBack p line)
def execEventRecordPost (p : Nat) (s : State) : Out := .next (s.postEvent p)
def execHostErrorRecordPost (s : State) : Out := .next s.postHost

end Sys2Proof.Machine
end

