-- ==== Sys2Proof/Machine/Tree.lean ====
section
/-! DEFINITION. The containment tree: its instructions, firmware's answers and the roll-up of counts (R361 to R379). -/

namespace Sys2Proof.Machine

/-! The tree unit (R363, R366, R368). -/

/-- The chain of a node: its parents up to a root (R363). -/
def State.chainFrom (s : State) (p m : Nat) : Nat → List Nat
  | 0 => []
  | n + 1 =>
    let q := s.nodeParent p m
    if q = 0 then [] else q :: s.chainFrom p q n

def State.chain (s : State) (p m : Nat) : List Nat := s.chainFrom p m (2 ^ (s.part p).ctk)

/-- A list without its repeats. -/
def onceEach (ns : List Nat) : List Nat := ns.foldl (fun acc n => if acc.contains n then acc else acc ++ [n]) []

/-- A structural bump: 1 to each node of a set, once per node (R368). -/
def State.structBump (s : State) (p : Nat) (ns : List Nat) : State := (onceEach ns).foldl (fun s n => s.addCount p n 1) s

/-- One roll-up step (R366). -/
def State.rollStep (s : State) (p m : Nat) : State :=
  let x := s.part p
  let k := Tab.get 0 x.rollup m
  let s1 := s.setPart p { x with rollup := Tab.erase x.rollup m }
  let q := s.nodeParent p m
  if q = 0 || k = 0 then s1 else (s1.addCount p q k).addPend p q k

/-- Roll-up steps at the pending nodes that `want` admits, until none is left. -/
def State.rollWhile (s : State) (p : Nat) (want : Nat → Bool) : Nat → State
  | 0 => s
  | n + 1 =>
    match (s.part p).rollup.find? (fun e => e.2 != 0 && want e.1) with
    | some e => (s.rollStep p e.1).rollWhile p want n
    | none => s

/-- Steps that bring every pending amount to a root. -/
def State.rollFuel (s : State) (p : Nat) : Nat := (s.part p).rollup.length * 2 ^ (s.part p).ctk + 1

/-- CTSETTLE's second step (R375): the amounts pending beneath `n` are passed up at once. -/
def State.settle (s : State) (p n : Nat) : State := s.rollWhile p (fun m => (s.chain p m).contains n) (s.rollFuel p)

/-- Writes fields of a node. -/
def State.setNodeByte (s : State) (p n off k x : Nat) : State := s.wrPhys (s.nodeAt p n + off) (leBytes k x)
def State.setChildren (s : State) (p n x : Nat) : State := s.setNodeByte p n 16 3 x
def State.setParent (s : State) (p n x : Nat) : State := s.setNodeByte p n 8 3 x
def State.setUsed (s : State) (p n : Nat) (u : Bool) : State :=
  s.setNodeByte p n 15 1 ((s.rdPhys (s.nodeAt p n + 15) 1) % 128 + 128 * b2n u)
def State.setOwner (s : State) (p n ctx : Nat) : State :=
  s.setNodeByte p n 12 2 (s.rdPhys (s.nodeAt p n + 12) 2 / 4096 * 4096 + ctx % 4096)

/-! Checks (R370). -/

def ctArg (x : Nat) : TrapInfo := { cause := .ctarg, addr := BitVec.ofNat 64 x }

/-- CTARG of node and parent operands: K is 0, or an operand is 2^K or more. -/
def State.ctBad (s : State) (xs : List Nat) : Option Nat :=
  let k := (s.part s.w.place.part).ctk
  if k = 0 then some (xs.headD 0) else xs.find? (fun x => decide (2 ^ k ≤ x))

/-- A node operand that is refused: 0, unused, or of another context. -/
def State.refused (s : State) (n : Nat) : Bool :=
  let p := s.w.place.part
  n == 0 || !s.nodeUsed p n || s.nodeOwner p n != s.w.place.ctx

/-- Success writes 1, valid, a refusal its reason, invalid. -/
def State.ctOk (s : State) (d : BitVec 8) : Res := .done (s.setW (s.w.wrS d.toNat ⟨1, true⟩))
def State.ctNo (s : State) (d : BitVec 8) (reason : Nat) : Res :=
  .done (s.setW (s.w.wrS d.toNat ⟨BitVec.ofNat 32 reason, false⟩))

/-! The instructions. -/

/-- CTNEW (R371). -/
def ctnewBody (d : BitVec 8) (parent : Operand) (s : State) : Res :=
  let a := s.rdW parent
  let p := s.w.place.part
  let q := a.bits.toNat
  if !a.valid then .done (s.setW (s.w.wrS d.toNat RWord.none))
  else
    match s.ctBad [q] with
    | some x => .trap s (ctArg x)
    | none =>
      if q != 0 && s.refused q then s.ctNo d 1
      else
        match (List.range (2 ^ (s.part p).ctk - 1)).find? (fun n => !s.nodeUsed p (n + 1)) with
        | none => s.ctNo d 2
        | some m =>
          let n := m + 1
          let s1 := (((s.setUsed p n true).setOwner p n s.w.place.ctx).setParent p n q).setChildren p n 0
          let s2 := if q = 0 then s1 else s1.setChildren p q (s1.nodeChildren p q + 1)
          let s3 := s2.structBump p (n :: s2.chain p n)
          .done (s3.setW (s3.w.wrS d.toNat ⟨BitVec.ofNat 32 n, true⟩))

/-- The range that holds every byte of a VA span: the offset that takes it to its IA (R370). -/
def State.oneRange (s : State) (ctx va n : Nat) : Option Nat :=
  let last := va + n - 1
  let covers (i pg : Nat) : Bool :=
    let r := s.rangeReg ctx i
    bit r.2.1 0 && decide (bits r.1 47 12 ≤ pg) && decide (pg ≤ bits r.2.1 47 12)
  let meets (i : Nat) : Bool :=
    let r := s.rangeReg ctx i
    bit r.2.1 0 && decide (bits r.1 47 12 ≤ last / 4096) && decide (va / 4096 ≤ bits r.2.1 47 12)
  if 2 ^ 48 ≤ last then none
  else
    match (List.range 8).find? meets with
    | some i =>
      if covers i (va / 4096) && covers i (last / 4096) then some ((va + bits (s.rangeReg ctx i).2.2.1 47 0) % 2 ^ 48) else none
    | none => none

/-- The 32-byte request (R372). -/
def ctRequest (leave : Bool) (seq n ia pages ctx : Nat) : List Byte :=
  leBytes 4 ((if leave then 2 else 1) * 2 ^ 28 + seq) ++ leBytes 4 n ++ leBytes 8 ia ++ leBytes 4 pages ++ leBytes 4 ctx
    ++ leBytes 8 0

/-- The first page and the node of each leaf that `n` pages from `page` on overlap (R373). -/
def State.leafNodes (s : State) (p page n : Nat) : List (Nat × Nat) :=
  (List.range n).foldr (fun k acc =>
    match s.walk p ((page + k) * 4096) with
    | .leaf l =>
      let b := (page + k) * 4096 / l.size * l.size / 4096
      if (acc.map (·.1)).contains b then acc else (b, l.cnode) :: acc
    | .stop _ _ _ => acc) []

/-- The leaves that the pages of an unanswered request come to have: one that is mapped after the posting held the node that its
entry had then (R365, R373). -/
def CtReq.learn (r : CtReq) (leaves : List (Nat × Nat)) : CtReq :=
  if r.answer.isSome then r
  else { r with olds := r.olds ++ leaves.filter (fun e => !(r.olds.map (·.1)).contains e.1) }

/-- After a write of firmware's to device memory: the requests that stand see the leaves it has mapped. -/
def State.learnLeaves (s : State) : State :=
  (List.range Config.nPart).foldl (fun (s : State) p =>
    let x := s.part p
    if x.ctreqs.isEmpty then s
    else s.setPart p { x with ctreqs := x.ctreqs.map (fun r => r.learn (s.leafNodes p (r.ia / 4096) r.pages)) }) s

/-- Posts a request; the wave then waits for its answer. -/
def State.ctPost (s : State) (leave : Bool) (n ia pages : Nat) : State :=
  let p := s.w.place.part
  let x := s.part p
  let seq := x.ctseq
  (s.setPart p { x with ctseq := (seq + 1) % 2 ^ 24, ctreqs := x.ctreqs ++ [⟨seq, leave, n, ia, pages, s.w.id, none, s.leafNodes p (ia / 4096) pages⟩] }).event p 4
    (ctRequest leave seq n ia pages s.w.place.ctx)

/-- CTENR and CTLEAVE (R372, R373). -/
def ctpagesBody (leave : Bool) (d n b : BitVec 8) (s : State) : Res :=
  let p := s.w.place.part
  match (s.part p).ctreqs.find? (fun r => r.wave == s.w.id) with
  | some r =>
    match r.answer with
    | none => .hold s .answer
    | some a =>
      let s1 := s.setPart p { (s.part p) with ctreqs := (s.part p).ctreqs.filter (fun y => y.wave != s.w.id) }
      if a = 0 then s1.ctOk d else s1.ctNo d a
  | none =>
    let x := s.w.rdS n.toNat
    let va := s.w.rdPair b.toNat
    let c := s.w.rdS (b.toNat + 2)
    if !(x.valid && va.valid && c.valid) then .done (s.setW (s.w.wrS d.toNat RWord.none))
    else
      match s.ctBad [x.data.toNat] with
      | some y => .trap s (ctArg y)
      | none =>
        if c.data.toNat == 0 || decide (2 ^ 20 < c.data.toNat) then .trap s (ctArg c.data.toNat)
        else
          match s.oneRange s.w.place.ctx va.bits.toNat (4096 * c.data.toNat) with
          | none => .trap s { cause := .rangefault, addr := va.bits }
          | some ia =>
            if s.refused x.data.toNat then s.ctNo d 1
            else .hold (s.ctPost leave x.data.toNat (ia / 4096 * 4096) c.data.toNat) .answer

/-- CTREAD (R374): it follows an acquire point (R376). -/
def ctreadBody (h : Hdr) (d n : BitVec 8) (s : State) : Res :=
  let x := s.w.rdS n.toNat
  let p := s.w.place.part
  let m := x.data.toNat
  let land (s : State) (v : Nat) (ok : Bool) : Res :=
    let k := s.newId
    .done (k.1.launchEntry (.ctread h d n) true 1 1 [] [VReg.splat x]
      [VReg.splat ⟨BitVec.ofNat 32 v, ok⟩, VReg.splat ⟨BitVec.ofNat 32 (v / 2 ^ 32), ok⟩] [] 0 0 k.2)
  if !x.valid then .done (s.setW (s.w.wrPair d.toNat 0 false))
  else
    match s.ctBad [m] with
    | some y => .trap s (ctArg y)
    | none =>
      match s.fencedIds false with
      | i :: is => .hold s (.remote (i :: is))
      | [] =>
        let s := s.physNote p s.w.place.ctx (s.nodeAt p m) 16
        if s.refused m then land s 0 false
        else if s.nodeSat p m then land s (2 ^ 48 - 1) false
        else land s (s.nodeCount p m) true

/-- CTSETTLE (R375). -/
def ctsettleBody (n : BitVec 8) (s : State) : Res :=
  let x := s.w.rdS n.toNat
  if !x.valid then .done s
  else
    match s.ctBad [x.data.toNat] with
    | some y => .trap s (ctArg y)
    | none =>
      if s.refused x.data.toNat then .done s
      else
        let s1 := s.sendWaveLines
        match s1.releaseIds .system with
        | i :: is => .hold s1 (.parked (i :: is))
        | [] => .done (s1.settle s1.w.place.part x.data.toNat)

/-- CTREPAR (R377): the settle and the structural operation are one event here. -/
def ctreparBody (d n : BitVec 8) (parent : Operand) (s : State) : Res :=
  let x := s.w.rdS n.toNat
  let y := s.rdW parent
  let p := s.w.place.part
  let m := x.data.toNat
  let q := y.bits.toNat
  if !(x.valid && y.valid) then .done (s.setW (s.w.wrS d.toNat RWord.none))
  else
    match s.ctBad [m, q] with
    | some z => .trap s (ctArg z)
    | none =>
      if s.refused m || (q != 0 && s.refused q) then s.ctNo d 1
      else if q == m || (q != 0 && (s.chain p q).contains m) then s.ctNo d 3
      else
        let s1 := s.settle p m
        let old := s1.chain p m
        let was := s1.nodeParent p m
        let s2 := s1.setParent p m q
        let s3 := if was = 0 then s2 else s2.setChildren p was (s2.nodeChildren p was - 1)
        let s4 := if q = 0 then s3 else s3.setChildren p q (s3.nodeChildren p q + 1)
        (s4.structBump p (old ++ s4.chain p m)).ctOk d

/-- CTFREE (R378). -/
def ctfreeBody (d n : BitVec 8) (s : State) : Res :=
  let x := s.w.rdS n.toNat
  let p := s.w.place.part
  let m := x.data.toNat
  if !x.valid then .done (s.setW (s.w.wrS d.toNat RWord.none))
  else
    match s.ctBad [m] with
    | some y => .trap s (ctArg y)
    | none =>
      if s.refused m then s.ctNo d 1
      else if s.nodeChildren p m != 0 || s.nodePages p m != 0 then s.ctNo d 4
      else
        let s1 := (s.settle p m).rollStep p m
        let s2 := s1.structBump p (s1.chain p m)
        let q := s2.nodeParent p m
        let s3 := if q = 0 then s2 else s2.setChildren p q (s2.nodeChildren p q - 1)
        ((s3.setUsed p m false).setParent p m 0).ctOk d

/-! Firmware and the roll-up queues. -/

/-- The pages of the leaf that holds a page: first page and number (R342). -/
def State.leafPages (s : State) (p page : Nat) : Nat × Nat :=
  match s.walk p (page * 4096) with
  | .leaf l => (page / (l.size / 4096) * (l.size / 4096), l.size / 4096)
  | .stop _ _ _ => (page, 1)

/-- The refresh point of an answer (R373): MTU entries and line CNODEs of the pages, their leaves whole, are read anew. -/
def State.refresh (s : State) (p page n : Nat) : State :=
  let first := (s.leafPages p page).1
  let tail := s.leafPages p (page + n - 1)
  let inR (k : Nat) : Bool := decide (first ≤ k) && decide (k < tail.1 + tail.2)
  let x := s.part p
  let s1 := s.setPart p { x with mtu := x.mtu.filter (fun e => !inR e.1.2) }
  s1.setPart p { (s1.part p) with l2 := (s1.part p).l2.map (fun e =>
    if inR (e.line / 32) then
      { e with cnode := match s1.walk p (e.line * 128) with | .leaf l => s1.fillNode p e.line l | .stop _ _ _ => 0 }
    else e) }

/-- A request as an answer of another one leaves it: where that changed the leaves, they hold its new node (R373). `mine` and `theirs`
are the leaves that the pages of the two now have: one that both have and that was mapped after the first was posted joins it. -/
def CtReq.follow (y r : CtReq) (res : Nat) (mine theirs : List Nat) : CtReq :=
  if res != 0 then y
  else
    { y with olds := y.olds.map (fun e =>
        if theirs.contains e.1 || (r.olds.map (·.1)).contains e.1 then
          (e.1, if r.leave then (if e.2 = r.node then 0 else e.2) else if e.2 = 0 then r.node else e.2)
        else e)
        ++ (mine.filter (fun b => theirs.contains b && !(y.olds.map (·.1)).contains b)).map (fun b => (b, if r.leave then 0 else r.node)) }

/-- The first pages of the leaves that a request's pages have. -/
def State.reqLeaves (s : State) (p : Nat) (r : CtReq) : List Nat := (s.leafNodes p (r.ia / 4096) r.pages).map (·.1)

/-- CTACK (R373). A write that answers no request, or whose RESULT is none of 0 to 2, is ignored (R361). -/
def State.ctAck (s : State) (p : Nat) (val : Nat) : State :=
  let seq := bits val 31 8
  let res := bits val 7 0
  let nleaf := bits val 55 32
  match if 2 < res then none else (s.part p).ctreqs.find? (fun r => r.seq == seq && r.answer.isNone) with
  | none => s
  | some r =>
    let s0 := s.setPart p { (s.part p) with ctreqs := (s.part p).ctreqs.map (fun y =>
      if y.seq == seq then { y with answer := some res } else y.follow r res (s.reqLeaves p y) (s.reqLeaves p r)) }
    let s1 := s0.refresh p (r.ia / 4096) r.pages
    if res = 0 then
      let n := s1.nodePages p r.node
      let s2 := s1.setNodeByte p r.node 20 4 (if r.leave then n - nleaf else n + nleaf)
      s2.structBump p (r.node :: s2.chain p r.node)
    else s1

/-- A write of CTACK: the nodes of a partition in Eclipse are out of reach until Noon (R423). -/
def State.ctAckWrite (s : State) (p : Nat) (val : BitVec 64) : State :=
  if (s.part p).power = .eclipse then s.hold (.ctack p val) else s.ctAck p val.toNat

/-- A write of CTK (R361): a write of 0 first brings every pending amount to a root. -/
def State.writeCtk (s : State) (p k : Nat) : State :=
  if k = 0 then
    let s1 := s.rollWhile p (fun _ => true) (s.rollFuel p)
    s1.setPart p { (s1.part p) with ctk := 0, rollup := [] }
  else if decide (4 ≤ k) && decide (k ≤ 24) then s.setPart p { (s.part p) with ctk := k }
  else s

def execCtnew (h : Hdr) (d : BitVec 8) (parent : Operand) (s : State) : Out := issue (.ctnew h d parent) s (ctnewBody d parent)
def execCtenr (h : Hdr) (d n b : BitVec 8) (s : State) : Out := issue (.ctenr h d n b) s (ctpagesBody false d n b)
def execCtread (h : Hdr) (d n : BitVec 8) (s : State) : Out := issue (.ctread h d n) s (ctreadBody h d n)
def execCtsettle (h : Hdr) (n : BitVec 8) (s : State) : Out := issue (.ctsettle h n) s (ctsettleBody n)
def execCtrepar (h : Hdr) (d n : BitVec 8) (parent : Operand) (s : State) : Out :=
  issue (.ctrepar h d n parent) s (ctreparBody d n parent)
def execCtleave (h : Hdr) (d n b : BitVec 8) (s : State) : Out := issue (.ctleave h d n b) s (ctpagesBody true d n b)
def execCtfree (h : Hdr) (d n : BitVec 8) (s : State) : Out := issue (.ctfree h d n) s (ctfreeBody d n)
def execCtack (p : Nat) (val : BitVec 64) (s : State) : Out := .next (s.fwWrite (.ctack p val) (fun s => s.ctAckWrite p val))
def execCtkWrite (p : Nat) (k : Nat) (s : State) : Out :=
  .next (s.fwWrite (.ctkWrite p k) (fun s => s.writeCtk p (k % 32)))
def execRollUpStep (p node : Nat) (s : State) : Out := .next (s.rollStep p node)

end Sys2Proof.Machine
end

