-- ==== Sys2Proof/Machine/Place.lean ====
section
/-! DEFINITION. Placement of gangs, wake conditions, retirement and eviction (R11 to R18, R30 to R34, R266 to R268). -/

namespace Sys2Proof.Machine

/-! Waves at their start (R11 to R14). -/

/-- The stage of a wave index (R14). -/
def Launch.stage (l : Launch) (i : Nat) : Nat := l.smap.getD i 0

/-- Entry and initial register count of a wave index (R14). -/
def Launch.start (l : Launch) (i : Nat) : Nat × Nat := l.stab.getD (l.stage i) (0, 4)

/-- The place of wave `i` of a group of a gang (R12). -/
def Launch.place (l : Launch) (lin i qslot : Nat) : Place where
  stage := l.stage i
  nlane := l.nlane
  nwave := l.nwave
  ngroup := l.ngrp
  gx := lin % l.gx
  gy := lin / l.gx % l.gy
  gz := lin / (l.gx * l.gy)
  ngx := l.gx
  ngy := l.gy
  ngz := l.gz
  part := l.part
  ctx := l.ctx
  qslot := qslot
  code := l.code
  clen := l.clen
  bruFree := l.bruFree
  helper := l.helper.map (BitVec.ofNat 32)
  lend := l.lend
  present := l.present i
  wbSize := l.wb
  abSize := l.ab
  cbSize := l.cb
  kind := l.kind

/-- A wave at its start (R11, R14, R78). No instruction has led to its entry, so a PCRANGE of its first fetch, which R62 gives no
XADDR, reports the entry PC itself (DESIGN CHOICE). -/
def Wave.fresh (l : Launch) (g lin j i core slot qslot : Nat) : Wave :=
  { Wave.idle with
    live := true
    id := ⟨g, j, i⟩
    core := core
    slot := slot
    place := l.place lin i qslot
    pc := BitVec.ofNat 32 (l.start i).1
    prev := BitVec.ofNat 32 (l.start i).1
    exec := l.present i
    seed := laneList.map (fun k => BitVec.ofNat 32 (Nat.xor 0x2545F491 (32 * i + k)))
    c := (l.start i).2
    v := l.initV.getD i [] }

/-- A belay stream at its start (R214). -/
def Wave.freshBelay (l : Launch) (g lin core qslot entry : Nat) : Wave :=
  { Wave.idle with
    live := true
    id := belayId g
    belay := true
    core := core
    place := l.place lin 0 qslot
    pc := BitVec.ofNat 32 entry
    prev := BitVec.ofNat 32 entry }

/-! Eligibility (R15, R18, R30). -/

/-- The streams of a gang. -/
def State.gangStreams (s : State) (g : Nat) : List Wave := s.streams.filter (fun x => x.id.gang == g)

/-- The groups resident on a core, with their gangs. -/
def State.groupsOn (s : State) (core : Nat) : List (Nat × Gang × Nat) :=
  s.gangs.flatMap (fun e =>
    if e.2.st == .resident then
      (List.range e.2.launch.ngrp).filterMap (fun j =>
        match e.2.groups[j]? with
        | some y => if e.2.coreOf j == core && !y.retired then some (e.1, e.2, j) else none
        | none => none)
    else [])

/-- What a group asks of its core: waves, registers, the guard slots and barriers it brings. -/
structure Need where
  waves : Nat
  regs : Nat
  wb : Nat
  ab : Nat
  cb : Nat
  guards : List Nat
  bars : List Nat
deriving DecidableEq, Repr

/-- What group `j` of a gang asks for. -/
def State.need (s : State) (g j : Nat) (x : Gang) : Need :=
  let y := x.groups.getD j Grp.fresh
  let ws := (s.gangStreams g).filter (fun w => !w.belay && w.id.group == j)
  { waves := if x.st == .pending then x.launch.nwave else ws.length
    regs := if x.st == .pending then sumNat ((List.range x.launch.nwave).map (fun i => (x.launch.start i).2))
            else sumNat (ws.map (·.c))
    wb := if y.retired then 0 else x.launch.wb
    ab := if y.retired then 0 else x.launch.ab
    cb := if y.retired then 0 else x.launch.cb
    guards := Tab.keys y.guards
    bars := Tab.keys y.bars }

/-- What the groups of some gangs take of a core, those of `except` left out. -/
def State.taken (s : State) (core : Nat) (except : List Nat) : Need :=
  let gs := (s.groupsOn core).filter (fun e => !except.contains e.1)
  let ws := (s.wavesOn core).filter (fun x => !except.contains x.id.gang)
  { waves := ws.length
    regs := sumNat (ws.map (fun x => x.c + (if x.lentTo.isSome then 16 else 0)))
    wb := sumNat (gs.map (fun e => e.2.1.launch.wb))
    ab := sumNat (gs.map (fun e => e.2.1.launch.ab))
    cb := sumNat (gs.map (fun e => e.2.1.launch.cb))
    guards := (Tab.keys (((s.core core).guards).filter (fun e => !except.contains e.2.gang)))
    bars := (Tab.keys (((s.core core).bars).filter (fun e => !except.contains e.2.gang))) }

/-- Whether a core is eligible for a group (R30), the gangs of `except` counted as gone. Registers freed in this cycle are
not free yet (R101). -/
def State.eligible (s : State) (p core : Nat) (except : List Nat) (n : Need) : Bool :=
  let c := s.core core
  let t := s.taken core except
  !c.hot && (!c.droop || !(s.part p).drpen) && s.ownerOf (sliceOf core) == p && decide (t.waves + n.waves ≤ 16)
    && decide (t.regs + c.hold + n.regs ≤ Config.nVReg) && decide (t.wb + n.wb ≤ Config.nWBuf) && decide (t.ab + n.ab ≤ Config.nABuf)
    && decide (t.cb + n.cb ≤ Config.nCBuf) && n.guards.all (fun k => !t.guards.contains k)
    && n.bars.all (fun k => !t.bars.contains k)

/-- The clusters of a partition (R417). -/
def State.clustersOf (s : State) (p : Nat) : List Nat := (List.range Config.nCluster).filter (fun c => s.ownerOf (c / 2) == p)

/-- The belay core of a cluster, numbered after the cores (R214). -/
def belayCore (cl : Nat) : Nat := noCore + cl

/-- Whether a cluster may hold a gang: a draw's own cluster only, and a free belay core where one is needed (R214,
R313). `except` lists gangs counted as gone. -/
def State.clusterOk (s : State) (x : Gang) (c : Nat) (except : Nat → List Nat) : Bool :=
  (match x.launch.cluster with | some k => k == c | none => true)
    && (x.launch.belay.isNone
        || (match (s.cluster c).belayGang with | some g => (except (belayCore c)).contains g | none => true))

/-- The candidate windows of a gang (R31): cluster and first core. `except core` lists the gangs whose hold on a core
is treated as gone. -/
def State.windows (s : State) (p g : Nat) (x : Gang) (except : Nat → List Nat) : List (Nat × Nat) :=
  (s.clustersOf p).flatMap (fun c =>
    if s.clusterOk x c except then
      (List.range (65 - x.launch.ngrp)).filterMap (fun k =>
        if (List.range x.launch.ngrp).all (fun j =>
            s.eligible p (64 * c + k + j) (except (64 * c + k + j)) (s.need g j x)) then some (c, k) else none)
    else [])

/-- Highest TEMP over the cores of a window. -/
def State.windowTemp (s : State) (n : Nat) (w : Nat × Nat) : Nat :=
  ((List.range n).map (fun j => (s.core (64 * w.1 + w.2 + j)).temp.toNat)).foldl Nat.max 0

/-- The window with the lowest maximum TEMP, the lowest first core on a tie (R31). -/
def State.bestWindow (s : State) (n : Nat) (ws : List (Nat × Nat)) : Option (Nat × Nat) :=
  ws.foldl (fun b w =>
    match b with
    | some y => if s.windowTemp n w < s.windowTemp n y then some w else some y
    | none => some w) none

/-! Wake conditions (R266, R268). -/

/-- Whether TKWAIT's word has reached its value; a word that cannot be read is judged by the instruction itself. -/
def State.ticketReached (s : State) (w : Wave) (va v : Nat) : Bool :=
  match s.range w.place.ctx va false with
  | some t =>
    if attrRemote t.2 || !s.resident w.place.part t.1 4 then true
    else decide ((s.rdIA w.place.part t.1 4 + 2 ^ 32 - v) % 2 ^ 32 < 2 ^ 31)
  | none => true

/-- The wake condition of a blocking point. -/
def State.wakes (s : State) (w : Wave) : Bool :=
  match w.wait with
  | .none | .busy | .answer | .drain _ | .regclm _ | .yield _ => true
  | .bar n => match s.grp? w.id.gang w.id.group with | some y => y.gen != n | none => true
  | .abwait b ph =>
    match s.bar? w.id.gang w.id.group b with | some x => x.phase != ph || x.ef | none => true
  | .waitq q => (w.tok q).st != .pending
  | .tlwait e v => decide (v ≤ (s.eng e).tl)
  | .tkwait va v => s.ticketReached w va v
  | .gemit =>
    match s.gang? w.id.gang with
    | some x => decide ((s.cluster x.cluster).reservedGrids < Config.nGrid)
    | none => true
  | .remote ids | .parked ids => (s.outstanding w.place.part ids).isEmpty
  | .merges ls => ls.all (fun e => (s.mergeDue w.place.part e.1 e.2).isEmpty)
  | .slots m =>
    match (s.gang? w.id.gang).bind (fun x => x.belay) with | some b => b.clear m | none => true

/-- Whether a wave's blocking point ends only by its own condition: REGCLM and YIELD end at re-placement too. -/
def State.awake (s : State) (w : Wave) : Bool :=
  match w.wait with
  | .regclm _ | .yield _ => false
  | _ => s.wakes w

/-- Whether every result under way for a wave has landed (R412); one that met an error has come, and traps once the wave goes on. -/
def Wave.resultsIn (w : Wave) : Bool :=
  let landed (e : Entry) : Bool := e.waits.isEmpty && (e.st != .waiting || e.bad != 0)
  w.inflight.all landed && w.replay.all landed && w.jobs.all (fun j => j.todo == 0)
    && w.q.all (fun t => t.2.st != .pending)

/-- Whether a command of the copy engine is one that has not started, or has moved its bytes and performed (R301, R412). -/
def State.copySettled (s : State) (p : Nat) (c : CopyCmd) : Bool := (!c.started || c.done) && (s.outstanding p c.waits).isEmpty

/-- The agents whose accesses belong to a set of gangs. -/
def Agent.ofGangs (a : Agent) (gs : List Nat) : Bool :=
  match a with
  | .wave w _ _ => gs.contains w.gang
  | .copyEng g _ _ => gs.contains g
  | .engine _ | .sampler _ | .host | .fabric => false

/-- Whether an access belongs to a set of gangs: a merge to those of every wave whose REDs it holds (R170). -/
def Parked.ofGangs (a : Parked) (gs : List Nat) : Bool :=
  match a.op with
  | .merge us => us.any (fun u => u.waves.any (fun w => gs.contains w.gang))
  | .write _ | .quiet _ | .atomic _ _ _ _ | .cas _ _ _ _ | .tkadv _ _ | .sample _ _ _ | .read => a.agent.ofGangs gs

/-- Whether an access of a set of gangs that has left its core has not performed. -/
def State.gangsOwed (s : State) (p : Nat) (gs : List Nat) : Bool :=
  (s.pendingAccs p).any (fun a => a.ofGangs gs) || s.remotes.any (fun r => gs.contains r.wave.gang)

/-- Whether an evicted gang may be placed again: a wave can go on, and every result under way at the eviction has landed, its
parked stores among them (R268, R412). -/
def State.replaceable (s : State) (g : Nat) (x : Gang) : Bool :=
  let ws := s.gangStreams g
  ws.any (fun w => !w.halted && s.wakes w) && ws.all Wave.resultsIn && !s.gangsOwed x.launch.part [g]
    && x.groups.all (fun y => y.copyq.all (s.copySettled x.launch.part))

/-- Whether a gang of a pending list may be tried for placement. -/
def State.tryable (s : State) (g : Nat) (x : Gang) : Bool :=
  match x.st with
  | .pending => true
  | .evicted => s.replaceable g x
  | .resident | .retired => false

/-! Placing (R18, R31, R214). -/

/-- The slot for the next wave of a core (R18): the pipe with fewer resident waves, its lowest free position. -/
def nextSlot (used : List Nat) : Nat :=
  let n (pipe : Nat) : Nat := (used.filter (fun k => k / 8 == pipe)).length
  let pipe := if n 1 < n 0 then 1 else 0
  (((List.range 8).map (fun k => 8 * pipe + k)).find? (fun k => !used.contains k)).getD (8 * pipe)

/-- Slots for `n` waves of a core. -/
def slotsFor (used : List Nat) : Nat → List Nat
  | 0 => []
  | n + 1 => nextSlot used :: slotsFor (nextSlot used :: used) n

/-- Adds a stream. -/
def State.addStream (s : State) (w : Wave) : State := { s with waves := s.waves ++ [w] }

/-- Orders waves by index. -/
def insertWave (x : Wave) : List Wave → List Wave
  | [] => [x]
  | y :: t => if decide (y.id.wave ≤ x.id.wave) then y :: insertWave x t else x :: y :: t

/-- A YIELD that stands at its blocking point completes at the re-placement (R147, R266). -/
def Wave.endYield (w : Wave) : Wave :=
  match w.wait with
  | .yield _ => ({ w with pc := w.pc + 12, prev := w.pc, windows := tickWindows w.windows, wait := .none }).popAhead
  | _ => w

/-- Places group `j`: new waves, or those of the image; slots in ascending wave index. The L1 of a core to which waves come back
keeps no copy that they may no longer read: its release-consistent and its unordered ones are dropped (R207, R211, R307). -/
def State.placeGroup (s : State) (g : Nat) (x : Gang) (core qslot j : Nat) : State :=
  let used := (s.wavesOn core).map (·.slot)
  if x.st == .pending then
    let n := x.launch.nwave
    ((List.range n).zip (slotsFor used n)).foldl (fun s q => s.addStream (Wave.fresh x.launch g x.lin j q.1 core q.2 qslot)) s
  else
    let y := x.groups.getD j Grp.fresh
    let ws := ((s.gangStreams g).filter (fun w => !w.belay && w.id.group == j)).foldl (fun acc w => insertWave w acc) []
    let s1 := (ws.zip (slotsFor used ws.length)).foldl (fun s q =>
      s.onStream q.1.id (fun w => { w.endYield with core := core, slot := q.2, place := { w.place with qslot := qslot } }))
      (s.l1Acquire core true true)
    let c := s1.core core
    (s1.setCore core { c with guards := c.guards ++ y.guards, bars := c.bars ++ y.bars }).onGrp g j
      (fun y => { y with guards := [], bars := [] })

/-- The belay stream of a placed gang. -/
def State.placeBelay (s : State) (g : Nat) (x : Gang) (cl qslot : Nat) : State :=
  match x.launch.belay with
  | none => s
  | some entry =>
    let s1 := s.setCluster cl { (s.cluster cl) with belayGang := some g }
    if x.st == .pending then s1.addStream (Wave.freshBelay x.launch g x.lin (64 * cl) qslot entry)
    else s1.onStream (belayId g) (fun w => { w with core := 64 * cl, place := { w.place with qslot := qslot } })

/-- Places a gang on a window (R31), whose context entry its cores read now as far as its records go (R419); its image's pages are
freed (R408). -/
def State.placeGang (s : State) (g qslot : Nat) (x : Gang) (w : Nat × Nat) : State :=
  let q := s.queue x.launch.queue
  let s0 := s.physNote x.launch.part x.launch.ctx (bits s.dev.ctxbase 39 9 * 512 + 512 * x.launch.ctx) 512
  let s1 := s0.setQueue x.launch.queue { q with pending := q.pending.filter (fun k => k != g) }
  let s2 := (List.range x.launch.ngrp).foldl (fun (s : State) j => s.placeGroup g x (64 * w.1 + w.2 + j) qslot j) s1
  let s3 := s2.placeBelay g x w.1 qslot
  match s3.gang? g with
  | some y => s3.setGang g { y with st := .resident, cluster := w.1, base := w.2, image := none }
  | none => s3

/-! Retirement (R34, R214). -/

/-- What a retired group gives back: its guard slots and barriers; commands that are bound to a slot are discarded. -/
def State.retireGroup (s : State) (g j core : Nat) : State :=
  let c := s.core core
  (s.setCore core { c.freeBars (fun b => b.gang == g && b.group == j) with
    guards := c.guards.filter (fun e => !(e.2.gang == g && e.2.group == j)) }).onGrp g j
    (fun y => { y with retired := true, copyq := y.copyq.filter (fun k => k.go.isSome) })

/-- A gang retires once its groups have, and its belay stream has ended. -/
def State.retireGang (s : State) (g : Nat) : State :=
  match s.gang? g with
  | none => s
  | some x =>
    if x.groups.all (fun y => y.retired) && (s.gangStreams g).isEmpty then
      let s1 := s.setGang g { x with st := .retired }
      if (s1.cluster x.cluster).belayGang == some g then
        s1.setCluster x.cluster { (s1.cluster x.cluster) with belayGang := none }
      else s1
    else s

/-- Whether a bound wave's regions are still undecided (R315). -/
def State.undecided (s : State) (id : WaveId) : Bool :=
  s.clusters.any (fun c => c.2.draws.any (fun d => d.regions.any (fun r => r.owner == some id.gang)))

/-- WAVE_RETIRE (R34): a halted wave whose results have all landed returns what it holds. -/
def State.retireWave (s : State) (id : WaveId) : State :=
  match s.stream? id with
  | none => s
  | some w =>
    if !(w.halted && w.landed && w.q.all (fun t => t.2.st != .pending) && !s.undecided id) || w.core == noCore then s
    else
      let s1 := s.dropStream id
      let s2 := if w.belay then s1 else s1.addFreed w.core w.c
      let left := (s2.gangStreams id.gang).any (fun x => !x.belay && x.id.group == id.group)
      (if w.belay || left then s2 else s2.retireGroup id.gang id.group w.core).retireGang id.gang

/-! Eviction (R156, R267). -/

/-- Ends a wave's team parts and returns what they borrowed; the team itself stays. -/
def State.releaseParts (s : State) (id : WaveId) : State := (s.onStream id Wave.stopTeam).returnLent id

/-- A wave's lent lanes go back to it. -/
def State.unlend (s : State) (x : Wave) : State :=
  match x.lentTo with
  | some r =>
    ((s.addFreed x.core 16).onStream r (fun y => y.dropLent x.id)).onStream x.id
      (fun y => { y with lentTo := none })
  | none => s

/-- Whether a gang can be evicted (R32, R267): every stream is halted or stands at a blocking point that still waits. -/
def State.evictable (s : State) (g : Nat) (x : Gang) : Bool :=
  let ws := s.gangStreams g
  x.st == .resident && !(s.part x.launch.part).pstop
    && ws.all (fun w => w.halted || (s.blocked w && !s.awake w))

/-- Whether the helper parts of a gang chosen for eviction have come to their boundaries, those that its waves' lent lanes
form among them (R156): the first step of the eviction. -/
def State.partsHome (s : State) (g : Nat) : Bool := (s.gangStreams g).all (fun w => s.teamAtBoundary w && s.lentAtBoundary w)

/-- Whether the dispatched matrix instructions of a gang that is leaving have finished or stopped (R233, R246): the second
step. -/
def Gang.matrixDone (x : Gang) : Bool :=
  match x.belay with
  | some b => b.flight.isEmpty || (match x.stops with | some j => j.prog.isEmpty | none => false)
  | none => true

/-- Lets the helper parts that a gang's eviction releases issue no more (R156). -/
def State.closeGang (s : State) (g : Nat) : State :=
  (s.gangStreams g).foldl (fun (s : State) (w : Wave) =>
    let s1 := s.onStream w.id (fun y => y.closeParts (fun _ => true))
    match w.lentTo with
    | some r => s1.onStream r (fun y => y.closeParts (fun p => p.lender == some w.id))
    | none => s1) s

/-- Takes the streams of a gang off their cores. -/
def State.detach (s : State) (g : Nat) (x : Gang) : State :=
  let s1 := (s.gangStreams g).foldl (fun (s : State) (w : Wave) =>
    ((((s.releaseParts w.id).unlend w).withdraw w.core w.id).addFreed w.core (if w.belay then 0 else w.c)).onStream w.id
      (fun w => { w with core := noCore, slot := 0 })) s
  let s2 := (List.range x.launch.ngrp).foldl (fun (s : State) j =>
    let core := x.coreOf j
    let c := s.core core
    let mine (a b : Nat) : Bool := a == g && b == j
    (s.setCore core { c.freeBars (fun b => mine b.gang b.group) with
      guards := c.guards.filter (fun e => !mine e.2.gang e.2.group) }).onGrp g j (fun y => { y with
        guards := c.guards.filter (fun e => mine e.2.gang e.2.group)
        bars := c.bars.filter (fun e => mine e.2.gang e.2.group) })) s1
  if (s2.cluster x.cluster).belayGang == some g then
    s2.setCluster x.cluster { (s2.cluster x.cluster) with belayGang := none }
  else s2

/-- Sends every update-only line that holds a RED of a gang's waves: a wave that is placed again elsewhere finds what its releases and
its DRAIN global name on the way to the home slices (R170, R205, R211, R435). -/
def State.sendGangLines (s : State) (g : Nat) (x : Gang) : State :=
  (List.range x.launch.ngrp).foldl (fun (s : State) j =>
    let core := x.coreOf j
    (linesOf (((s.core core).upd.filter (fun u => u.waves.any (fun w => w.gang == g))).map (fun u => (u.ia, 0)))).foldl
      (fun s ln => s.sendLine x.launch.part core ln) s) s

/-- Evicts a gang into image pages `im`: it goes to the front of its queue's pending list (R262, R267). -/
def State.evictTo (s : State) (g : Nat) (x : Gang) (im : Nat × Nat) : State :=
  let s1 := (s.sendGangLines g x).detach g x
  let q := s1.queue x.launch.queue
  let s2 := s1.setQueue x.launch.queue { q with pending := g :: q.pending }
  match s2.gang? g with
  | some y => s2.setGang g { y with st := .evicted, image := some im, chosen := false, leaving := false }
  | none => s2

end Sys2Proof.Machine
end

