-- ==== Sys2Proof/Machine/Grant.lean ====
section
/-! DEFINITION. The grant pass of a core's register pool, and REGDEAD (R101, R103). -/

namespace Sys2Proof.Machine

/-- Claims in the order in which the grant pass examines them: by stamp, then by slot (R101). -/
def insertClaim (k : Claim) : List Claim → List Claim
  | [] => [k]
  | x :: t => if decide (x.stamp < k.stamp) || (x.stamp == k.stamp && decide (x.slot ≤ k.slot)) then x :: insertClaim k t else k :: x :: t

def sortClaims (ks : List Claim) : List Claim := ks.foldl (fun acc k => insertClaim k acc) []

/-- Grants one claim where it fits (R101). -/
def State.grant (s : State) (core : Nat) (k : Claim) : State :=
  if k.need ≤ s.grantFree core then
    let s1 := (s.withdraw core k.wave).onStream k.wave (fun w => { w with c := k.n, v := Tab.below w.v w.c })
    s1.setCore core { (s1.core core) with poolUsed := (s1.core core).poolUsed + k.need }
  else s

/-- Whether a wave is held where it stands as the pool judges it (R103): halted, or at a blocking point whose condition has
not come true; a claim that has been granted holds no wave. -/
def State.stuck (s : State) (core : Nat) (w : Wave) : Bool :=
  w.halted || (s.blocked w && !s.awake w &&
    match w.wait with
    | .regclm _ => (s.core core).claims.any (fun k => k.wave == w.id)
    | _ => true)

/-- Whether REGDEAD holds for the group of a claim (R103). -/
def State.regDead (s : State) (core : Nat) (k : Claim) : Bool :=
  let ws := (s.wavesOn core).filter (fun x => x.id.gang == k.wave.gang && x.id.group == k.wave.group)
  ws.all (s.stuck core)
    && (s.core core).claims.all (fun y =>
      !(y.wave.gang == k.wave.gang && y.wave.group == k.wave.group) || decide (s.grantFree core < y.need))

/-- The claims for which REGDEAD holds are withdrawn at once; each of their waves is due its trap (R103). -/
def State.killClaims (s : State) (core : Nat) : State :=
  let c := s.core core
  let ks := c.claims.filter (fun k => s.regDead core k)
  if ks.isEmpty then s
  else s.setCore core { c with claims := c.claims.filter (fun k => !s.regDead core k), dead := c.dead ++ ks }

/-- A wave whose claim cannot be met traps at its REGCLM, once what R400 names has been written and the part that its lent lanes
form has come to its boundary (R103, R156, R396); it takes those lanes back. An error of a result that must finish first is its
trap instead (R400), and the REGCLM then executes anew. -/
def State.deadClaim (s : State) (core : Nat) (k : Claim) : State :=
  let s1 := s.withdraw core k.wave
  match s1.stream? k.wave with
  | none => s1
  | some x =>
    if !x.trapWaits.isEmpty then s
    else if !s.lentAtBoundary x then
      match x.lentTo with
      | some r => s.onStream r (fun y => y.closeParts (fun p => p.lender == some x.id))
      | none => s
    else
    let s2 := match x.lentTo with
      | some r => (s1.addFreed core 16).onStream r (fun y => y.dropLent x.id)
      | none => s1
    let x1 : Wave := { x with lentTo := none, sel := none }
    let r := match x1.owedError with
      | some e => s2.takeTrap { x1 with inflight := x1.inflight.map (fun (y : Entry) => if y.id == e.id then { y with st := .failed } else y) }
          x1.pc k.word { cause := .dataerr, addr := e.badAddr, lanes := e.bad, word := some e.word, hpc := some e.pc }
      | none => s2.takeTrap x1 x1.pc k.word { cause := .regdead, addr := BitVec.ofNat 64 k.need }
    r.1.setStream r.2

/-- GRANT_PASS (R101, R103). -/
def State.grantPass (s : State) (core : Nat) : State :=
  let s1 := ((sortClaims (s.core core).claims).foldl (fun s k => s.grant core k) s).killClaims core
  ((s1.core core).dead).foldl (fun s k => s.deadClaim core k) s1

def execGrantPass (core : Nat) (s : State) : Out := .next (s.grantPass core)

end Sys2Proof.Machine
end

