-- ==== Sys2Proof/Machine/Image.lean ====
section
/-! DEFINITION. Wave and gang images in the image area (R408 to R412), and eviction. -/

namespace Sys2Proof.Machine

/-- Zero bytes. -/
def zeroBytes (n : Nat) : List Byte := List.replicate n 0

/-- Bytes padded with zeros, or cut, to a length. -/
def padTo (n : Nat) (bs : List Byte) : List Byte := (bs ++ zeroBytes (n - bs.length)).take n

/-- Bytes padded to a multiple of 64 (R411). -/
def pad64 (bs : List Byte) : List Byte := padTo ((bs.length + 63) / 64 * 64) bs

/-- Bytes whose contents the manual gives no layout for. -/
def openBytes (key n : Nat) : List Byte := (List.range n).map (fun k => Config.openByte (key + k))

/-- The data words of lanes 0 … 31. -/
def VReg.bytes (r : VReg) : List Byte := laneList.flatMap (fun l => leBytes 4 (VReg.lane r l).data.toNat)

/-- The validity mask of a register. -/
def VReg.mask (r : VReg) : Word := laneMask (fun l => (VReg.lane r l).valid)

/-- A word of four bytes. -/
def wordBytes4 (w : Word) : List Byte := leBytes 4 w.toNat

/-- Bits as a number, the first lowest. -/
def bitsNat : List Bool → Nat
  | [] => 0
  | b :: t => b2n b + 2 * bitsNat t

/-- WAKE of a wave's header: its kind and its argument (R410). -/
def Wait.wake (k : Wait) : Nat × List Byte :=
  match k with
  | .bar n => (1, leBytes 4 n)
  | .abwait b ph => (2, leBytes 4 b ++ leBytes 4 ph)
  | .waitq q => (3, leBytes 4 q)
  | .tlwait e v => (4, leBytes 4 e ++ leBytes 8 v)
  | .tkwait va v => (5, leBytes 8 va ++ leBytes 4 v)
  | .regclm n => (6, leBytes 4 n)
  | .gemit => (7, [])
  | .remote _ | .parked _ | .merges _ => (8, [])
  | .yield _ => (9, [])
  | .none | .busy | .answer | .drain _ | .slots _ => (0, [])

/-- The pending claim count of a wave's header. -/
def Wait.claimed (k : Wait) : Nat := match k with | .regclm n => n | _ => 0

/-- The PC of the front end: where it stands ahead of the wave, or at the wave's own PC. -/
def Wave.frontPc (w : Wave) : Word :=
  match w.ahead with
  | some a => a.pc
  | none => w.pc

/-- The vector queue of a front end: what it has pushed and has not issued (R19). -/
def Ahead.queue (a : Ahead) : List QEnt := (if a.issued then a.taken.drop 1 else a.taken).filter (fun e => !e.front)

/-- The vector queue of a wave, behind the blocking instruction, which has issued (R410). -/
def Wave.queued (w : Wave) : List QEnt :=
  match w.ahead with
  | some a => a.queue
  | none => []

/-- Whether the front end has pushed HALT. -/
def Wave.pushedHalt (w : Wave) : Bool := w.halted || (match w.ahead with | some a => a.halted | none => false)

/-- An entry of the vector queue: the word, twelve captured values and their validity (R409). -/
def QEnt.image (e : QEnt) : List Byte :=
  leBytes 12 e.word.toNat ++ padTo 48 (e.vals.flatMap (fun r => wordBytes4 r.data)) ++ leBytes 2 (bitsNat (e.vals.map (·.valid)))
    ++ zeroBytes 2

/-- The header of a wave image (R410). -/
def Wave.header (w : Wave) : List Byte :=
  let k := w.wait.wake
  padTo 24 (wordBytes4 w.frontPc ++ wordBytes4 w.pc ++ wordBytes4 w.exec ++ wordBytes4 w.cxm ++ leBytes 2 w.c ++ leBytes 2 w.wait.claimed
    ++ [BitVec.ofNat 8 w.queued.length, BitVec.ofNat 8 (b2n w.handler + 2 * b2n w.pushedHalt)])
    ++ padTo 40 ([BitVec.ofNat 8 k.1, 0, 0, 0] ++ padTo 12 k.2)

/-- The scalar registers (R409). -/
def scalarImage (s : Tab RWord) : List Byte :=
  let r (n : Nat) : RWord := if n = 0 then RWord.zero else Tab.get RWord.zero s n
  (List.range 128).flatMap (fun n => wordBytes4 (r n).data) ++ leBytes 16 (bitsNat ((List.range 128).map (fun n => (r n).valid)))

/-- A token register with its unreported failure and its output registers (R409). -/
def Wave.tokenImage (w : Wave) (n : Nat) : List Byte :=
  let t := w.tok n
  let j := w.jobs.find? (fun j => j.tok == n)
  let fail := t.fail || w.jobs.any (fun j => j.tok == n && j.failed != 0)
  let first := match j with | some j => j.first | none => 0
  let count := match j with | some j => j.count - 1 | none => 0
  leBytes 8 (t.value.toNat + 2 ^ 32 * b2n t.valid + 2 ^ 33 * t.st.code + 2 ^ 35 * b2n fail + 2 ^ 36 * first + 2 ^ 44 * count)

/-- The handler registers. -/
def Wave.handlerImage (w : Wave) : List Byte :=
  padTo 64 (wordBytes4 w.xpc ++ wordBytes4 w.xcause ++ leBytes 12 w.xword.toNat ++ leBytes 8 w.xaddr.toNat ++ wordBytes4 w.xlane
    ++ leBytes 4 w.replay.length ++ wordBytes4 w.xhpc ++ w.xsave.flatMap wordBytes4)

/-- A replay entry (R401, R409). -/
def Entry.image (e : Entry) : List Byte :=
  let fs := (List.range 8).map (fun k => e.laneField (k + 6))
  padTo 64 (leBytes 12 e.word.toNat ++ wordBytes4 e.pc ++ leBytes 4 e.st.code ++ wordBytes4 e.lanes
    ++ fs.flatMap (fun r => wordBytes4 (VReg.mask r))) ++ fs.flatMap VReg.bytes

/-- The bytes of a snapshot. -/
def snapBytes (v s : List RWord) : List Byte :=
  let all := v ++ s
  all.flatMap (fun r => wordBytes4 r.data) ++ leBytes 8 (bitsNat (all.map (·.valid)))

/-- A helper team (R160, R409). -/
def Team.image (t : Team) : List Byte :=
  let low := lowestFault t.faults
  let target (g : HTarget) : Nat := g.reg + 2 ^ 8 * redCode g.op + 2 ^ 12 * typeCode g.ty + 2 ^ 17 * rndCode g.rnd
  let val (h k : Nat) : Option Nat :=
    (t.targets[k]?).bind (fun g => (t.partials.find? (fun p => p.h == h && p.reg == g.reg)).map (fun p => p.val.bits.toNat))
  let cells := (List.range 32).flatMap (fun h => (List.range 4).map (fun k => val h k))
  padTo 16 (leBytes 4 t.hcount ++ wordBytes4 t.completed ++ wordBytes4 (laneMask (fun h => t.faults.any (fun f => f.h == h)))
      ++ [BitVec.ofNat 8 (1 + 2 * b2n t.reported)])
    ++ padTo 16 (t.targets.flatMap (fun g => leBytes 4 (target g)))
    ++ padTo 16 (match low with | some f => leBytes 4 f.cause.code ++ wordBytes4 f.pc ++ leBytes 8 f.addr.toNat | none => [])
    ++ padTo 392 (snapBytes t.snapV t.snapS)
    ++ cells.flatMap (fun c => leBytes 8 (c.getD 0))
    ++ padTo 72 (leBytes 16 (bitsNat (cells.map (·.isSome))))

/-- A ray (R409): 64 bytes and its stack. -/
def rayImage (r : Option Ray) (pending : Bool) : List Byte :=
  match r with
  | some r =>
    padTo 64 (r.org.flatMap wordBytes4 ++ r.dir.flatMap wordBytes4 ++ wordBytes4 r.tmin ++ wordBytes4 r.tmax ++ leBytes 8 r.base
        ++ leBytes 4 (r.depth + 2 ^ 16 * r.lp) ++ leBytes 4 (1 + 2 * b2n pending) ++ leBytes 4 r.stack.length)
      ++ padTo 576 (r.stack.flatMap (fun x => leBytes 4 x.1 ++ wordBytes4 x.2))
  | none => padTo 640 (zeroBytes 44 ++ leBytes 4 (2 * b2n pending))

/-- Scalar registers with what a front end has written ahead of them (R22). -/
def Ahead.regs (a : Ahead) (s : Tab RWord) : Tab RWord := (a.taken.flatMap (·.sets)).foldl (fun s x => Tab.set s x.1 x.2) s

/-- The scalar registers of a wave as its front end sees them (R22, R409). -/
def Wave.frontRegs (w : Wave) : Tab RWord :=
  match w.ahead with
  | some a => a.regs w.s
  | none => w.s

/-- A wave image (R409). -/
def Wave.image (w : Wave) : List Byte :=
  w.header ++ scalarImage w.frontRegs ++ zeroBytes 16 ++ (List.range 16).flatMap w.tokenImage
    ++ laneList.flatMap (fun l => wordBytes4 (w.seed.getD l 1)) ++ w.handlerImage ++ padTo 4096 (w.queued.flatMap QEnt.image)
    ++ padTo 17408 (w.replay.flatMap Entry.image)
    ++ (match w.team with | some t => t.image | none => zeroBytes 1536)
    ++ laneList.flatMap (fun l => rayImage (Tab.find w.rays l) (w.tracing.getLsbD l))
    ++ (List.range w.c).flatMap (fun n => VReg.bytes (Tab.get VReg.start w.v n))
    ++ (List.range w.c).flatMap (fun n => wordBytes4 (VReg.mask (Tab.get VReg.start w.v n)))

/-- An arrival barrier in the layout of R381. -/
def ABar.image (b : ABar) : List Byte :=
  leBytes 8 ((b.pend % (2 ^ 24 : Nat)).toNat + 2 ^ 24 * (b.arr % (2 ^ 8 : Nat)).toNat + 2 ^ 32 * b.phase + 2 ^ 36 * b.ecause
    + 2 ^ 39 * b2n b.ef + 2 ^ 40 * (if b.armed then 2 else 1) + 2 ^ 42 * b.group)

/-- The values that a queued COPY captured, in operand order (R409, R411). -/
def CopyCmd.captured (c : CopyCmd) : List Nat :=
  let pair (x : Nat) : List Nat := [x % 2 ^ 32, x / 2 ^ 32 % 2 ^ 32]
  (if c.op.trn then c.layout.map (fun w => w.toNat) else if c.op.dk.toNat = 0 then pair c.dst else [c.dst])
    ++ (if c.op.sk.toNat = 0 then pair c.src else [c.src]) ++ [c.cnt]
    ++ (if c.form = 2 then [c.chunk] ++ pair c.crcVa ++ pair c.recVa else [])

/-- A queued COPY as an entry of 64 bytes. -/
def CopyCmd.image (c : CopyCmd) : List Byte :=
  let xs := c.captured
  leBytes 12 c.word.toNat ++ padTo 48 (xs.flatMap (leBytes 4)) ++ leBytes 2 (2 ^ xs.length - 1) ++ zeroBytes 2

/-- A decoder slot (R238, R411). -/
def DSlot.image (d : DSlot) : List Byte :=
  match d with
  | .empty => zeroBytes 516
  | .malformed f => leBytes 4 2 ++ freqs f
  | .loaded f => leBytes 4 1 ++ freqs f
where
  freqs (f : Tab Nat) : List Byte := (List.range 256).flatMap (fun n => leBytes 2 (Tab.get 0 f n))

/-- State code of a guard slot (R292). -/
def GState.code (g : GState) : Nat :=
  match g with
  | .unresolved => 1
  | .yes => 2
  | .no => 3

/-- A group header (R145, R234, R292): the fields in the order in which R411 names them, each as whole words, the guard slots
in two bits each. -/
def Grp.header (y : Grp) : List Byte :=
  let guard (n : Nat) : Nat := match Tab.find y.guards n with | some g => g.st.code | none => 0
  padTo 64 (leBytes 4 y.gen ++ leBytes 4 (sumNat (y.joined.map (fun n => 2 ^ n)))
    ++ (List.range 4).flatMap (fun k => leBytes 4 (y.mt.getD k 0))
    ++ leBytes 4 (sumNat ((List.range 16).map (fun n => guard n * 4 ^ n))))

/-- The sections of a group (R411). -/
def groupImage (l : Launch) (y : Grp) (ws : List Wave) : List Byte :=
  y.header
    ++ (List.range 16).flatMap (fun n => match Tab.find y.bars n with | some b => b.image | none => zeroBytes 8)
    ++ padTo 2048 (y.copyq.flatMap CopyCmd.image)
    ++ (if l.belay.isSome then pad64 (y.ds.flatMap DSlot.image) else [])
    ++ pad64 (Mem.readN y.wb 0 l.wb) ++ pad64 (Mem.readN y.ab 0 l.ab) ++ pad64 (Mem.readN y.cb 0 l.cb)
    ++ ws.flatMap (fun w => pad64 w.image)

/-- The waves of a group in wave order. -/
def State.imageWaves (s : State) (g j : Nat) : List Wave :=
  ((s.gangStreams g).filter (fun w => !w.belay && w.id.group == j)).foldl (fun acc w => insertWave w acc) []

/-- A fault record of the belay (R232, R245). -/
def Belay.faultImage (b : Belay) : List Byte :=
  padTo 32 (match b.fault with
    | some f =>
      leBytes 4 f.cause.code ++ leBytes 12 f.word.toNat ++ wordBytes4 f.pc
        ++ leBytes 8 (f.group + f.sub * 2 ^ 8 + Nat.min b.later 0xFFFF * 2 ^ 16 + f.segment * 2 ^ 32 + f.offset * 2 ^ 40)
    | none => [])

/-- A stopped MMAE: its word, its PC, its registers, its slot and the restart segment of each core that has yet to finish it
(R246). -/
def MatJob.image (j : MatJob) : List Byte :=
  let seg (k : Nat) : Nat := if j.todo.contains k then 128 + Tab.get 0 j.rseg k else 0
  padTo 160 (leBytes 12 (wordOf j.op).toNat ++ wordBytes4 j.pc ++ (j.d ++ j.a ++ j.b ++ j.fmt).flatMap wordBytes4
      ++ leBytes 4 (match j.set with | some k => 16 + k | none => 0))
    ++ (List.range 64).map (fun k => BitVec.ofNat 8 (seg k))

/-- A pending MMERGE (R229, R233). -/
def Merge.image (m : Merge) : List Byte :=
  padTo 64 (leBytes 4 (m.ticket * 2 ^ 16 + m.mtk * 2 ^ 12 + m.dst * 2 ^ 6 + m.src) ++ leBytes 4 ((m.n - 1) * 2 ^ 8 + (m.m - 1))
    ++ (m.cDst ++ m.cSrc).flatMap wordBytes4 ++ leBytes 4 (match m.set with | some k => 16 + k | none => 0))

/-- The belay section (R411): the fields of its fixed part in the order in which R411 names them, then the MMERGEs. -/
def belayImage (w : Wave) (b : Belay) (ms : List Merge) : List Byte :=
  padTo 1024 (padTo 16 (wordBytes4 w.pc ++ [BitVec.ofNat 8 (b2n w.handler + 2 * b2n w.halted)]) ++ scalarImage w.s ++ w.handlerImage
      ++ padTo 16 ((List.range 16).map (fun k => BitVec.ofNat 8 (b.pend.getD k 0))) ++ leBytes 4 b.cxn ++ b.faultImage
      ++ (match b.flight with | j :: _ => j.image | [] => []))
    ++ ms.flatMap Merge.image

/-- A gang image (R411): the layout of its own header is not given. -/
def State.gangImage (s : State) (g : Nat) (x : Gang) : List Byte :=
  let key := 2 ^ 20 * g
  openBytes key 64
    ++ (List.range x.launch.ngrp).flatMap (fun j =>
        groupImage x.launch (x.groups.getD j Grp.fresh) (s.imageWaves g j))
    ++ (match x.belay with
        | some b => belayImage ((s.stream? (belayId g)).getD Wave.idle) b (x.groups.flatMap (fun y => y.merges))
        | none => [])

/-- The image pages in use in a partition's area. -/
def State.imagePages (s : State) (p : Nat) : List (Nat × Nat) :=
  s.gangs.filterMap (fun e => if e.2.launch.part == p then e.2.image else none)

/-- The first run of `n` free pages of the image area (R408). -/
def State.findPages (s : State) (p n : Nat) : Option Nat :=
  let used := s.imagePages p
  let fits (a : Nat) : Bool := decide (a + n ≤ (s.part p).imgpg) && used.all (fun u => decide (a + n ≤ u.1) || decide (u.1 + u.2 ≤ a))
  let starts := (0 :: used.map (fun u => u.1 + u.2)).filter fits
  match starts with
  | [] => none
  | a :: t => some (t.foldl Nat.min a)

/-- Writes the image of an evicted gang as it stands now (R412). -/
def State.writeImage (s : State) (g : Nat) : State :=
  match s.gang? g with
  | some x =>
    match x.image with
    | some im => { s with mem := Mem.splice s.mem ((s.part x.launch.part).imgbase + 4096 * im.1) (s.gangImage g x) }
    | none => s
  | none => s

/-- Results that landed since the last cycle stand in the images of the evicted gangs. -/
def State.refreshImages (s : State) : State :=
  (Tab.keys (s.gangs.filter (fun e => e.2.image.isSome))).foldl (fun s g => s.writeImage g) s

/-- The pages that the image of a gang takes (R408). -/
def State.imageSize (s : State) (g : Nat) (x : Gang) : Nat := ((s.gangImage g x).length + 4095) / 4096

/-- The second step of an eviction and those after it: once its matrix instructions have ended the gang leaves. Where the area has
no room for its image any more, it goes on instead (R408). -/
def State.evictNow (s : State) (g : Nat) : State :=
  match s.gang? g with
  | none => s
  | some x =>
    if !x.matrixDone then s
    else
      match s.findPages x.launch.part (s.imageSize g x) with
      | some a => (s.evictTo g x (a, s.imageSize g x)).writeImage g
      | none => s.setGang g { x with chosen := false, leaving := false }

/-- EVICTION (R267): a gang is chosen only where the area has room for its image (R408). Its helper parts are released first; where
one of its waves goes on before that, the eviction is abandoned. Its matrix instructions then finish, or stop once an MMAE is left
alone, and it leaves; while PSTOP is 1 a gang that has come so far stays as it is (R416; DESIGN CHOICE, log 187). -/
def State.evict (s : State) (g : Nat) : State :=
  match s.gang? g with
  | none => s
  | some x =>
    if x.leaving then (if (s.part x.launch.part).pstop then s else (s.stopMmae g).evictNow g)
    else if !s.evictable g x then (if x.chosen then s.setGang g { x with chosen := false } else s)
    else if !x.chosen && (s.findPages x.launch.part (s.imageSize g x)).isNone then s
    else if !s.partsHome g then (s.setGang g { x with chosen := true }).closeGang g
    else ((s.setGang g { x with chosen := true, leaving := true }).stopMmae g).evictNow g

end Sys2Proof.Machine
end

