-- ==== Sys2Proof/Machine/Queues.lean ====
section
/-! DEFINITION. User queues: control blocks, doorbells, commands, launch graphs and kernel boundaries (R210, R249 to
R255, R313, R355 to R359). -/

namespace Sys2Proof.Machine

/-! The scheduler's own writes. They are none of the write events that R364 counts. -/

/-- Writes bytes at IAs without counting them; a shoot-down holds the write, and on an unfit page it parks (R191, R349). -/
def State.quietWrite (s : State) (p ctx ia : Nat) (bs : List Byte) : State :=
  let cells := (List.range bs.length).zip bs |>.map (fun q => (ia + q.1, q.2))
  (linesOf cells).foldl (fun (s : State) ln =>
    let cs := cells.filter (fun c => c.1 / 128 == ln)
    ((s.recall p ln).deliver p .host ctx (lowIa cs) (.quiet cs)).1) s

/-! Control blocks (R357 to R359). -/

/-- The physical address of a control block. -/
def State.blockAt (s : State) (p q : Nat) : Nat := bits (s.part p).qtbase 39 7 * 128 + 128 * q

/-- PROGRESS and FRIDX as the scheduler writes them. -/
def State.writeProgress (s : State) (q : Nat) : State :=
  let x := s.queue q
  let a := s.blockAt x.part q
  (s.wrPhys (a + 8) (leBytes 8 (x.ridx.toNat + 2 ^ 32 * x.status))).wrPhys (a + 16) (leBytes 4 x.fridx.toNat)

/-- Reads a control block (R359): the copy that COMMIT names; a stopped queue restarts under a new GEN. DESIGN CHOICE: a K outside 4 to
20 and a RING that is no multiple of 64 are used as they stand (R249). -/
def State.readBlock (s : State) (p q : Nat) : State :=
  let a := s.blockAt p q
  let commit := s.rdPhys a 8
  let c := a + (if bit commit 0 then 64 else 32)
  let gen := bits commit 63 32
  let w := s.rdPhys (c + 8) 4
  let x := s.queue q
  let known := x.known && x.part == p
  let x := if known then x
    else
      let pr := s.rdPhys (a + 8) 8
      { QRun.reset with
        ridx := BitVec.ofNat 32 pr, status := bits pr 39 32, fridx := BitVec.ofNat 32 (s.rdPhys (a + 16) 4), gen := gen,
        widx := if x.known then x.widx else BitVec.ofNat 32 pr }
  let restart := known && x.status != 0 && x.gen != gen
  let x := { x with
    part := p
    known := true
    en := bit w 31
    guar := bit w 8
    ctx := bits w 27 16
    ring := s.rdPhys c 8
    k := bits w 4 0
    gen := if x.status = 0 || restart then gen else x.gen
    ridx := if restart then BitVec.ofNat 32 (s.rdPhys (c + 12) 4) else x.ridx
    status := if restart then 0 else x.status }
  let s1 := (s.setQueue q x).physNote p x.ctx a 128
  if restart then s1.writeProgress q else s1

/-! Work and the round-robin list (R257, R260). -/

/-- Whether a queue holds a command that is ready to start. -/
def QRun.ready (x : QRun) : Bool := x.known && x.en && x.status == 0 && x.cmd.isNone && x.ridx != x.widx

/-- The gangs of a queue's current command that are pending or resident. -/
def State.queueGangs (s : State) (q : Nat) : List (Nat × Gang) := s.liveGangs (fun l => l.queue == q)

/-- Whether a queue has work (R257). -/
def State.hasWork (s : State) (q : Nat) : Bool := (s.queue q).ready || !(s.queueGangs q).isEmpty

/-- The slots of a partition (R417). -/
def State.slotsOf (s : State) (p : Nat) : List Nat := (List.range Config.nSlot).filter (fun n => s.ownerOf (n / 8) == p)

/-- Best-effort queues that gained work join the tail; those without work or in a slot leave the list (R260). -/
def State.rotate (s : State) (p : Nat) : State :=
  let wants (q : Nat) : Bool := (s.queue q).part == p && !(s.queue q).guar && s.hasWork q && (s.slotOf q).isNone
  let x := s.part p
  let kept := x.rr.filter wants
  let new := (Tab.keys s.queues).filter (fun q => (s.queue q).known && wants q && !kept.contains q)
  s.setPart p { x with rr := kept ++ new }

/-! Doorbells (R249, R250, R359). -/

/-- Stops a queue: status, FRIDX, control block and event (R250, R253, R418). -/
def State.stopQueue (s : State) (q status : Nat) : State :=
  let x := s.queue q
  ((s.setQueue q { x with status := status, fridx := x.ridx }).writeProgress q).event x.part 2
    (leBytes 4 q ++ leBytes 4 status ++ leBytes 4 x.ridx.toNat)

/-- Judges the doorbell value (R250). DESIGN CHOICE: a command that runs when a bad value comes still completes, and FRIDX is its
index. -/
def State.judgeBell (s : State) (q : Nat) : State :=
  let x := s.queue q
  if x.status == 0 && decide (2 ^ x.k < (x.widx - x.ridx).toNat) then s.stopQueue q 2 else s

/-- The partition whose control block a queue's doorbell names: the one whose scheduler last read it, else the first whose
block enables the queue, else the first that has blocks, else partition 0 (DESIGN CHOICE: the manual gives every partition an
array of blocks and names none for a doorbell). -/
def State.queuePart (s : State) (q : Nat) : Nat :=
  if (s.queue q).known then (s.queue q).part
  else
    let ps := (List.range Config.nPart).filter (fun p => (s.part p).qtbase != 0)
    let enables (p : Nat) : Bool :=
      let a := s.blockAt p q
      bit (s.rdPhys (a + (if bit (s.rdPhys a 8) 0 then 64 else 32) + 8) 4) 31
    (ps.find? enables).getD (ps.headD 0)

/-- Latches a notify write and starts the exit to Noon. While the 256 entries of the queue are taken, the link or the agent holds
the write, which `e` makes again (R420); the exit starts all the same. -/
def State.latch (s : State) (p : Nat) (w : Notify) (e : Instr) : State :=
  let x := s.part p
  if x.notifyQ.length < Config.notifyRoom then s.setPart p { x with notifyQ := x.notifyQ ++ [w], waking := true }
  else (s.setPart p { x with waking := true }).hold e

/-- A doorbell write reaches the scheduler (R249, R359): it reads the control block, whatever its EN, and keeps WIDX. -/
def State.ring (s : State) (q : Nat) (widx : Word) : State :=
  let p := s.queuePart q
  let s1 := s.readBlock p q
  ((s1.setQueue q { (s1.queue q) with widx := widx }).judgeBell q).rotate p

/-- DOORBELL_WRITE: while the partition is not in Noon the write is latched (R420). -/
def State.doorbell (s : State) (q : Nat) (widx : Word) : State :=
  let p := s.queuePart q
  if (s.part p).power = .noon then s.ring q widx else s.latch p (.doorbell q widx) (.doorbellWrite q widx)

/-- QRFR: the control block is read again (R359); the access to an Eclipse partition's memory is held until Noon (R423). -/
def State.refreshQueue (s : State) (p q : Nat) : State :=
  if (s.part p).power = .eclipse then s.hold (.qrfr p q) else ((s.readBlock p q).judgeBell q).rotate p

/-! Completion of commands (R252, R254). -/

/-- The completion record of a command: 16 bytes (R254). -/
def cmdRecord (hdr status scyc : Nat) : List Byte :=
  leBytes 4 (bits hdr 31 28 * 2 ^ 28 + status * 2 ^ 16 + bits hdr 15 0) ++ zeroBytes 4 ++ leBytes 8 scyc

/-- A device-scope acquire of the scheduler: what launches after it finds no older copy in an L1 of the partition (R205, R252,
R255). -/
def State.acquireAll (s : State) (p : Nat) : State :=
  (Tab.keys s.cores).foldl (fun (s : State) c => if s.ownerOf (sliceOf c) == p then s.l1Acquire c true true else s) s

/-- Bytes of an IA span for the scheduler. DESIGN CHOICE (R250 gives no reaction): a byte with no fit page reads as 0, and an
uncorrectable error has no effect on the read beside its record (R419). -/
def State.readQuiet (s : State) (p ctx ia n : Nat) : State × List Byte :=
  let r := s.spanBytes p none ia (iaSpan ia n) []
  let s1 := match indexWhere isBad r.2 0 with | some k => r.1.dramError p ctx ((ia + k) % 2 ^ 64) | none => r.1
  (s1, r.2.map (fun b => (b.getD (0, false)).1))

/-- The command at RIDX (R249, R251), with the word of its context that is judged beside it. -/
def State.command (s : State) (q : Nat) : State × List Byte :=
  let x := s.queue q
  let r := s.readQuiet x.part x.ctx (x.ring + 64 * (x.ridx.toNat % 2 ^ x.k)) 64
  (r.1.physNote x.part x.ctx (bits s.dev.ctxbase 39 9 * 512 + 512 * x.ctx + 268) 4, r.2)

/-- Writes the record of the current command where it asks for one. -/
def State.cmdReport (s : State) (q status : Nat) : State :=
  let x := s.queue q
  if bit x.hdr 16 then s.quietWrite x.part x.ctx x.recIa (cmdRecord x.hdr status (s.part x.part).scyc) else s

/-- Completes the command at RIDX: the record, then RIDX advances. -/
def State.cmdDone (s : State) (q status : Nat) : State :=
  let s1 := s.cmdReport q status
  let x := s1.queue q
  ((s1.setQueue q { x with cmd := none, ridx := x.ridx + 1 }).writeProgress q).rotate x.part

/-- Refuses the command at RIDX (R253): the queue stops with status 1. -/
def State.cmdRefuse (s : State) (q : Nat) : State := (s.cmdReport q 1).stopQueue q 1

/-! Checks of commands (R253, R354). -/

/-- Whether a queue's context is valid and of its partition. -/
def State.contextOk (s : State) (x : QRun) : Bool :=
  let w := s.rdPhys (bits s.dev.ctxbase 39 9 * 512 + 512 * x.ctx + 268) 4
  bit w 31 && bits w 2 0 == x.part

/-- Whether the bytes `lo … hi-1` are zero. -/
def zeroIn (bs : List Byte) (lo hi : Nat) : Bool := zeros ((bs.drop lo).take (hi - lo))

/-- The reserved bits of a command by KIND (R251, R312). -/
def cmdReserved (bs : List Byte) : Bool :=
  let h := fieldAt bs 0 4
  let kind := bits h 31 28
  let body :=
    if kind = 0 then !zeroIn bs 8 24 || (!bit h 16 && !zeroIn bs 24 32)
    else if kind = 2 then bits (fieldAt bs 16 4) 31 4 != 0 || !zeroIn bs 20 24
    else bits (fieldAt bs 16 4) 31 16 != 0 || !zeroIn bs 20 24
  decide (4 < kind) || bits h 27 17 != 0 || !zeroIn bs 4 8 || !zeroIn bs 32 64 || body

/-- Whether a queue may name an engine context (R253). -/
def State.queueEngOk (s : State) (x : QRun) (e : Nat) : Bool :=
  decide (e < Config.nEngCtx) && s.engPart e == x.part && (s.eng e).en && (s.eng e).ctx == x.ctx

/-- Starts the command at RIDX where its KIND is one that `want` admits: `run` gives its effect, none a refusal. The scheduler
reads it with a device-scope acquire (R250); its reads wait while the units of the partition take no access (R170, R349). -/
def State.startCmd (s : State) (q : Nat) (want : Nat → Bool) (run : State → QRun → List Byte → Option State) : State :=
  let x := s.queue q
  if !x.ready || (s.slotOf q).isNone || s.unitsWait x.part then s
  else
    let r := s.command q
    let y := { x with hdr := fieldAt r.2 0 4, recIa := fieldAt r.2 24 8 }
    let s1 := (r.1.setQueue q y).acquireAll x.part
    if !want (bits y.hdr 31 28) then s
    else if cmdReserved r.2 || !s1.contextOk y then s1.cmdRefuse q
    else (run s1 y r.2).getD (s1.cmdRefuse q)

/-- TLSIG (R252). -/
def State.tlsigRun (q : Nat) (s : State) (x : QRun) (bs : List Byte) : Option State :=
  let e := fieldAt bs 16 2
  if s.queueEngOk x e then some ((s.raiseTl e (fieldAt bs 8 8)).cmdDone q 0) else none

/-- TLWAITC: the queue waits until the counter has reached VALUE. -/
def State.tlwaitRun (q : Nat) (s : State) (x : QRun) (bs : List Byte) : Option State :=
  let e := fieldAt bs 16 2
  if s.queueEngOk x e then some (s.setQueue q { x with cmd := some (.tlwait e (fieldAt bs 8 8)) }) else none

/-- TLWAITC starts, or completes once the counter has reached VALUE, and acquires (R252). -/
def State.tlwaitStep (s : State) (q : Nat) : State :=
  let s1 := s.startCmd q (fun k => k == 4) (State.tlwaitRun q)
  match (s1.queue q).cmd with
  | some (.tlwait e v) => if v ≤ (s1.eng e).tl then (s1.acquireAll (s1.queue q).part).cmdDone q 0 else s1
  | _ => s1

/-! Launch graphs (R255, R355, R356). -/

/-- A node entry checked against R355: none where it breaks a limit. -/
def parseNode (x : QRun) (q n count : Nat) (bs : List Byte) : Option NodeRun :=
  let code := fieldAt bs 0 8
  let clen := fieldAt bs 8 4
  let flags := fieldAt bs 12 4
  let gx := fieldAt bs 16 4
  let gy := fieldAt bs 20 4
  let gz := fieldAt bs 24 4
  let nlane := fieldAt bs 28 2
  let ngrp := fieldAt bs 30 1 + 1
  let smap := (List.range 16).map (fun w => bits (fieldAt bs 32 8) (3 * w + 2) (3 * w))
  let stab := (List.range 8).map (fun k =>
    let e := fieldAt bs (40 + 4 * k) 4
    (4 * bits e 25 0, 4 * (bits e 31 26 + 1)))
  let wb := 1024 * fieldAt bs 72 2
  let ab := 1024 * fieldAt bs 74 2
  let cb := 1024 * fieldAt bs 76 2
  let bent := fieldAt bs 80 4
  let hent := fieldAt bs 84 4
  let nsucc := fieldAt bs 112 1
  let succ := (List.range 8).map (fun k => fieldAt bs (96 + 2 * k) 2)
  let axis (g : Nat) : Bool := decide (1 ≤ g) && decide (g ≤ 2 ^ 24)
  let ok := code % 4 == 0 && clen % 4 == 0 && decide (12 ≤ clen) && decide (clen ≤ 2 ^ 26)
    && bits flags 31 16 == 0 && bits flags 11 0 == 0 && axis gx && axis gy && axis gz
    && decide (1 ≤ nlane) && decide (nlane ≤ 512) && decide (ngrp ≤ 64) && zeroIn bs 31 32 && zeroIn bs 38 40
    && (List.range ((nlane + 31) / 32)).all (fun w => decide ((stab.getD (smap.getD w 0) (0, 0)).1 < clen))
    && decide (wb ≤ Config.nWBuf) && decide (ab ≤ Config.nABuf) && decide (cb ≤ Config.nCBuf) && zeroIn bs 78 80
    && (!bit flags 13 || (bent % 4 == 0 && decide (bent < clen))) && (!bit flags 15 || (hent % 4 == 0 && decide (hent < clen)))
    && decide (nsucc ≤ 8) && succ.all (fun m => decide (m < count)) && zeroIn bs 113 128
  if !ok then none
  else some {
    launch := {
      part := x.part, ctx := x.ctx, queue := q, kind := .node n, code := code, clen := clen, gx := gx, gy := gy, gz := gz
      nlane := nlane, ngrp := ngrp, smap := smap, stab := stab, wb := wb, ab := ab, cb := cb, bruFree := bit flags 12
      helper := if bit flags 15 then some hent else none
      lend := bit flags 14
      belay := if bit flags 13 then some bent else none
      cluster := none, initV := [], masks := [] }
    init := fieldAt bs 92 2
    pred := fieldAt bs 92 2
    succ := succ.take nsucc
    nb := fieldAt bs 88 4
    left := 0 }

/-- Every node entry, read once; none where one fails its checks. -/
def State.readNodes (s : State) (x : QRun) (q table count : Nat) : Nat → State × Option (List NodeRun)
  | 0 => (s, some [])
  | n + 1 =>
    let r := s.readQuiet x.part x.ctx (table + 128 * (count - (n + 1))) 128
    let t := r.1.readNodes x q table count n
    (t.1, match parseNode x q (count - (n + 1)) count r.2, t.2 with | some a, some b => some (a :: b) | _, _ => none)

/-- Sets PRED of a node and writes it back (R356). -/
def State.setPred (s : State) (q n v : Nat) : State :=
  let x := s.queue q
  match x.cmd with
  | some (.graph t ns st) =>
    (s.setQueue q { x with cmd := some (.graph t (ns.modify n (fun y => { y with pred := v })) st) }).quietWrite x.part x.ctx
      (t + 128 * n + 94) (leBytes 2 v)
  | _ => s

/-- Launches a node with a device-scope acquire (R255): PRED is re-armed and its gangs are appended in ascending linear
index. -/
def State.launchNode (s : State) (q n : Nat) : State :=
  match (s.queue q).cmd with
  | some (.graph _ ns _) =>
    match ns[n]? with
    | some y =>
      let s1 := s.setPred q n y.init
      let x := s1.queue q
      let s2 := match x.cmd with
        | some (.graph t ns st) =>
          s1.setQueue q { x with cmd := some (.graph t (ns.modify n (fun y => { y with left := y.left + 1 })) st) }
        | _ => s1
      (s2.acquireAll x.part).addGangs y.launch 0 (y.launch.gx * y.launch.gy * y.launch.gz)
    | none => s
  | _ => s

/-- The command completes once no launched node is incomplete. -/
def State.graphEnd (s : State) (q : Nat) : State :=
  match (s.queue q).cmd with
  | some (.graph _ ns st) => if ns.all (fun y => y.left == 0) then s.cmdDone q st else s
  | _ => s

/-- GRAPH (R255). -/
def State.graphRun (q : Nat) (s : State) (x : QRun) (bs : List Byte) : Option State :=
  let table := fieldAt bs 8 8
  let count := fieldAt bs 16 2
  if count = 0 || decide (4096 < count) || table % 64 != 0 then none
  else
    let r := s.readNodes x q table count count
    match r.2 with
    | none => none
    | some ns =>
      let s1 := r.1.setQueue q { x with cmd := some (.graph table ns 0) }
      let idx := (List.range count).zip ns
      let s2 := idx.foldl (fun (s : State) e => s.setPred q e.1 e.2.init) s1
      let s3 := idx.foldl (fun (s : State) e => if e.2.init = 0 then s.launchNode q e.1 else s) s2
      some (s3.graphEnd q)

/-- A node has completed: its successors count down, in list order; a counter that is 0 already ends the command with
STATUS 3 (R255). -/
def State.nodeDone (s : State) (q : Nat) : List Nat → State
  | [] => s
  | m :: ms =>
    let x := s.queue q
    match x.cmd with
    | some (.graph t ns st) =>
      if st != 0 then s
      else
        match ns[m]? with
        | some y =>
          if y.pred = 0 then s.setQueue q { x with cmd := some (.graph t ns 3) }
          else
            let s1 := s.setPred q m (y.pred - 1)
            (if y.pred = 1 then s1.launchNode q m else s1).nodeDone q ms
        | none => s.nodeDone q ms
    | _ => s

/-! Draws (R312, R313). -/

/-- A draw descriptor checked against R313. -/
def parseDraw (x : QRun) (q : Nat) (bs : List Byte) : Option DrawRun :=
  let code := fieldAt bs 0 8
  let bent := fieldAt bs 8 4
  let gent := fieldAt bs 12 4
  let bregs := 4 * fieldAt bs 16 1
  let gregs := 4 * fieldAt bs 17 1
  let npatch := fieldAt bs 20 4
  let rate := fieldAt bs 24 4
  let r := decodeElem .f32 rate
  let width := fieldAt bs 28 2
  let height := fieldAt bs 30 2
  let spp := fieldAt bs 32 4
  let spat := fieldAt bs 40 8
  let sbuf := fieldAt bs 48 8
  let ok := code % 4 == 0 && bent % 4 == 0 && gent % 4 == 0 && decide (12 ≤ bregs) && decide (bregs ≤ 256) && decide (8 ≤ gregs)
    && decide (gregs ≤ 256) && zeroIn bs 18 20 && decide (1 ≤ npatch) && decide (npatch ≤ 2 ^ 24)
    && !r.isNan && !r.isInf && !XVal.lt r (.fin false 1 4) && !XVal.lt (.fin false 64 1) r
    && decide (1 ≤ width) && decide (width ≤ 16384) && decide (1 ≤ height) && decide (height ≤ 16384)
    && decide (spp < 16) && zeroIn bs 36 40 && spat % 64 == 0 && sbuf % 16 == 0 && zeroIn bs 56 64
  if !ok then none
  else some {
    queue := q, part := x.part, ctx := x.ctx, code := code, bent := bent, gent := gent, bregs := bregs, gregs := gregs
    npatch := npatch, nextPatch := 0, rate := BitVec.ofNat 32 rate, width := width, height := height, spp := spp + 1
    spat := spat, sbuf := sbuf, regions := [], gseq := 0 }

/-- DRAW. -/
def State.drawRun (q : Nat) (s : State) (x : QRun) (bs : List Byte) : Option State :=
  let desc := fieldAt bs 8 8
  let cl := bits (fieldAt bs 16 4) 3 0
  if desc % 64 != 0 || !(s.clustersOf x.part).contains cl then none
  else
    let r := s.readQuiet x.part x.ctx desc 64
    (parseDraw x q r.2).map (fun d =>
      let c := r.1.cluster cl
      (r.1.setCluster cl { c with draws := c.draws ++ [d] }).setQueue q { x with cmd := some (.draw cl) })

/-! Kernel boundaries (R210). -/

/-- Whether an access of a set of gangs has not performed. -/
def State.gangsUnperformed (s : State) (p : Nat) (gs : List Nat) : Bool :=
  s.gangsOwed p gs || (Tab.keys s.cores).any (fun c => (s.core c).upd.any (fun u => u.waves.any (fun w => gs.contains w.gang)))

/-- Sends every update-only line of the device, and clears every other L1 line, every page-kind cache and every node cache (R180,
R182, R210, R332). -/
def State.flushL1s (s : State) : State :=
  let s1 := (Tab.keys s.cores).foldl (fun (s : State) c =>
    (linesOf ((s.core c).upd.map (fun u => (u.ia, 0)))).foldl (fun s ln => s.sendLine (s.ownerOf (sliceOf c)) c ln) s) s
  { s1 with
    cores := s1.cores.map (fun e => (e.1, { e.2 with l1 := [], kinds := [] }))
    clusters := s1.clusters.map (fun e => (e.1, { e.2 with nodes := [] })) }

/-- The gangs of a queue's command: those of one node, or those of its draw. -/
def State.kernelGangs (s : State) (q : Nat) (node : Option Nat) : List (Nat × Gang) :=
  s.gangs.filter (fun e => e.2.launch.queue == q
    && (match e.2.launch.kind, node with | .node n, some m => n == m | .node _, none => false | _, some _ => false | _, none => true))

/-- Whether the kernel of a queue's node, or of its draw, is over: its gangs have retired, their copies are complete and
every access has performed. The L1s are flushed first; the state after that is given. -/
def State.kernelOver (s : State) (q : Nat) (node : Option Nat) : State × Bool :=
  let gs := s.kernelGangs q node
  let p := (s.queue q).part
  if gs.any (fun e => e.2.st != .retired || e.2.groups.any (fun y => !y.copyq.isEmpty)) then (s, false)
  else
    let s1 := s.flushL1s
    if s1.gangsUnperformed p (gs.map (·.1)) then (s1, false)
    else ({ s1 with gangs := s1.gangs.filter (fun e => !(gs.map (·.1)).contains e.1) }, true)

/-- A launched node of the graph at RIDX has completed (R255). -/
def State.nodeEnd (s : State) (q node : Nat) (succ : List Nat) : State :=
  let x := s.queue q
  match x.cmd with
  | some (.graph t ns st) =>
    ((s.setQueue q { x with cmd := some (.graph t (ns.modify node (fun y => { y with left := y.left - 1 })) st) }).nodeDone q
      succ).graphEnd q
  | _ => s

/-- KERNEL_BOUNDARY: a node or a draw completes (R210, R255, R313). -/
def State.boundary (s : State) (q node : Nat) : State :=
  match (s.queue q).cmd with
  | some (.graph _ ns _) =>
    match ns[node]? with
    | some y =>
      if y.left = 0 then s
      else
        let r := s.kernelOver q (some node)
        if r.2 then r.1.nodeEnd q node y.succ else r.1
    | none => s
  | some (.draw cl) =>
    match (s.cluster cl).draws.find? (fun d => d.queue == q) with
    | none => s
    | some d =>
      if !s.drawDone cl d then s
      else
        let r := s.kernelOver q none
        if r.2 then
          (r.1.setCluster cl { (r.1.cluster cl) with draws := (r.1.cluster cl).draws.filter (fun d => d.queue != q) }).cmdDone q 0
        else r.1
  | _ => s

def execDoorbellWrite (q : Nat) (widx : BitVec 32) (s : State) : Out := .next (s.doorbell q widx)

/-- A host or firmware write of WIDX (R304); while the partition is not in Noon it is latched (R420). -/
def execWidxWrite (e : Nat) (val : BitVec 32) (s : State) : Out :=
  let p := s.engPart e
  .next (s.fwWrite (.widxWrite e val) (fun s =>
    if (s.part p).power = .noon && (s.part p).notifyQ.isEmpty then s.kick e val.toNat else s.latch p (.widx e val) (.widxWrite e val)))

def execQrfr (p q : Nat) (s : State) : Out := .next (s.fwWrite (.qrfr p q) (fun s => s.refreshQueue p q))
/-- A NOP command; a command of reserved KIND is refused here (R253). -/
def execQueueNop (q : Nat) (s : State) : Out :=
  .next (s.startCmd q (fun k => k == 0 || decide (4 < k)) (fun s _ _ => some (s.cmdDone q 0)))
def execGraph (q : Nat) (s : State) : Out := .next (s.startCmd q (fun k => k == 1) (State.graphRun q))
def execDraw (q : Nat) (s : State) : Out := .next (s.startCmd q (fun k => k == 2) (State.drawRun q))
def execTlsig (q : Nat) (s : State) : Out := .next (s.startCmd q (fun k => k == 3) (State.tlsigRun q))
def execTlwaitc (q : Nat) (s : State) : Out := .next (s.tlwaitStep q)
def execKernelBoundary (q node : Nat) (s : State) : Out := .next (s.boundary q node)

end Sys2Proof.Machine
end

