-- ==== Sys2Proof/Machine/Slots.lean ====
section
/-! DEFINITION. Hardware queue slots: admission, releases, the head, yield requests, overruns, rotation and placement in
slot order (R256 to R265); the sensors of a core (R27, R28). -/

namespace Sys2Proof.Machine

/-! Sensors (R27, R28). -/

/-- TEMP_UPDATE: a sample, and HOT with its hysteresis under the partition's PLCTL. -/
def State.tempUpdate (s : State) (core : Nat) (t : BitVec 8) : State :=
  let x := s.part (s.ownerOf (sliceOf core))
  let c := s.core core
  let hot := if x.hott ≤ t.toNat then true else if t.toNat + x.hyst ≤ x.hott then false else c.hot
  s.setCore core { c with temp := t, hot := hot }

/-- DROOP_SET: a sample below 325 mV. -/
def State.droopSet (s : State) (core : Nat) : State := s.setCore core { (s.core core) with droop := true, quiet := 0 }

/-- DROOP_CLEAR: 65,536 consecutive cycles without such a sample. -/
def State.droopClear (s : State) (core : Nat) : State :=
  let c := s.core core
  if 65536 ≤ c.quiet then s.setCore core { c with droop := false } else s

/-! Admission (R256, R259). -/

/-- The term of a slot in the admission test. -/
def QSlot.term (x : QSlot) : Nat := (x.budget * 2 ^ 32 + x.period - 1) / x.period

/-- Whether a guaranteed slot may be enabled (R259). A PERIOD of 0, as after reset, gives the test no quotient and is refused
(DESIGN CHOICE); a BUDGET of 0 adds nothing to the sum. -/
def State.admits (s : State) (n : Nat) (x : QSlot) : Bool :=
  let p := s.ownerOf (n / 8)
  let others := (s.slotsOf p).filter (fun k => k != n && (s.qslot k).en && (s.qslot k).guar)
  x.period != 0 && decide (x.budget ≤ x.period)
    && decide (x.term + sumNat (others.map (fun k => (s.qslot k).term)) ≤ 2 ^ 32)

/-- A slot gives up the queue it holds; YREQ of a best-effort slot is cleared (R264). -/
def State.unmap (s : State) (n : Nat) : State :=
  let x := s.qslot n
  s.setQslot n { x with mapped := none, yreq := x.guar && x.yreq, head := false, work := false }

/-- A release (R258). -/
def QSlot.release (x : QSlot) (dl : Nat) : QSlot :=
  { x with dl := dl % 2 ^ 64, rem := x.budget, ovr := false, xcyc := none, yreq := if x.ylead < x.budget then false else x.yreq }

/-- SLOT_RELEASE: a guaranteed slot whose DL the counter has reached. -/
def State.releaseSlot (s : State) (n : Nat) : State :=
  let x := s.qslot n
  if x.en && x.guar && x.dl == (s.part (s.ownerOf (n / 8))).scyc then s.setQslot n (x.release (x.dl + x.period)) else s

/-! The head (R257, R261). -/

/-- Whether a slot has work. -/
def State.slotWork (s : State) (n : Nat) : Bool :=
  match (s.qslot n).mapped with
  | some q => (s.qslot n).en && s.hasWork q
  | none => false

/-- The rank of a slot in the order of R261 and R262: class, deadline, index. The head of this cycle had REM when the cycle
started. -/
def State.slotRank (s : State) (n : Nat) : Nat × Nat × Nat :=
  let x := s.qslot n
  (if x.guar then (if x.rem = 0 && !x.head then 2 else 0) else if x.yreq then 3 else 1, x.dl, n)

def rankLe (a b : Nat × Nat × Nat) : Bool :=
  decide (a.1 < b.1) || (a.1 == b.1 && (decide (a.2.1 < b.2.1) || (a.2.1 == b.2.1 && decide (a.2.2 ≤ b.2.2))))

/-- Orders slots by rank. -/
def State.insertRank (s : State) (n : Nat) : List Nat → List Nat
  | [] => [n]
  | m :: t => if rankLe (s.slotRank m) (s.slotRank n) then m :: s.insertRank n t else n :: m :: t

/-- The slots of a partition that hold a queue with work, in the order of R262. -/
def State.slotOrder (s : State) (p : Nat) : List Nat :=
  ((s.slotsOf p).filter s.slotWork).foldl (fun acc n => s.insertRank n acc) []

/-- The head slot of a partition (R261). A best-effort slot whose YREQ is set stays eligible as head. -/
def State.headSlot (s : State) (p : Nat) : Option Nat :=
  let ok := (s.slotsOf p).filter (fun n => s.slotWork n && (!(s.qslot n).guar || decide (0 < (s.qslot n).rem)))
  ok.foldl (fun b n =>
    match b with
    | some m =>
      let key (k : Nat) : Nat × Nat × Nat := (if (s.qslot k).guar then 0 else 1, (s.qslot k).dl, k)
      if rankLe (key m) (key n) then some m else some n
    | none => some n) none

/-- HEAD_CYCLE: queues that gained work join the list (R260); WORK and HEAD of every slot, X of R265, and one cycle of
the head's budget. In Eclipse no cycle passes (R391). -/
def State.headStep (s : State) (p : Nat) : State :=
  if (s.part p).power = .eclipse then s else
  let h := s.headSlot p
  (s.slotsOf p).foldl (fun (s : State) n =>
    let x := s.qslot n
    let head := h == some n
    let xcyc := if x.en && x.guar && x.rem == 0 && x.xcyc.isNone then some (s.part p).scyc else x.xcyc
    s.setQslot n { x with
      work := s.slotWork n, head := head, xcyc := xcyc, rem := if head && x.guar then x.rem - 1 else x.rem }) (s.rotate p)

/-- YIELD_REQUEST (R264): a cycle of a guaranteed slot that starts with REM at or below YLEAD. -/
def State.yieldStep (s : State) (n : Nat) : State :=
  let x := s.qslot n
  if x.en && x.guar && decide (x.rem ≤ x.ylead) then s.setQslot n { x with yreq := true } else s

/-- The head of the cycle in which a guaranteed slot is admitted (R258, R261): the slot's release precedes the choice, so a head that
the cycle has chosen without it is chosen again, and its REM is as before (DEDUCED: a first slot has its first head cycle in t0, as
the worked schedule shows). A choice still to come, and Eclipse, leave nothing to choose. -/
def State.electAgain (s : State) (n : Nat) : State :=
  let p := s.ownerOf (n / 8)
  if s.inbox.contains (.headCycle p) || (s.part p).power == .eclipse then s.rotate p
  else
    (((s.slotsOf p).foldl (fun (s : State) k =>
      let x := s.qslot k
      if x.head && x.guar then s.setQslot k { x with rem := x.rem + 1, head := false } else s) s).yieldStep n).headStep p

/-- ADMISSION: a write of QSCTL. A write that clears EN unmaps the slot's queue at once, resident gangs or not, and an admitted slot
takes its queue from a slot that holds it, at once (DESIGN CHOICE: the manual says neither when such a queue leaves nor what
becomes of a queue that two slots name). The release of the admission counts for the head of its cycle. -/
def State.writeQsctl (s : State) (n : Nat) (v : Nat) : State :=
  let x := { (s.qslot n) with admerr := false }
  let p := s.ownerOf (n / 8)
  if x.en then
    if bit v 31 then s.setQslot n x else ((s.setQslot n { x with en := false }).unmap n).rotate p
  else
    let y := { x with guar := bit v 30, queue := bits v 15 0 }
    if !bit v 31 then s.setQslot n y
    else if !y.guar then s.setQslot n { y with en := true }
    else if !s.admits n y then s.setQslot n { y with admerr := true }
    else
      let s1 := match s.slotOf y.queue with | some k => s.unmap k | none => s
      ((s1.setQslot n ({ y with en := true, mapped := some y.queue, head := false }.release ((s.part p).scyc + y.period)))).electAgain n

/-! Overrun (R265). -/

/-- The waves of a slot's resident gangs that stand at no blocking point. -/
def State.lateWaves (s : State) (n : Nat) : Nat :=
  match (s.qslot n).mapped with
  | none => 0
  | some q =>
    let gs := (s.queueGangs q).filter (fun e => e.2.st == .resident)
    sumNat (gs.map (fun e => ((s.gangStreams e.1).filter (fun w => !w.belay && !(w.halted || s.blocked w))).length))

/-- OVERRUN_CHECK: judged after the last step of cycle E, before the next release. -/
def State.overrunStep (s : State) (n : Nat) : State :=
  let x := s.qslot n
  let p := s.ownerOf (n / 8)
  match x.xcyc with
  | none => s
  | some c =>
    let late := s.lateWaves n
    if !(x.en && x.guar) || (s.part p).scyc != (c + x.grace + 1) % 2 ^ 64 || late = 0 then s
    else
      (s.setQslot n { x with ovr := true }).event p 1
        (leBytes 4 (n + 2 ^ 16 * x.queue) ++ leBytes 8 (c + x.grace) ++ leBytes 4 late)

/-! Best-effort rotation (R260). -/

/-- SLICE_EXPIRY. -/
def State.sliceStep (s : State) (n : Nat) : State :=
  let x := s.qslot n
  let y := s.part (s.ownerOf (n / 8))
  let ended := decide ((y.scyc + 2 ^ 64 - x.dl) % 2 ^ 64 < 2 ^ 63)
  if x.en && !x.guar && x.mapped.isSome && ended && !y.rr.isEmpty then s.setQslot n { x with yreq := true } else s

/-- BEST_EFFORT_MAPPING. -/
def State.mapStep (s : State) (n : Nat) : State :=
  let x := s.qslot n
  let p := s.ownerOf (n / 8)
  let y := s.part p
  match y.rr with
  | q :: rest =>
    if x.en && !x.guar && x.mapped.isNone then
      (s.setPart p { y with rr := rest }).setQslot n { x with mapped := some q, dl := (y.scyc + y.pslice) % 2 ^ 64, yreq := false }
    else s
  | [] => s

/-- QUEUE_LEAVES_SLOT. -/
def State.leaveStep (s : State) (n : Nat) : State :=
  let x := s.qslot n
  match x.mapped with
  | none => s
  | some q =>
    if x.guar then s
    else if !s.hasWork q || (x.yreq && (s.queueGangs q).all (fun e => e.2.st != .resident)) then
      (s.unmap n).rotate (s.ownerOf (n / 8))
    else s

/-! Placement in slot order (R262). -/

/-- Whether gangs of a slot may be placed: a guaranteed one's while the cycle started with REM (R262, R263). -/
def QSlot.places (x : QSlot) : Bool := x.en && (if x.guar then x.head || decide (0 < x.rem) else !x.yreq)

/-- The gangs that may be placed, in the order of R262, each with its slot. -/
def State.placeOrder (s : State) (p : Nat) : List (Nat × Nat) :=
  ((s.slotOrder p).filter (fun n => (s.qslot n).places)).flatMap (fun n =>
    match (s.qslot n).mapped with
    | some q => (s.queue q).pending.map (fun g => (n, g))
    | none => [])

/-- The best window of a gang. -/
def State.windowOf (s : State) (p g : Nat) (except : Nat → List Nat) : Option (Nat × Nat) :=
  match s.gang? g with
  | some x => if s.tryable g x then s.bestWindow x.launch.ngrp (s.windows p g x except) else none
  | none => none

/-- Whether a gang belongs to a slot later in the order than `n`. One whose queue stands in no slot counts as later (DESIGN CHOICE:
the manual orders slots only). -/
def State.laterGang (s : State) (n g : Nat) : Bool :=
  match s.gang? g with
  | some x =>
    match s.slotOf x.launch.queue with
    | some m => m != n && rankLe (s.slotRank n) (s.slotRank m)
    | none => true
  | none => false

/-- The gangs whose hold on a core is treated as gone to make room for the head (R262): all of the core's, where all
belong to later slots and all their waves there stand at blocking points; on a belay core the one gang that holds it. -/
def State.treatFree (s : State) (n core : Nat) : List Nat :=
  let held (w : Wave) : Bool := w.halted || s.blocked w
  if core < noCore then
    let gs := (s.groupsOn core).map (·.1)
    if gs.all (s.laterGang n) && (s.wavesOn core).all held then gs else []
  else
    match (s.cluster (core - noCore)).belayGang with
    | some g => if s.laterGang n g && (match s.stream? (belayId g) with | some w => held w | none => true) then [g] else []
    | none => []

/-- Makes room for the first pending gang of this cycle's head: the gangs it displaces are evicted (R262). -/
def State.makeRoom (s : State) (p : Nat) : State :=
  match (s.slotsOf p).find? (fun n => (s.qslot n).head) with
  | none => s
  | some n =>
    match (s.qslot n).mapped.bind (fun q => (s.queue q).pending.head?) with
    | none => s
    | some g =>
      if !(s.qslot n).places || (s.windowOf p g (fun _ => [])).isSome then s
      else
        match s.gang? g, s.windowOf p g (s.treatFree n) with
        | some x, some w =>
          let cores := (List.range x.launch.ngrp).map (fun j => 64 * w.1 + w.2 + j)
          let belay := if x.launch.belay.isSome then [belayCore w.1] else []
          let bad := cores.filter (fun c => !s.eligible p c [] (s.need g (c - (64 * w.1 + w.2)) x))
          (((bad ++ belay).flatMap (s.treatFree n)).eraseDups).foldl (fun s h => s.evict h) s
        | _, _ => s

/-- GANG_PLACEMENT: at most one gang of a partition in a cycle (R31, R262). -/
def State.placeStep (s : State) (p : Nat) : State :=
  if (s.part p).pstop then s
  else
    match (s.placeOrder p).findSome? (fun e => (s.windowOf p e.2 (fun _ => [])).map (fun w => (e, w))) with
    | some (e, w) =>
      let s1 := match s.gang? e.2 with | some x => s.placeGang e.2 e.1 x w | none => s
      s1.makeRoom p
    | none => s.makeRoom p

def execGangPlacement (p : Nat) (s : State) : Out := .next (s.placeStep p)
def execEviction (gang : Nat) (s : State) : Out := .next (s.evict gang)
def execWaveRetire (w : WaveId) (s : State) : Out := .next (s.retireWave w)
def execTempUpdate (core : Nat) (sample : BitVec 8) (s : State) : Out := .next (s.tempUpdate core sample)
def execDroopSet (core : Nat) (s : State) : Out := .next (s.droopSet core)
def execDroopClear (core : Nat) (s : State) : Out := .next (s.droopClear core)
def execAdmission (slot : Nat) (val : BitVec 32) (s : State) : Out :=
  .next (s.fwWrite (.admission slot val) (fun s => s.writeQsctl slot val.toNat))
def execSlotRelease (slot : Nat) (s : State) : Out := .next (s.releaseSlot slot)
def execHeadCycle (p : Nat) (s : State) : Out := .next (s.headStep p)
def execYieldRequest (slot : Nat) (s : State) : Out := .next (s.yieldStep slot)
def execOverrunCheck (slot : Nat) (s : State) : Out := .next (s.overrunStep slot)
def execSliceExpiry (slot : Nat) (s : State) : Out := .next (s.sliceStep slot)
def execBestEffortMapping (slot : Nat) (s : State) : Out := .next (s.mapStep slot)
def execQueueLeavesSlot (slot : Nat) (s : State) : Out := .next (s.leaveStep slot)

end Sys2Proof.Machine
end

