-- ==== Sys2Proof/Machine/Keccak.lean ====
section
/-! DEFINITION. SHAKE256 (PRESUMED: FIPS 202), which the manual names for digests (R427). -/

namespace Sys2Proof.Machine

/-- The permutation's state: sheet x lists the 64-bit lanes (x, 0) to (x, 4). -/
abbrev Sheets := List (List (BitVec 64))

/-- The lane at (x, y), both coordinates modulo 5. -/
def Sheets.lane (a : Sheets) (x y : Nat) : BitVec 64 := (a.getD (x % 5) []).getD (y % 5) 0

/-- Adds to every lane the parities of the columns on either side of it. -/
def Sheets.theta (a : Sheets) : Sheets :=
  let parity := a.map (fun sheet => sheet.foldl (· ^^^ ·) 0)
  let near := fun x k => parity.getD ((x + k) % 5) 0
  a.mapIdx (fun x sheet => sheet.map (fun w => w ^^^ near x 4 ^^^ (near x 1).rotateLeft 1))

/-- Moves lanes of `a` into `out` along the walk from (x, y) to (y, 2x + 3y), `n` moves before its end; the k-th of its 24
moves rotates by the k-th triangular number. -/
def Sheets.walk (a : Sheets) : Nat → Nat → Nat → Sheets → Sheets
  | 0, _, _, out => out
  | n + 1, x, y, out =>
    let k := 24 - n
    let y' := (2 * x + 3 * y) % 5
    Sheets.walk a n y y'
      (out.modify y (fun sheet => sheet.set y' ((a.lane x y).rotateLeft (k * (k + 1) / 2 % 64))))

/-- Combines each lane with its two neighbours in x. -/
def Sheets.chi (a : Sheets) : Sheets :=
  a.mapIdx (fun x sheet => sheet.mapIdx (fun y w => w ^^^ (~~~a.lane (x + 1) y &&& a.lane (x + 2) y)))

/-- The register of the round constants, one shift on (polynomial x⁸ + x⁶ + x⁵ + x⁴ + 1). -/
def rcShift (r : BitVec 8) : BitVec 8 := (r <<< 1) ^^^ (if r.msb then 0x71#8 else 0)

/-- A round's constant, whose bit 2^j − 1 is the j-th of seven bits of the register, and the register after them. -/
def rcWord : List Nat → BitVec 8 → BitVec 64 → BitVec 8 × BitVec 64
  | [], r, c => (r, c)
  | j :: js, r, c => rcWord js (rcShift r) (if r.getLsbD 0 then c ||| (1#64 <<< (2 ^ j - 1)) else c)

/-- `n` rounds, with the register of the round constants at `r`. -/
def Sheets.rounds : Nat → BitVec 8 → Sheets → Sheets
  | 0, _, a => a
  | n + 1, r, a =>
    let t := a.theta
    let (r', c) := rcWord [0, 1, 2, 3, 4, 5, 6] r 0
    Sheets.rounds n r' ((t.walk 24 1 0 t).chi.modify 0 (fun sheet => sheet.modify 0 (· ^^^ c)))

/-- Bytes of one block of SHAKE256. -/
def shakeRate : Nat := 136

/-- The message with its suffix and padding, in whole blocks. -/
def shakePad (m : List Byte) : List Byte :=
  let n := shakeRate - 1 - m.length % shakeRate
  if n = 0 then m ++ [0x9F] else m ++ [0x1F] ++ List.replicate (n - 1) 0 ++ [0x80]

/-- Adds a block, whose i-th eight bytes meet lane (i mod 5, i / 5). -/
def Sheets.addBlock (a : Sheets) (m : List Byte) : Sheets :=
  a.mapIdx (fun x sheet => sheet.mapIdx (fun y w =>
    w ^^^ BitVec.ofNat 64 (leNat (((m.take shakeRate).drop (8 * (x + 5 * y))).take 8))))

/-- Takes in `n` blocks. -/
def Sheets.take : Nat → Sheets → List Byte → Sheets
  | 0, a, _ => a
  | n + 1, a, m => Sheets.take n ((a.addBlock m).rounds 24 1) (m.drop shakeRate)

/-- SHAKE256 with 512 bits of output. -/
def shake256 (m : List Byte) : List Byte :=
  let p := shakePad m
  let a := Sheets.take (p.length / shakeRate) (List.replicate 5 (List.replicate 5 0)) p
  (List.range 8).flatMap (fun i => leBytes 8 (a.lane i (i / 5)).toNat)

end Sys2Proof.Machine
end

