-- ==== Sys2Proof/Machine/WindowMap.lean ====
section
/-! DEFINITION. The register windows of the device and its partitions: what a register reads, and where it stands (R6, R414, R415,
R417). -/

namespace Sys2Proof.Machine

/-- PMAP [31:0] as it stands (R417). -/
def Dev.pmapVal (d : Dev) : Nat := sumNat ((List.range 8).map (fun k => Tab.get 8 d.pmap k % 16 * 16 ^ k))

/-! What a register reads (R6): its fields in their places, and 0 where it is reserved. -/

/-- PSTATE [1:0] (R416). -/
def Power.code (x : Power) : Nat := match x with | .noon => 0 | .dusk => 1 | .umbra => 2 | .eclipse => 3

/-- A register of a partition's window; none where it is write-only. -/
def Partn.readReg (x : Partn) (r : PartReg) : Option Nat :=
  match r with
  | .pctl => some (b2n x.prst * 2 ^ 31 + b2n x.pstop * 2 ^ 30)
  | .ltol => some x.ltol.toNat
  | .pstate => some x.power.code
  | .dbbase => some x.dbbase
  | .hwbase => some x.hwbase
  | .tagbase => some x.tagbase
  | .evbase => some x.evbase
  | .evk => some x.evk
  | .evw => some x.evw
  | .evr => some x.evr
  | .plctl => some (x.hott + x.hyst * 2 ^ 8 + b2n x.drpen * 2 ^ 12)
  | .pslice => some x.pslice
  | .ptroot => some x.ptroot
  | .frbase => some x.frbase
  | .frk => some x.frk
  | .frw => some x.frw
  | .frr => some x.frr
  | .sdia => some x.sdia
  | .sdctl => some (b2n x.sdbusy * 2 ^ 31 + x.sdnpg)
  | .rply => some (b2n x.rplybusy * 2 ^ 31)
  | .qtbase => some x.qtbase
  | .ctbase => some x.ctbase
  | .ctk => some x.ctk
  | .imgbase => some x.imgbase
  | .imgpg => some x.imgpg
  | .crgn i => some (Tab.get 0 x.crgn i).toNat
  | .pmeas i => some (leNat ((x.pmeas.drop (8 * i)).take 8))
  | .scyc => some x.scyc
  | .pgack | .qrfr | .ctack => none

/-- A register of a queue slot (R256). -/
def QSlot.readReg (x : QSlot) (r : SlotReg) : Nat :=
  match r with
  | .qsctl => b2n x.en * 2 ^ 31 + b2n x.guar * 2 ^ 30 + b2n x.admerr * 2 ^ 29 + x.queue
  | .qsper => x.period
  | .qsbud => x.budget
  | .qsyld => x.grace * 2 ^ 16 + x.ylead
  | .qsrem => x.rem
  | .qsdl => x.dl
  | .qsst => b2n x.ovr * 8 + b2n x.yreq * 4 + b2n x.head * 2 + b2n x.work

/-- A register of an engine context (R303). -/
def EngCtx.readReg (x : EngCtx) (r : EngReg) : Nat :=
  match r with
  | .ecctl => b2n x.en * 2 ^ 31 + b2n x.stop * 2 ^ 30 + b2n x.err * 2 ^ 29 + x.ctx * 2 ^ 16 + x.rk
  | .ecbase => x.base
  | .ecwidx => x.widx.toNat
  | .ecridx => x.ridx.toNat
  | .ecnum => x.num
  | .ectl => x.tl

/-- A register of the device window; none where no window holds it. -/
def Dev.readReg (d : Dev) (r : DevReg) : Option Nat :=
  match r with
  | .ctxbase => some d.ctxbase
  | .tvbase => some d.tvbase
  | .pmap => some d.pmapVal
  | .pmapErr => some (b2n d.pmapErr)
  | .herbase => some d.herbase
  | .herk => some d.herk
  | .herw => some d.herw
  | .herr => some d.herr
  | .fwctl => some d.wdt
  | .bootrec i => some (leNat ((d.bootrec.drop (8 * i)).take 8))
  | .nodeId | .route _ | .neighbour _ | .kick => none

/-- What a register reads; none where it is write-only. -/
def State.readTarget (s : State) (t : FwTarget) : Option Nat :=
  match t with
  | .part p r => (s.part p).readReg r
  | .slot n r => some ((s.qslot n).readReg r)
  | .eng e r => some ((s.eng e).readReg r)
  | .dev r => s.dev.readReg r
  | .window _ _ _ _ _ _ | .memory _ _ => none

/-! Where the registers stand (R415, R417): offset, bytes, register. -/

def partRegs : List (Nat × Nat × PartReg) :=
  [(0x00, 4, .pctl), (0x04, 4, .ltol), (0x08, 4, .pstate), (0x10, 8, .dbbase), (0x18, 8, .hwbase), (0x20, 8, .tagbase),
    (0x28, 8, .evbase), (0x30, 4, .evk), (0x34, 4, .evw), (0x38, 4, .evr), (0x80, 4, .plctl), (0x88, 8, .pslice),
    (0x100, 8, .ptroot), (0x108, 8, .frbase), (0x110, 4, .frk), (0x114, 4, .frw), (0x118, 4, .frr), (0x11C, 4, .pgack),
    (0x120, 8, .sdia), (0x128, 4, .sdctl), (0x12C, 4, .rply), (0x130, 8, .qtbase), (0x138, 4, .qrfr), (0x200, 8, .ctbase),
    (0x208, 4, .ctk), (0x210, 8, .ctack), (0x280, 8, .imgbase), (0x288, 4, .imgpg), (0x30000, 8, .scyc)]

def partMap : List (Nat × Nat × PartReg) :=
  partRegs ++ (List.range 8).map (fun i => (0x300 + 8 * i, 8, .crgn i)) ++ (List.range 8).map (fun i => (0x400 + 8 * i, 8, .pmeas i))

def slotMap : List (Nat × Nat × SlotReg) :=
  [(0x00, 4, .qsctl), (0x04, 4, .qsper), (0x08, 4, .qsbud), (0x0C, 4, .qsyld), (0x10, 4, .qsrem), (0x18, 8, .qsdl), (0x20, 4, .qsst)]

def engMap : List (Nat × Nat × EngReg) :=
  [(0x00, 4, .ecctl), (0x08, 8, .ecbase), (0x10, 4, .ecwidx), (0x14, 4, .ecridx), (0x18, 8, .ecnum), (0x20, 8, .ectl)]

def devRegs : List (Nat × Nat × DevReg) :=
  [(0x00, 8, .ctxbase), (0x08, 8, .tvbase), (0x10, 4, .pmap), (0x14, 4, .pmapErr), (0x20, 8, .herbase), (0x28, 4, .herk),
    (0x2C, 4, .herw), (0x30, 4, .herr), (0x80, 4, .fwctl)]

def devMap : List (Nat × Nat × DevReg) :=
  devRegs ++ (List.range 4).map (fun i => (0x40 + 8 * i, 8, .bootrec i))

/-- The register of a map that holds the byte at an offset, and which of its bytes that is. -/
def regAt {α : Type} (m : List (Nat × Nat × α)) (off : Nat) : Option (α × Nat) :=
  (m.find? (fun e => decide (e.1 ≤ off) && decide (off < e.1 + e.2.1))).map (fun e => (e.2.2, off - e.1))

/-- The register at an offset of a partition's window: of slots and engine contexts only those that the partition owns respond
(R415). -/
def State.partAt (s : State) (p off : Nat) : Option (FwTarget × Nat) :=
  let slot := (off - 0x10000) / 64
  let ctx := (off - 0x20000) / 64
  if off < 0x10000 || 0x30000 ≤ off then (regAt partMap off).map (fun r => (.part p r.1, r.2))
  else if off < 0x20000 then
    if slot < Config.nSlot && s.ownerOf (slot / 8) == p then (regAt slotMap (off % 64)).map (fun r => (.slot slot r.1, r.2)) else none
  else if s.engPart ctx == p then (regAt engMap (off % 64)).map (fun r => (.eng ctx r.1, r.2))
  else none

/-- The register at an offset of BAR0, and which of its bytes stands there (R414). -/
def State.winAt (s : State) (off : Nat) : Option (FwTarget × Nat) :=
  if off < 0x1000000 then (regAt devMap off).map (fun r => (.dev r.1, r.2))
  else if off < 0x3000000 then s.partAt ((off - 0x1000000) / 0x400000) ((off - 0x1000000) % 0x400000)
  else none

/-! The bytes of a write through BAR0 (R414). -/

/-- A number with its byte `k` replaced. -/
def setByte (v k : Nat) (b : Byte) : Nat := v - v / 256 ^ k % 256 * 256 ^ k + b.toNat * 256 ^ k

/-- The partition whose window an offset of BAR0 lies in (R414). -/
def windowPart (off : Nat) : Option Nat :=
  if decide (0x1000000 ≤ off) && decide (off < 0x1000000 + 0x400000 * Config.nPart) then some ((off - 0x1000000) / 0x400000) else none

/-- The partitions in whose windows a write through BAR0 lies. -/
def winParts (off n : Nat) : List Nat := ((List.range n).filterMap (fun k => windowPart (off + k))).eraseDups

/-- The bytes of a write through BAR0 that lie in the window of a partition, from their first offset on. -/
def winPiece (off : Nat) (bs : List Byte) (p : Nat) : Nat × List Byte :=
  let lo := Nat.max off (0x1000000 + 0x400000 * p)
  (lo, (bs.drop (lo - off)).take (0x1000000 + 0x400000 * (p + 1) - lo))

/-- The registers that a write through BAR0 touches, each with the byte of it and the value written. -/
def State.winCells (s : State) (off : Nat) (bs : List Byte) : List (FwTarget × Nat × Byte) :=
  ((List.range bs.length).zip bs).filterMap (fun e => (s.winAt (off + e.1)).map (fun t => (t.1, t.2, e.2)))

end Sys2Proof.Machine
end

