-- ==== Sys2Proof/Machine/System.lean ====
section
/-! DEFINITION. The device in its system: notify writes, power states, partitions, resets, the host and fabric windows,
the Lantern and firmware (R414 to R427). -/

namespace Sys2Proof.Machine

/-! Removing waves and gangs. -/

/-- Removes every stream that satisfies `f`, with its turns. -/
def State.dropStreams (s : State) (f : Wave → Bool) : State :=
  let gone := (s.streams.filter f).map (·.id)
  { s with
    w := if s.w.live && f s.w then Wave.idle else s.w
    waves := s.waves.filter (fun x => !(x.live && f x))
    turn := s.turn.filter (fun t => !gone.contains t.1) }

/-- Removes every gang that satisfies `f` from the table, the pending lists and its belay core. -/
def State.dropGangs (s : State) (f : Gang → Bool) : State :=
  let gone := (s.gangs.filter (fun e => f e.2)).map (·.1)
  { s with
    gangs := s.gangs.filter (fun e => !f e.2)
    queues := s.queues.map (fun q => (q.1, { q.2 with pending := q.2.pending.filter (fun g => !gone.contains g) }))
    clusters := s.clusters.map (fun c =>
      (c.1, { c.2 with belayGang := match c.2.belayGang with | some g => if gone.contains g then none else some g | none => none }))
    cores := s.cores.map (fun c => (c.1, { c.2.freeBars (fun b => gone.contains b.gang) with
      guards := c.2.guards.filter (fun e => !gone.contains e.2.gang)
      claims := c.2.claims.filter (fun k => !gone.contains k.wave.gang)
      dead := c.2.dead.filter (fun k => !gone.contains k.wave.gang) }))
    sram := s.sram.filter (fun b => match b with | .buf g _ _ _ => !gone.contains g | .l2 _ | .l1 _ _ | .grid _ _ _ => true) }

/-! The L2 of a partition. -/

/-- Sends every update-only line of the cores of a partition. -/
def State.sendLines (s : State) (p : Nat) : State :=
  (Tab.keys s.cores).foldl (fun (s : State) c =>
    if s.ownerOf (sliceOf c) == p then
      (linesOf ((s.core c).upd.map (fun u => (u.ia, 0)))).foldl (fun s ln => s.sendLine p c ln) s
    else s) s

/-- Each update-only line of the cores of a partition is sent or not (R422). -/
def State.settleLines (s : State) (p : Nat) : State :=
  (Tab.keys s.cores).foldl (fun (s : State) c =>
    if s.ownerOf (sliceOf c) == p then
      (linesOf ((s.core c).upd.map (fun u => (u.ia, 0)))).foldl (fun (s : State) ln =>
        if Config.resetPerforms s.fresh then s.tick.sendLine p c ln else s.tick) s
    else s) s

/-- Writes back and invalidates every L2 line of a partition. -/
def State.flushL2 (s : State) (p : Nat) : State :=
  let s1 := ((s.part p).l2.filter (fun e => e.dirty)).foldl (fun (s : State) e => s.writeBack p e.line) s
  { s1.setPart p { (s1.part p) with l2 := [] } with
    sram := s1.sram.filter (fun b => !(s1.part p).l2.any (fun e => b.inLine e.pa)) }

/-- Whether an SRAM byte is one of an L1 of the cores that `f` admits. -/
def SramByte.ofL1 (b : SramByte) (f : Nat → Bool) : Bool :=
  match b with
  | .l1 c _ => f c
  | .l2 _ | .buf _ _ _ _ | .grid _ _ _ => false

/-- Drops what the cores of a partition cache. -/
def State.dropL1s (s : State) (p : Nat) : State :=
  { s with
    cores := s.cores.map (fun c =>
      if s.ownerOf (sliceOf c.1) == p then (c.1, { c.2 with l1 := [], upd := [], kinds := [] }) else c)
    sram := s.sram.filter (fun b => !b.ofL1 (fun c => s.ownerOf (sliceOf c) == p)) }

/-! Resets (R422). -/

/-- The cells of a host write through BAR2 (R414). -/
def State.bar2Cells (s : State) (p off : Nat) (bs : List Byte) : List Host.Cell :=
  (List.range bs.length).zip bs |>.map (fun q => (((s.part p).hwbase + off + q.1) % 2 ^ 48, q.2))

/-- The bytes of a write from an IA on. -/
def spanCells (ia : Nat) (bs : List Byte) : List Host.Cell := (List.range bs.length).zip bs |>.map (fun q => ((ia + q.1) % 2 ^ 48, q.2))

/-- The doorbell writes that a write of cells holds. -/
def State.bellNotes (s : State) (p : Nat) (bs : List Host.Cell) : List Notify :=
  (s.bells p bs).filterMap (fun e => match e with | .doorbellWrite q x => some (.bell q x) | _ => none)

/-- Of the writes of the host through BAR2, and of other nodes, that wait among the latched ones of a partition each performs or is
discarded; the notify writes stay, the doorbells in those writes among them (R420, R422). -/
def State.settleLatched (s : State) (p : Nat) : State :=
  let settle (s : State) (agent : Agent) (cells : List Host.Cell) : State :=
    let keep := s.bellNotes p cells
    let t := if Config.resetPerforms s.fresh then { (s.tick.agentWrite p agent 0 cells).1 with inbox := s.inbox } else s.tick
    t.setPart p { (t.part p) with notifyQ := (t.part p).notifyQ ++ keep }
  (s.part p).notifyQ.foldl (fun (s : State) w =>
    match w with
    | .mem off bs => settle s .host (s.bar2Cells p off bs)
    | .fab ia bs => settle s .fabric (spanCells ia bs)
    | .doorbell _ _ | .bell _ _ | .widx _ _ | .reg _ _ | .win _ _ =>
      s.setPart p { (s.part p) with notifyQ := (s.part p).notifyQ ++ [w] }) (s.setPart p { (s.part p) with notifyQ := [] })

/-- Each access of a partition that has not performed performs or is discarded. What is held at the end is of no access any more. -/
def State.settleAccesses (s : State) (p : Nat) : State :=
  let x := s.part p
  let s1 := { s.setPart p { x with parked := [], parkWait := [], shoots := [] } with stores := s.stores.filter (fun h => h.part != p) }
  let s2 := ((x.parked ++ x.parkWait).filter (fun a => Config.resetPerforms a.id)).foldl (fun s a => s.retry p a) s1
  let s3 := ((s.stores.filter (fun h => h.part == p)).filter (fun h => Config.resetPerforms h.acc.id)).foldl (fun s h =>
    s.retry p h.acc) s2
  let s4 := s3.settleLines p
  let mine (r : Remote) : Bool := match s.gang? r.wave.gang with | some g => g.launch.part == p | none => false
  { s4.setPart p { (s4.part p) with parked := [], parkWait := [], faultQ := x.faultQ } with
    stores := s4.stores.filter (fun h => h.part != p)
    remotes := s.remotes.filter (fun r => !mine r) }

/-- Where an import window of a partition takes an access (R424); none where every window refuses it. -/
def Partn.import (x : Partn) (node ia n : Nat) (write : Bool) : Option Nat :=
  (x.windows.find? (fun e =>
    let w := e.2
    w.node == node && decide (w.ia ≤ ia) && decide (ia + n ≤ w.ia + w.len) && !(write && w.ro))).map (fun e => (ia + e.2.off) % 2 ^ 48)

/-- Whether an access from outside that is held is one to a partition's memory, and no notify write (R420). -/
def State.heldFor (s : State) (p : Nat) (e : Instr) : Bool :=
  let x := s.part p
  match e with
  | .hostBar2Access q _ (.read _) => q == p
  | .hostBar2Access q off (.write bs) => q == p && !x.inAperture ((x.hwbase + off) % 2 ^ 48) bs.length
  | .incomingRemoteAccess q node ia (.write bs) =>
    q == p && !((x.import node ia bs.length true).any (fun a => x.inAperture a bs.length))
  | .incomingRemoteAccess q _ _ _ => q == p
  | _ => false

/-- A partition reset, before the partition stands in Noon and applies what the Lantern has latched. It is no reset of its cores:
their CCYC counts on, the belay core's too (R393). -/
def State.resetPart (s : State) (p : Nat) : State :=
  let s1 := (((s.settleLatched p).settleAccesses p).dropL1s p).flushL2 p
  let s2 := (s1.dropStreams (fun w => w.place.part == p)).dropGangs (fun g => g.launch.part == p)
  let x := s2.part p
  let own (slice : Nat) : Bool := s2.ownerOf slice == p
  { s2.setPart p { Partn.reset with
      faultQ := x.faultQ, eventQ := x.eventQ, notifyQ := x.notifyQ, waking := x.waking, windows := x.windows } with
    queues := s2.queues.filter (fun q => q.2.part != p)
    slots := s2.slots.filter (fun e => !own (e.1 / 8))
    engs := s2.engs.filter (fun e => !own (e.1 / 128))
    replies := s2.replies.filter (fun r => r.part != p)
    clusters := s2.clusters.map (fun c =>
      if own (c.1 / 2) then
        (c.1, { Cluster.reset with rcBase := c.2.rcBase, belayBase := c.2.belayBase, nextGrid := c.2.nextGrid })
      else c)
    dev := { s2.dev with
      held := s2.dev.held.filter (fun e => !s.heldFor p e)
      arrived := s2.dev.arrived.filter (fun e => !s.heldFor p e.1)
      fabWrites := s2.dev.fabWrites.filter (fun e => e.1 != p) } }

/-- Forgets the handler state of a wave (R413). -/
def Wave.clearHandler (w : Wave) : Wave :=
  { w with
    handler := false, xpc := 0, xcause := 0, xword := 0, xaddr := 0, xlane := 0, xhpc := 0,
    xsave := [0, 0, 0, 0], replay := [] }

/-- CORE_RESET (R28, R104, R182, R311, R393, R413). -/
def State.resetCore (s : State) (core : Nat) : State :=
  let s1 := (s.groupsOn core).foldl (fun (s : State) e =>
    s.onGrp e.1 e.2.2 (fun y => { y with wb := [], ab := [], cb := [], copyq := [] })) s
  let s2 := (s1.wavesOn core).foldl (fun (s : State) w => s.onStream w.id Wave.clearHandler) s1
  let lost (b : SramByte) : Bool :=
    match b with
    | .buf g k _ _ => (s.groupsOn core).any (fun e => e.1 == g && e.2.2 == k)
    | b => b.ofL1 (fun c => c == core)
  { s2.setCore core { Core.reset with ccBase := Tab.get 0 s2.clock (sliceOf core) } with sram := s2.sram.filter (fun b => !lost b) }

/-- CLUSTER_RESET (R270, R291, R338): the belay core's CCYC is 0 after it (R393; DEDUCED: the belay core is reset with its cluster).
A grid number is not given twice: a wave that still shades one names it (R335). -/
def State.resetCluster (s : State) (cl : Nat) : State :=
  let c := s.cluster cl
  let s1 := s.setCluster cl { Cluster.reset with
    belayGang := c.belayGang, belayBase := Tab.get 0 s.clock (cl / 2), rcBase := Tab.get 0 s.clock (cl / 2), nextGrid := c.nextGrid }
  (s1.streams.filter (fun w => !w.belay && w.core / 64 == cl)).foldl (fun (s : State) w =>
    s.onStream w.id (fun y => { y with rays := [] })) s1

/-! Partitions (R421). -/

/-- The four bits that a PMAP value gives a slice (R417). -/
def pmapBits (val slice : Nat) : Nat := bits val (4 * slice + 3) (4 * slice)

/-- The partition that a PMAP value gives a slice; 8 stands for none. -/
def pmapOf (val slice : Nat) : Nat := if bit val (4 * slice + 3) then bits val (4 * slice + 2) (4 * slice) else 8

/-- Whether slice `k` of partition `a` may leave it. -/
def State.sliceFree (s : State) (a k : Nat) : Bool :=
  let rank := ((List.range k).filter (fun j => s.ownerOf j == a)).length
  let x := s.part a
  s.gangs.all (fun e => !(e.2.st == .resident && e.2.cluster / 2 == k))
    && [2 * k, 2 * k + 1].all (fun c => (s.cluster c).belayGang.isNone)
    && (List.range 8).all (fun j => !(s.qslot (8 * k + j)).en)
    && s.engs.all (fun e => e.1 / 128 != k || (!e.2.en && e.2.req.isNone && e.2.cur.isNone))
    && (x.parked ++ x.parkWait).all (fun y => s.mtuOf a y.ia / 2 != rank)

/-- Whether a PMAP write takes effect. -/
def State.pmapOk (s : State) (val : Nat) : Bool :=
  let moved := (List.range 8).filter (fun k => s.ownerOf k != pmapOf val k)
  let emptied (a : Nat) : Bool :=
    (List.range 8).any (fun k => s.ownerOf k == a) && (List.range 8).all (fun k => pmapOf val k != a)
  moved.all (fun k => s.sliceFree (s.ownerOf k) k)
    && (List.range Config.nPart).all (fun a =>
      !emptied a || (List.range 8).all (fun k => s.ownerOf k != a || pmapOf val k == 8))

/-- PMAP_WRITE. -/
def State.writePmap (s : State) (val : Nat) : State :=
  if !s.pmapOk val then { s with dev := { s.dev with pmapErr := true } }
  else
    let moved := (List.range 8).filter (fun k => s.ownerOf k != pmapOf val k)
    let ps := (moved.flatMap (fun k => [s.ownerOf k, pmapOf val k])).eraseDups.filter (fun p => decide (p < Config.nPart))
    let s1 := ps.foldl (fun (s : State) p => (s.sendLines p).flushL2 p) s
    let s2 := ps.foldl (fun (s : State) p => s.setPart p { (s.part p) with mtu := [], ptrs := [] }) s1
    { s2 with
      cores := s2.cores.map (fun c => if moved.contains (sliceOf c.1) then (c.1, { c.2 with l1 := [], kinds := [] }) else c)
      dev := { s2.dev with pmapErr := false, pmap := (List.range 8).map (fun k => (k, pmapBits val k)) } }

/-! Power states (R420, R423). -/

/-- Whether a partition has nothing to do (R423). -/
def State.idleNow (s : State) (p : Nat) : Bool :=
  let x := s.part p
  s.gangs.all (fun e => e.2.launch.part != p || e.2.st == .retired)
    && (s.slotsOf p).all (fun n => !s.slotWork n)
    && s.engs.all (fun e => s.ownerOf (e.1 / 128) != p || (e.2.req.isNone && e.2.cur.isNone && (!e.2.en || e.2.stop || e.2.ridx == e.2.widx)))
    && x.parked.isEmpty && x.parkWait.isEmpty && x.rollup.all (fun e => e.2 == 0)

/-- The deepest state whose exit latency is within LTOL. -/
def powerFor (ltol : Nat) (guar : Bool) : Power :=
  if 1500000 ≤ ltol && !guar then .eclipse else if 40000 ≤ ltol then .umbra else if 1000 ≤ ltol then .dusk else .noon

/-- POWER_STATE_ENTRY. Eclipse turns the cores, the L2 and the MTUs off. -/
def State.powerDown (s : State) (p : Nat) : State :=
  let x := s.part p
  if x.power != .noon || x.idle < 1024 || x.waking || !s.idleNow p then s
  else
    let k := powerFor x.ltol.toNat ((s.slotsOf p).any (fun n => (s.qslot n).en && (s.qslot n).guar))
    let s1 := if k = .eclipse then ((s.sendLines p).flushL2 p).dropL1s p else s
    let y := s1.part p
    s1.setPart p (if k = .eclipse then { y with power := k, mtu := [], ptrs := [] } else { y with power := k })

/-! Register writes (R29, R256, R260, R303, R344, R361, R397, R415 to R417, R424, R426). -/

/-- A ring size: 2^K entries, 4 to 16, or none. -/
def ringSize (v : Nat) : Option Nat := let k := v % 32; if k = 0 || (decide (4 ≤ k) && decide (k ≤ 16)) then some k else none

/-- PLCTL as stored (R29). -/
def Partn.setPlctl (x : Partn) (v : Nat) : Partn :=
  { x with hott := Nat.max 60 (Nat.min 105 (bits v 7 0)), hyst := Nat.max 1 (bits v 11 8), drpen := bit v 12 }

/-- A write of a register of a partition's window that does no more than change its fields; a read-only one keeps them. PRST and
the registers that start something are written by `State.writeTarget`. -/
def Partn.writeReg (x : Partn) (r : PartReg) (v : Nat) : Partn :=
  match r with
  | .plctl => x.setPlctl v
  | .pslice => { x with pslice := v }
  | .ptroot => { x with ptroot := bits v 39 12 * 4096 }
  | .frbase => if x.frk = 0 then { x with frbase := bits v 39 5 * 32 } else x
  | .frk => { x with frk := (ringSize v).getD x.frk }
  | .frr => { x with frr := v % 2 ^ 32 }
  | .sdia => if x.sdbusy then x else { x with sdia := bits v 47 12 * 4096 }
  | .qtbase => { x with qtbase := bits v 39 7 * 128 }
  | .ctbase => if x.ctk = 0 then { x with ctbase := bits v 39 12 * 4096 } else x
  | .imgbase => if x.imgpg = 0 then { x with imgbase := bits v 39 12 * 4096 } else x
  | .imgpg => { x with imgpg := bits v 19 0 }
  | .pctl => { x with pstop := bit v 30 }
  | .ltol => { x with ltol := BitVec.ofNat 32 v }
  | .dbbase => { x with dbbase := bits v 47 12 * 4096 }
  | .hwbase => { x with hwbase := bits v 47 12 * 4096 }
  | .tagbase => if x.pstop then { x with tagbase := bits v 39 12 * 4096 } else x
  | .evbase => if x.evk = 0 then { x with evbase := bits v 39 6 * 64 } else x
  | .evk => { x with evk := (ringSize v).getD x.evk }
  | .evr => { x with evr := v % 2 ^ 32 }
  | .pstate | .frw | .evw | .scyc | .pmeas _ | .pgack | .sdctl | .rply | .qrfr | .ctk | .ctack => x
  | .crgn i => if i < 8 then { x with crgn := Tab.set x.crgn i (BitVec.ofNat 64 (bits v 43 4 * 16 + bits v 0 0)) } else x

/-- A register of a queue slot other than QSCTL (R256). -/
def QSlot.writeReg (x : QSlot) (r : SlotReg) (v : Nat) : QSlot :=
  match r with
  | .qsctl => x
  | .qsper => if !x.en && decide (1024 ≤ v) && decide (v ≤ 2 ^ 31) then { x with period := v } else x
  | .qsbud => if !x.en && decide (1 ≤ v) && decide (v ≤ 2 ^ 31) then { x with budget := v } else x
  | .qsyld => { x with grace := bits v 31 16, ylead := bits v 15 0 }
  | .qsrem | .qsdl | .qsst => x

/-- ECCTL and ECBASE (R303); ECWIDX is written by a kick, and the others are read-only. -/
def EngCtx.writeReg (x : EngCtx) (r : EngReg) (v : Nat) : EngCtx :=
  match r with
  | .ecctl =>
    let y := { x with en := bit v 31, stop := false, err := false }
    if x.en then y else { y with ctx := bits v 27 16, rk := if bits v 3 0 ≤ 12 then bits v 3 0 else x.rk }
  | .ecbase => if x.en then x else { x with base := bits v 47 6 * 64 }
  | .ecwidx | .ecridx | .ecnum | .ectl => x

/-- A neighbour of which nothing is known yet. -/
def Neigh.fresh : Neigh := ⟨false, 0, 0, false⟩

/-- FWCTL_RESTART (R426, R427): a pair that runs or that a mismatch has stopped starts from its verified image; after a failed start
there is none, and the boot goes on; in minimal mode the count is cleared and the boot tried again. -/
def Dev.restart (d : Dev) : Dev :=
  match d.fw with
  | .running | .stopped => { d with fw := .running, ready := false }
  | .failed => d
  | .minimal => { d with fw := .failed, fails := 0, ready := false }

/-- A register of the device window, a route, the registration of a neighbour, or a kick of the watchdog. PMAP is written by
`State.writePmap`. -/
def Dev.writeReg (d : Dev) (r : DevReg) (v : Nat) : Dev :=
  match r with
  | .ctxbase => { d with ctxbase := bits v 39 9 * 512 }
  | .tvbase => { d with tvbase := bits v 39 8 * 256 }
  | .herbase => { d with herbase := bits v 39 5 * 32 }
  | .herk => { d with herk := v % 32 }
  | .herr => { d with herr := v % 2 ^ 32 }
  | .fwctl => let y := { d with wdt := bits v 23 0 }; if bit v 31 then y.restart else y
  | .nodeId => { d with nodeId := v % 256 }
  | .route n => if n < 256 then { d with routes := Tab.set d.routes n v } else d
  | .neighbour n => { d with neigh := Tab.set d.neigh n { (Tab.get Neigh.fresh d.neigh n) with registered := bit v 0 } }
  | .kick => { d with kick := 0 }
  | .pmap | .pmapErr | .herw | .bootrec _ => d

/-- A write of SDCTL (R344): NPG while no shoot-down of firmware runs, and with GO the start of one. -/
def State.writeSdctl (s : State) (p v : Nat) : State :=
  let x := s.part p
  if x.sdbusy then s
  else
    let s1 := s.setPart p { x with sdnpg := bits v 20 0 }
    if bit v 31 then s1.shootStart p (bits v 20 0) else s1

/-- FIRMWARE_REGISTER_WRITE, and the registers whose write starts something (R344, R347, R348, R359, R361, R373). PRST reads 1
until the reset, which is the next event, is done (R416). Firmware writes device memory at physical addresses; one to memory of an
Eclipse partition is held until Noon (R423). -/
def State.writeTarget (s : State) (t : FwTarget) (v : Nat) : State :=
  match t with
  | .part p .pctl =>
    let s1 := s.setPart p ((s.part p).writeReg .pctl v)
    if bit v 31 then { s1.setPart p { (s1.part p) with prst := true } with inbox := .partitionReset p :: s1.inbox } else s1
  | .part p .pgack => s.pgAnswer p (v % 2 ^ 32)
  | .part p .sdctl => s.writeSdctl p v
  | .part p .rply => if bit v 31 then s.replayAll p else s
  | .part p .qrfr => s.refreshQueue p (bits v 15 0)
  | .part p .ctk => s.writeCtk p (v % 32)
  | .part p .ctack => s.ctAckWrite p (BitVec.ofNat 64 v)
  | .part p r => s.setPart p ((s.part p).writeReg r v)
  | .slot n .qsctl => s.writeQsctl n v
  | .slot n r => s.setQslot n ((s.qslot n).writeReg r v)
  | .eng e .ecwidx => s.kick e (v % 2 ^ 32)
  | .eng e r => s.setEng e ((s.eng e).writeReg r v)
  | .dev .pmap => s.writePmap (v % 2 ^ 32)
  | .dev r => { s with dev := s.dev.writeReg r v }
  | .window p i node base len ro =>
    if i < 16 then s.setPart p { (s.part p) with windows := Tab.set (s.part p).windows i ⟨node, base, len, v, ro⟩ } else s
  | .memory pa bs =>
    if 16 * Config.channelBytes < pa + bs.length then s
    else if (List.range bs.length).any (fun k => (s.part (s.ownerOf (channelOf (pa + k) / 2))).power == .eclipse) then
      s.hold (.firmwareRegisterWrite t (BitVec.ofNat 64 v))
    else (s.wrPhys pa bs).learnLeaves

/-! Notify writes (R420). -/

/-- The bytes of a write through BAR0 take their effect: each register takes those written, its others standing as they read. -/
def State.writeCells (s : State) (cells : List (FwTarget × Nat × Byte)) : State :=
  let ts := cells.foldl (fun acc c => if acc.contains c.1 then acc else acc ++ [c.1]) []
  ts.foldl (fun (s : State) t =>
    s.writeTarget t ((cells.filter (fun c => c.1 == t)).foldl (fun v c => setByte v c.2.1 c.2.2) ((s.readTarget t).getD 0))) s

/-- A host write through BAR4 stores the doorbell word that stands at DBBASE + 4q of its partition (R249, R269, R414). Where the
partition has no aperture, or its page is not fit for a write, no word is stored (DESIGN CHOICE: BAR4 reaches the doorbell by its
number). -/
def State.bellWord (s : State) (p q : Nat) (widx : Word) : State :=
  let ia := ((s.part p).dbbase + 4 * q) % 2 ^ 48
  let r := (s.recall p (ia / 128)).xlate p ia
  match r.2 with
  | .leaf l =>
    if (s.part p).dbbase == 0 || r.2.reason true != 0 then s
    else
      let t := r.1.touchLine p (ia / 128) l true
      { t.1 with mem := Mem.writeN t.1.mem (l.frame + ia % 4096) (leBytes 4 widx.toNat) }.bump p t.2 1
  | .stop _ _ _ => s

/-- A write from the fabric at the home slices: acknowledged once all of it has performed (R424). -/
def State.fabWrite (s : State) (p ia : Nat) (bs : List Byte) : State :=
  let r := s.agentWrite p .fabric 0 (spanCells ia bs)
  if r.2.isEmpty then { r.1 with dev := { r.1.dev with fabricReads := r.1.dev.fabricReads ++ [some []] } }
  else { r.1 with dev := { r.1.dev with fabWrites := r.1.dev.fabWrites ++ [(p, r.2)] } }

/-- A write that waited for a partition's Noon takes its effect. -/
def State.applyNotify (s : State) (p : Nat) (w : Notify) : State :=
  match w with
  | .doorbell q x => s.ring q x
  | .bell q x => (s.bellWord p q x).ring q x
  | .win off bs => s.writeCells (s.winCells off bs)
  | .widx e v => s.kick e v.toNat
  | .reg t v => s.writeTarget t v.toNat
  | .mem off bs => s.bellsFirst (s.agentWrite p .host 0 (s.bar2Cells p off bs)).1
  | .fab ia bs => s.bellsFirst (s.fabWrite p ia bs)

/-- Whether a latched write is one of bytes to memory, whose doorbells ring in the events that follow. -/
def Notify.isMem (w : Notify) : Bool :=
  match w with
  | .mem _ _ | .fab _ _ => true
  | .doorbell _ _ | .bell _ _ | .widx _ _ | .reg _ _ | .win _ _ => false

/-- NOTIFY_WRITE: latched while the partition is not in Noon, and the exit to Noon starts. -/
def State.notify (s : State) (p : Nat) (w : Notify) : State :=
  if (s.part p).power = .noon && (s.part p).notifyQ.isEmpty then s.applyNotify p w else s.latch p w (.notifyWrite p w)

/-- Whether an access is one of the scheduler, which shares SRC with the host and fabric. -/
def Parked.bySched (a : Parked) : Bool := match a.op with | .quiet _ => true | _ => false

/-- Whether an access is a write of the host. -/
def Parked.byHost (a : Parked) : Bool := a.agent == .host && !a.bySched

/-- Applies latched writes in their order. After one of bytes to memory the others wait for a later cycle, so that the doorbells in it
ring first, and while a write of the host has not performed they wait for it (R414, R420). -/
def State.applyLatched (s : State) (p : Nat) : List Notify → State
  | [] => s
  | w :: ws =>
    let rest (s : State) (ws : List Notify) : State :=
      if ws.isEmpty then s else s.setPart p { (s.part p) with notifyQ := ws ++ (s.part p).notifyQ, waking := true }
    if (s.pendingAccs p).any Parked.byHost then rest s (w :: ws)
    else if Notify.isMem w then rest (s.applyNotify p w) ws
    else (s.applyNotify p w).applyLatched p ws

/-- WAKE_TO_NOON: the latched writes are applied in their order. -/
def State.wake (s : State) (p : Nat) : State :=
  let x := s.part p
  (s.setPart p { x with power := .noon, waking := false, idle := 0, notifyQ := [] }).applyLatched p x.notifyQ

/-- PARTITION_RESET: the partition is then in Noon, and what the Lantern has latched is applied before any later write (R420,
R422). -/
def State.resetAndWake (s : State) (p : Nat) : State := (s.resetPart p).wake p

/-- Brings every partition to Noon and applies what the Lantern has latched. -/
def State.wakeAll (s : State) : State := (List.range Config.nPart).foldl (fun (s : State) p => s.wake p) s

/-- Clears the compression tags in the tag area of a partition (R182, R416). A TAGBASE of 0 names no area (DESIGN CHOICE). -/
def State.clearTags (s : State) (base channels : Nat) : State :=
  if base = 0 then s
  else { s with mem := s.mem.filter (fun c => decide (c.1 < base) || decide (base + channels * (12 * 2 ^ 20) ≤ c.1)) }

/-- Whether an access that is held is a notify write, which is never dropped (R420). -/
def isNotify (e : Instr) : Bool :=
  match e with
  | .notifyWrite _ _ | .doorbellWrite _ _ | .widxWrite _ _ => true
  | _ => false

/-- DEVICE_RESET: every partition, core and cluster, every compression tag, the link and the fabric; the Lantern, Cairn and the
rest of device memory stay (R182, R422). Every CCYC is 0 after it (R393). -/
def State.resetDevice (s : State) : State :=
  let s1 := (List.range Config.nPart).foldl (fun (s : State) p => s.resetPart p) s
  let s2 := (Tab.keys s1.cores).foldl (fun (s : State) c => s.resetCore c) { s1 with clock := [] }
  let s3 := (Tab.keys s2.clusters).foldl (fun (s : State) c => s.resetCluster c) s2
  let d := s3.dev
  let s4 := (List.range Config.nPart).foldl (fun (t : State) p =>
    t.clearTags (s.part p).tagbase (2 * ((List.range 8).filter (fun k => s.ownerOf k == p)).length)) s3
  State.wakeAll { s4 with
    parts := s3.parts.map (fun e => (e.1, { e.2 with windows := [] }))
    stores := []
    remotes := []
    sram := []
    dev := { Dev.reset with
      herq := d.herq, hostMem := d.hostMem, fw := d.fw, fails := d.fails, ready := d.ready, bootrec := d.bootrec, ms := d.ms
      beacon := d.beacon, kick := d.kick, neigh := d.neigh, accepted := d.accepted, held := d.held.filter isNotify
      sentResets := d.sentResets, manifests := d.manifests, fwDigest := d.fwDigest, corrected := d.corrected, reports := d.reports } }

/-! Accesses from the host and the fabric (R414, R424). -/

/-- An access from outside that reads bytes of a partition reaches their lines at the home slices; what it has reached when it was held
before stands in `Dev.arrived` (R170). -/
def State.reachExt (s : State) (p : Nat) (e : Instr) (ia n : Nat) : State × List (Nat × Nat) :=
  let lines := linesOf ((List.range n).map (fun k => ((ia + k) % 2 ^ 48, 0)))
  s.reachLines p (((s.dev.arrived.find? (fun a => a.1 == e)).map (·.2)).getD []) lines

/-- Holds an access from outside that has reached lines. -/
def State.holdReached (s : State) (e : Instr) (reached : List (Nat × Nat)) : State :=
  { s with dev := { s.dev with held := s.dev.held ++ [e], arrived := (e, reached) :: s.dev.arrived.filter (fun a => a.1 != e) } }

/-- An access from outside waits no more. -/
def State.dropReached (s : State) (e : Instr) : State :=
  { s with dev := { s.dev with arrived := s.dev.arrived.filter (fun a => a.1 != e) } }

/-- Reads bytes at the home slices, which have been reached: unfit and uncorrectable ones are free values. -/
def State.extRead (s : State) (p ia n : Nat) : State × List Byte :=
  let ias := (List.range n).map (fun k => (ia + k) % 2 ^ 48)
  let r := (linesOf (ias.map (fun a => (a, 0)))).foldl (fun (acc : State × Tab LineRead) ln =>
    let mine := ias.filter (fun a => a / 128 == ln)
    let low := lowIa (mine.map (fun a => (a, 0)))
    let q := acc.1.homeServe p low
    match q.2.2 with
    | some d =>
      (match mine.find? (fun a => d.bad.getD (a % 128) false) with
        | some a => q.1.dramError p 0 a
        | none => q.1, acc.2 ++ [(ln, d)])
    | none => (q.1.walkError p Agent.host.src 0 low q.2.1, acc.2)) (s, [])
  (r.1.tick, ias.map (fun a =>
    match Tab.find r.2 (a / 128) with
    | some d => if d.bad.getD (a % 128) false then Config.openByte (s.fresh + a) else d.data.getD (a % 128) 0
    | none => Config.openByte (s.fresh + a)))

/-- Whether an access to bytes of a partition waits: for Noon, or for a shoot-down that covers them. -/
def State.extHeld (s : State) (p ia n : Nat) : Bool :=
  let x := s.part p
  x.power == .eclipse || (List.range ((n + 4095) / 4096 + 1)).any (fun k => x.held ((ia + 4096 * k) % 2 ^ 48) || x.held ((ia + n - 1) % 2 ^ 48))

/-- Whether an access that is held is a write of the host, or a notify write whose link credit is withheld (R420). -/
def isHostWrite (e : Instr) : Bool :=
  match e with
  | .hostBar2Access _ _ (.write _) | .hostBar2Access _ _ (.winWrite _) | .hostBar2Access _ _ (.bellWrite _) => true
  | _ => isNotify e

/-- Whether an access that is held is a read of the host. -/
def isHostRead (e : Instr) : Bool :=
  match e with
  | .hostBar2Access _ _ (.read _) | .hostBar2Access _ _ (.winRead _) | .hostBar2Access _ _ (.bellRead _) => true
  | _ => false

/-- Whether an earlier write of the host has not performed that the Lantern has not latched: it is held, or parked (R414, R420). -/
def State.hostOwes (s : State) : Bool :=
  s.dev.held.any isHostWrite || s.parts.any (fun x => (x.2.parked ++ x.2.parkWait).any Parked.byHost)
    || s.stores.any (fun h => h.acc.byHost)

/-- Whether writes wait for the Noon of a partition other than the one that `ps` names alone. -/
def State.latchedBeyond (s : State) (ps : List Nat) : Bool := s.parts.any (fun x => !x.2.notifyQ.isEmpty && ps != [x.1])

/-- Whether a write of the host to the partitions `ps` waits, so that host writes perform in their order (R414): behind one that is
held or parked, or latched for another partition. -/
def State.hostWaits (s : State) (ps : List Nat) : Bool := s.hostOwes || s.latchedBeyond ps

/-- Whether a read of the host waits: for every earlier write, latched ones among them, and behind the reads that wait (R414). -/
def State.hostBusy (s : State) : Bool := s.hostWaits [] || s.dev.held.any isHostRead

/-- The exit to Noon starts (R420). -/
def State.startWake (s : State) (ps : List Nat) : State :=
  ps.foldl (fun (s : State) p =>
    if (s.part p).power = .noon then s else s.setPart p { (s.part p) with waking := true }) s

/-- Gives the host the bytes it reads. -/
def State.hostReply (s : State) (bs : List Byte) : State := { s with dev := { s.dev with hostReads := s.dev.hostReads ++ [bs] } }

/-- A host read through BAR2 (R414): offset `off` of part p reaches IA HWBASE + off. -/
def State.bar2Read (s : State) (p off n : Nat) : State :=
  let ia := ((s.part p).hwbase + off) % 2 ^ 48
  let e : Instr := .hostBar2Access p off (.read n)
  if n = 0 || decide (2 ^ 36 < off + n) then s
  else if s.hostBusy || (s.part p).power == .eclipse then s.hold e
  else
    let u := s.reachExt p e ia n
    if u.2.any (u.1.lineWaits p) then u.1.holdReached e u.2
    else
      let r := (u.1.dropReached e).extRead p ia n
      r.1.hostReply r.2

/-- A host write through BAR2 (R414). One to the doorbell aperture of a partition that is not in Noon is a notify write. It, one to a
partition in Eclipse, and one behind writes that the Lantern has latched for the partition take their place among those, where there
is room (R420, R423). -/
def State.bar2Write (s : State) (p off : Nat) (bs : List Byte) : State :=
  let x := s.part p
  let ia := (x.hwbase + off) % 2 ^ 48
  let e : Instr := .hostBar2Access p off (.write bs)
  if bs.length = 0 || decide (2 ^ 36 < off + bs.length) then s
  else
    let bell := x.power != .noon && x.inAperture ia bs.length
    if s.hostWaits [p] then (if bell then (s.hold e).startWake [p] else s.hold e)
    else if bell then s.latch p (.mem off bs) e
    else if x.power == .eclipse || !x.notifyQ.isEmpty then
      if x.notifyQ.length < Config.notifyRoom then s.setPart p { x with notifyQ := x.notifyQ ++ [.mem off bs] } else s.hold e
    else if s.extHeld p ia bs.length then s.hold e
    else s.bellsFirst (s.agentWrite p .host 0 (s.bar2Cells p off bs)).1

/-- Sends a reply to the fabric, or the refusal of an access. -/
def State.answer (s : State) (bs : Option (List Byte)) : State :=
  { s with dev := { s.dev with fabricReads := s.dev.fabricReads ++ [bs] } }

/-- An atomic from the fabric at the home slice; one that parks or is held gives its reply when it performs. -/
def State.fabAtomic (s : State) (p ia n : Nat) (op : ParkOp) : State :=
  let r := s.atomic p .fabric 0 ia op
  match r.2 with
  | .inl x => (if x.bad then r.1.dramError p 0 ia else r.1).fabReply n x
  | .inr _ => r.1

/-- Acknowledges the writes from the fabric that have performed since. -/
def State.fabAcks (s : State) : State :=
  let due (e : Nat × List Nat) : Bool := (s.outstanding e.1 e.2).isEmpty
  { s with dev := { s.dev with
      fabWrites := s.dev.fabWrites.filter (fun e => !due e)
      fabricReads := s.dev.fabricReads ++ (s.dev.fabWrites.filter due).map (fun _ => some []) } }

/-- The bytes of an access from the fabric, and whether it writes. -/
def FabAccess.size (a : FabAccess) : Nat × Bool :=
  match a with
  | .read k => (k, false)
  | .write bs => (bs.length, true)
  | .atomic _ ty _ => (typeBytes ty, true)
  | .cas ty _ _ => (typeBytes ty, true)

/-- INCOMING_REMOTE_ACCESS: it performs at the home slice, and an idle partition starts its way to Noon; the requester learns of
one that every window refuses. A write to the doorbell aperture of a partition that is not in Noon is a notify write (R420). -/
def State.incoming (s : State) (p node ia : Nat) (a : FabAccess) : State :=
  let x := s.part p
  let n := (FabAccess.size a).1
  match x.import node ia n (FabAccess.size a).2 with
  | none => s.answer none
  | some ia' =>
    let s1 := if x.power = .noon then s else s.setPart p { x with waking := true }
    let e : Instr := .incomingRemoteAccess p node ia a
    if n = 0 then s1.answer (some [])
    else
      match a with
      | .read k =>
        if x.power == .eclipse then s1.hold e
        else
          let u := s1.reachExt p e ia' k
          if u.2.any (u.1.lineWaits p) then u.1.holdReached e u.2
          else
            let r := (u.1.dropReached e).extRead p ia' k
            r.1.answer (some r.2)
      | .write bs =>
        if x.inAperture ia' n && (x.power != .noon || !x.notifyQ.isEmpty) then s1.latch p (.fab ia' bs) e
        else if s1.extHeld p ia' n then s1.hold e
        else s1.fabWrite p ia' bs
      | .atomic op ty z => if s1.extHeld p ia' n then s1.hold e else s1.fabAtomic p ia' n (.atomic op ty 32 z)
      | .cas ty cmp new => if s1.extHeld p ia' n then s1.hold e else s1.fabAtomic p ia' n (.cas ty 32 cmp new)

/-- Whether a wave stands at a TKWAIT. -/
def Wave.ticketWait (w : Wave) : Bool := match w.wait with | .tkwait _ _ => true | _ => false

/-- REMOTE_ACCESS_TIMEOUT (R424): the class 8 record; a load or a returning atomic fails, a store or a RED latches. Bytes that a COPY
has asked for are lost to it, and the read of a TKWAIT fails at that instruction. -/
def State.remoteFail (s : State) (n : Nat) : State :=
  match s.remotes.find? (fun r => r.id == n) with
  | none => s
  | some r =>
    let place := match s.stream? r.wave with
      | some w => (w.place.part, w.place.ctx)
      | none => match s.gang? r.wave.gang with | some g => (g.launch.part, g.launch.ctx) | none => (0, 0)
    let s1 := ({ s with remotes := s.remotes.filter (fun y => y.id != n) }).hostError 8 place.1 (.link r.node) place.2 r.ia 1
    match r.entry with
    | some e => s1.onStream r.wave (fun w => w.mapEntries (fun y => if y.id == e then (y.markBad r.lane r.va).unwait n else y))
    | none =>
      if !r.bytes.isEmpty then
        s1.onStream r.wave (fun w =>
          { w with errs := w.errs ++ [⟨true, .dataerr, BitVec.ofNat 64 r.va, r.path, r.word, r.pc, r.rel⟩] })
      else
        (s1.onGrp r.wave.gang r.wave.group (fun y => { y with copyq := y.copyq.map (fun c =>
          if c.waits.contains n then { c with lost := c.lost ++ [r.va] } else c) })).onStream r.wave (fun w =>
            if w.ticketWait && w.pcNow == r.pc then
              { w with errs := w.errs ++ [⟨false, .dataerr, BitVec.ofNat 64 r.va, none, r.word, r.pc, false⟩] }
            else w)

/-! Beacons and reset messages (R424, R425). -/

/-- Changes what is known of a neighbour. -/
def Dev.onNeigh (d : Dev) (nb : Nat) (f : Neigh → Neigh) : Dev :=
  { d with neigh := Tab.set d.neigh nb (f (Tab.get Neigh.fresh d.neigh nb)) }

/-- Whether the watchdog has counted WDT ms without a kick (R426). It is off while WDT is 0, and in minimal mode. -/
def Dev.barks (d : Dev) : Bool := d.wdt != 0 && d.fw != .minimal && decide (d.wdt ≤ d.kick)

/-- A millisecond of the Lantern's oscillator: its beacon goes out, and the watchdog counts. -/
def Dev.beat (d : Dev) : Dev :=
  { d with
    ms := d.ms + 1, beacon := d.beacon + 1, kick := d.kick + 1, neigh := d.neigh.map (fun e => (e.1, { e.2 with heard := false }))
    accepted := d.accepted.filter (fun e => decide (d.ms + 1 ≤ e.2 + 16)) }

/-- BEACON_SEND: each neighbour from which no beacon has arrived in the period that ends has missed one (R424), and a watchdog
that has counted its period fires (R426). -/
def State.beat (s : State) : State :=
  let d := s.dev.beat
  { s with
    dev := d
    inbox := s.inbox ++ (s.dev.neigh.filter (fun e => !e.2.heard)).map (fun e => .beaconMissed e.1)
      ++ (if d.barks then [.watchdogExpiry] else []) }

/-- BEACON_RECEIVED. -/
def Dev.heard (d : Dev) (nb n : Nat) : Dev := d.onNeigh nb (fun x => { x with missed := 0, last := n, heard := true })

/-- The header of a reset message (R425). Its layout is open (DESIGN CHOICE: the fields in the order in which R425 names them). -/
def resetHeader (node sender last nonce : Nat) : List Byte :=
  leBytes 1 node ++ leBytes 1 sender ++ leBytes 8 last ++ leBytes 54 nonce

/-- BEACON_MISSED: the third in a row sends a signed reset message with the number last heard, over the fabric and the
management network alike. The nonce is open. -/
def State.miss (s : State) (nb : Nat) : State :=
  let x := Tab.get Neigh.fresh s.dev.neigh nb
  let d := s.dev.onNeigh nb (fun x => { x with missed := x.missed + 1 })
  let header := resetHeader nb d.nodeId x.last (leNat (openBytes s.fresh 54))
  if x.missed = 2 then { s.tick with dev := { d with sentResets := d.sentResets ++ [(nb, header ++ Config.signature header)] } }
  else { s with dev := d }

/-- Whether a reset message is accepted. -/
def Dev.accepts (d : Dev) (node sender last nonce : Nat) (sig : List Byte) : Bool :=
  node == d.nodeId && (Tab.get Neigh.fresh d.neigh sender).registered
    && Config.signatureOk sender (resetHeader node sender last nonce ++ sig)
    && decide (last ≤ d.beacon) && decide (d.beacon < last + 8)

/-- Whether accepted messages of more than half of the neighbours that are registered lie within 16 ms; one of a neighbour that is
registered no more counts for nothing. -/
def Dev.quorum (d : Dev) : Bool :=
  let known (n : Nat) : Bool := (Tab.get Neigh.fresh d.neigh n).registered
  decide ((d.neigh.filter (fun e => e.2.registered)).length
    < 2 * (d.accepted.filter (fun e => known e.1 && decide (d.ms ≤ e.2 + 16))).length)

/-- RESET_MESSAGE. -/
def State.resetAsked (s : State) (node sender last nonce : Nat) (sig : List Byte) : State :=
  let d := s.dev
  if !d.accepts node sender last nonce sig then s
  else
    let d1 := { d with accepted := d.accepted.filter (fun e => e.1 != sender) ++ [(sender, d.ms)] }
    let s1 := { s with dev := d1 }
    if d1.quorum then s1.resetDevice else s1

/-! Errors and the firmware complex (R419, R426, R427). -/

/-- CORRECTED_ERROR_REPORT: the error is counted, and at most one record is posted per unit in 2^20 of its cycles. -/
def State.corrected (s : State) (unit : Nat) (dram : Bool) : State :=
  let x := Tab.get ⟨0, 0, 0⟩ s.dev.corrected unit
  let y := if dram then { x with dram := x.dram + 1 } else { x with sram := x.sram + 1 }
  let put (v : CorrCount) : State := { s with dev := { s.dev with corrected := Tab.set s.dev.corrected unit v } }
  if x.quiet = 0 then
    (put (if dram then { y with dram := 0, quiet := 2 ^ 20 } else { y with sram := 0, quiet := 2 ^ 20 })).tick.hostError
      (if dram then 2 else 1) ((Config.openByte unit).toNat % 8) (.counted unit) 0 (Config.errorAddress s.fresh).toNat
      (if dram then y.dram else y.sram)
  else put y

/-- LOCKSTEP_MISMATCH: the pair stops. A record of the whole device is charged to partition 0. -/
def State.mismatch (s : State) : State :=
  if s.dev.fw = .running then ({ s with dev := { s.dev with fw := .stopped, ready := false } }).hostError 6 0 .lockStep 0 0 1 else s

/-- WATCHDOG_EXPIRY: the firmware complex restarts from its verified image; a pair that a mismatch stopped waits for
RESTART. -/
def State.watchdog (s : State) : State :=
  if s.dev.wdt = 0 || s.dev.fw = .minimal then s
  else ({ s with dev := { s.dev with ready := false, kick := 0 } }).hostError 7 0 .watchdog 0 0 1

/-- The boot-failure record (R427). -/
def bootRecord (stage cause tries detail : Nat) : List Byte :=
  leBytes 1 stage ++ leBytes 1 cause ++ leBytes 1 tries ++ leBytes 5 0 ++ leBytes 8 detail ++ List.replicate 16 0

/-- The stage at which a start fails, or 0: the ROM, the fetch, the verification, or one of the three later stages. -/
def bootStage (image sig : List Byte) (failStage : Nat) : Nat :=
  if failStage = 1 || failStage = 2 then failStage
  else if !Config.signatureOk 256 (image ++ sig) then 3
  else if failStage ≤ 6 then failStage else 0

/-- BOOT. A pair that a mismatch has stopped waits for RESTART (R426). -/
def State.boot (s : State) (image sig : List Byte) (failStage : Nat) : State :=
  let d := s.dev
  let stage := bootStage image sig failStage
  if d.fw = .minimal || d.fw = .stopped then s
  else if stage = 0 then { s with dev := { d with fw := .running, ready := false, fwDigest := shake256 image } }
  else
    let n := d.fails + 1
    if n < 3 then { s with dev := { d with fw := .failed, ready := false, fails := n } }
    else
      { s.tick with dev := { d with
          fw := .minimal, ready := false, fails := n
          bootrec := bootRecord stage (Config.openByte s.fresh).toNat n (Config.bootDetail s.fresh).toNat } }

/-- FIRMWARE_READY. -/
def Dev.nowReady (d : Dev) : Dev := if d.fw = .running then { d with ready := true, fails := 0 } else d

/-- CAIRN_INSTALL (R176): only after the model manifest has been verified. -/
def State.install (s : State) (off : Nat) (bytes manifest sig : List Byte) : State :=
  if Config.signatureOk 257 (manifest ++ sig) && decide (off + bytes.length ≤ 2 ^ 40) then
    let m := shake256 manifest
    { s with
      cairn := Mem.writeN s.cairn off bytes
      dev := { s.dev with manifests := s.dev.manifests.filter (fun x => x != m) ++ [m] } }
  else s

/-- PMEAS_EXTEND. -/
def State.extend (s : State) (p : Nat) (digest : List Byte) : State :=
  let x := s.part p
  s.setPart p { x with pmeas := shake256 (x.pmeas ++ padTo 64 digest) }

/-- The body of an attestation report: nonce, device ID, firmware measurement, manifests, partition, PMAP, PMEAS. -/
def State.reportBody (s : State) (p : Nat) (nonce : List Byte) : List Byte :=
  padTo 32 nonce ++ openBytes 0 32 ++ s.dev.fwDigest ++ s.dev.manifests.flatten ++ leBytes 1 p
    ++ leBytes 8 (s.dev.pmapVal + b2n s.dev.pmapErr * 2 ^ 32) ++ (s.part p).pmeas

/-- ATTESTATION_REPORT. -/
def State.attest (s : State) (p : Nat) (nonce : List Byte) : State :=
  let b := s.reportBody p nonce
  { s with dev := { s.dev with reports := s.dev.reports ++ [b ++ Config.signature b] } }

/-! Teardown of a context (R278, R335, R379, R399). -/

/-- What a cluster holds for a context. -/
def Cluster.dropCtx (c : Cluster) (ctx : Nat) : Cluster :=
  let gone := (c.bins.filter (fun b => b.2.ctx == ctx)).map (·.1)
  Cluster.unseal { c with
    intake := c.intake.filter (fun x => x.ctx != ctx)
    bins := c.bins.filter (fun b => b.2.ctx != ctx)
    sealOrder := c.sealOrder.filter (fun b => !gone.contains b)
    runq := c.runq.filter (fun t => t.ctx != ctx)
    cache := c.cache.filter (fun x => x.ctx != ctx)
    draws := c.draws.filter (fun d => d.ctx != ctx)
    grids := c.grids.filter (fun g => g.2.ctx != ctx)
    nodes := c.nodes.filter (fun n => n.ctx != ctx) }

/-- CONTEXT_TEARDOWN: its waves end, its gangs leave, and the units drop what they hold for it. Its nodes stay. -/
def State.teardown (s : State) (ctx : Nat) : State :=
  let ws := s.streams.filter (fun w => w.place.ctx == ctx)
  let s1 := ws.foldl (fun (s : State) (w : Wave) => ((s.releaseParts w.id).unlend w).withdraw w.core w.id) s
  let s2 := (s1.dropStreams (fun w => w.place.ctx == ctx)).dropGangs (fun g => g.launch.ctx == ctx)
  let mine (id : WaveId) : Bool := ws.any (fun w => w.id == id)
  { s2 with
    queues := s2.queues.filter (fun q => q.2.ctx != ctx)
    slots := s2.slots.map (fun e =>
      (e.1, match e.2.mapped with
        | some q => if (s.queue q).ctx == ctx && !e.2.guar then { e.2 with mapped := none, yreq := false } else e.2
        | none => e.2))
    clusters := s2.clusters.map (fun c => (c.1, c.2.dropCtx ctx))
    engs := s2.engs.map (fun e => (e.1, { e.2 with watch := e.2.watch.filter (fun k => !mine k.wave) }))
    parts := s2.parts.map (fun e => (e.1, { e.2 with
      pgreqs := e.2.pgreqs.filter (fun r => r.ctx != ctx)
      pgwaits := e.2.pgwaits.filter (fun g => !mine g.wave)
      rr := e.2.rr.filter (fun q => (s.queue q).ctx != ctx) })) }

def execNotifyWrite (p : Nat) (w : Notify) (s : State) : Out := .next (s.notify p w)
def execWakeToNoon (p : Nat) (s : State) : Out := .next (s.wake p)
def execPowerStateEntry (p : Nat) (s : State) : Out := .next (s.powerDown p)
def execPartitionReset (p : Nat) (s : State) : Out := .next (s.resetAndWake p)
def execDeviceReset (s : State) : Out := .next s.resetDevice
def execCoreReset (core : Nat) (s : State) : Out := .next (s.resetCore core)
def execPmapWrite (val : BitVec 32) (s : State) : Out := .next (s.fwWrite (.pmapWrite val) (fun s => s.writePmap val.toNat))
def execRemoteAccessTimeout (n : Nat) (s : State) : Out := .next (s.remoteFail n)
def execBeaconSend (s : State) : Out := .next s.beat
def execBeaconMissed (nb : Nat) (s : State) : Out := .next (s.miss nb)
def execResetMessage (node sender lastBeacon nonce : Nat) (sig : List Byte) (s : State) : Out :=
  .next (s.resetAsked node sender lastBeacon nonce sig)
def execCorrectedErrorReport (unit : Nat) (dram : Bool) (s : State) : Out := .next (s.corrected unit dram)
def execLockstepMismatch (s : State) : Out := .next s.mismatch
def execWatchdogExpiry (s : State) : Out := .next s.watchdog
def execFwctlRestart (s : State) : Out := .next { s with dev := s.dev.restart }
def execBoot (image sig : List Byte) (failStage : Nat) (s : State) : Out := .next (s.boot image sig failStage)
def execCairnInstall (off : Nat) (bytes manifest sig : List Byte) (s : State) : Out := .next (s.install off bytes manifest sig)
def execFirmwareRegisterWrite (t : FwTarget) (val : BitVec 64) (s : State) : Out :=
  .next (match t with
    | .memory _ _ => s.writeTarget t val.toNat
    | _ => s.fwWrite (.firmwareRegisterWrite t val) (fun s => s.writeTarget t val.toNat))
def execIncomingRemoteAccess (p node ia : Nat) (acc : FabAccess) (s : State) : Out := .next (s.incoming p node ia acc)
def execBeaconReceived (nb n : Nat) (s : State) : Out := .next { s with dev := s.dev.heard nb n }
def execContextTeardown (ctx : Nat) (s : State) : Out := .next (s.teardown ctx)
def execClusterReset (cl : Nat) (s : State) : Out := .next (s.resetCluster cl)
def execFirmwareReady (s : State) : Out := .next { s with dev := s.dev.nowReady }
def execPmeasExtend (p : Nat) (digest : List Byte) (s : State) : Out := .next (s.extend p digest)
def execAttestationReport (p : Nat) (nonce : List Byte) (s : State) : Out := .next (s.attest p nonce)

end Sys2Proof.Machine
end

