-- ==== Sys2Proof/Machine/Windows.lean ====
section
/-! DEFINITION. The accesses of the host through its BARs (R6, R414 to R417, R420). -/

namespace Sys2Proof.Machine

/-! Accesses of the host (R414). -/

/-- How many bytes of a register that cannot be read are a write-only field; those above are reserved (R344, R361). -/
def writeOnlyBytes (t : FwTarget) : Nat :=
  match t with
  | .part _ .qrfr => 2
  | .part _ .ctack => 7
  | _ => 8

/-- A byte read through BAR0: 0 where no register stands or its bits are reserved (R6), open where it is write-only. -/
def State.winByte (s : State) (off : Nat) : Byte :=
  match s.winAt off with
  | none => 0
  | some t =>
    match s.readTarget t.1 with
    | some v => BitVec.ofNat 8 (v / 256 ^ t.2)
    | none => if t.2 < writeOnlyBytes t.1 then Config.openByte (s.fresh + off) else 0

/-- A write through BAR0: the registers of the device take its bytes, and to the window of a partition, whatever stands there, it is a
notify write of its own (R415, R420). -/
def State.winWrite (s : State) (off : Nat) (bs : List Byte) : State :=
  (winParts off bs.length).foldl
    (fun (s : State) p => s.notify p (.win (winPiece off bs p).1 (winPiece off bs p).2))
    (s.writeCells (s.winCells off (bs.take (0x1000000 - off))))

/-- The doorbell words that a write through BAR4 covers, each by its offset in the bytes written. -/
def bellWords (off n : Nat) : List Nat :=
  (List.range n).filter (fun k => (off + k) % 4 == 0 && decide (k + 4 ≤ n) && decide (off + k < 262144))

/-- The partitions whose doorbells a write through BAR4 rings. -/
def State.bellParts (s : State) (off n : Nat) : List Nat := ((bellWords off n).map (fun k => s.queuePart ((off + k) / 4))).eraseDups

/-- A write through BAR4: the doorbell of every word that it covers. -/
def State.bellWrite (s : State) (off : Nat) (bs : List Byte) : State :=
  (bellWords off bs.length).foldl (fun (s : State) k =>
    let q := (off + k) / 4
    s.notify (s.queuePart q) (.bell q (BitVec.ofNat 32 (leNat ((bs.drop k).take 4))))) s

/-- Whether a doorbell word that a write through BAR4 stores stands under a shoot-down, or behind a merge (R170, R349). -/
def State.bellHeld (s : State) (off n : Nat) : Bool :=
  (bellWords off n).any (fun k =>
    let q := (off + k) / 4
    let p := s.queuePart q
    (s.part p).power == .noon && (s.part p).dbbase != 0 && s.readHeld p (((s.part p).dbbase + 4 * q) % 2 ^ 48))

/-- The pieces of a read through BAR4, one for each doorbell word that it meets: the queue, and the first byte of the piece and its
length within that word. -/
def bellPieces (off n : Nat) : List (Nat × Nat × Nat) :=
  ((List.range n).map (fun k => (off + k) / 4)).eraseDups.map (fun q =>
    (q, Nat.max off (4 * q) - 4 * q, Nat.min (off + n) (4 * q + 4) - Nat.max off (4 * q)))

/-- Whether a read through BAR4 meets a partition in Eclipse, a shoot-down, or a merge (R170, R349, R423). -/
def State.bellBusy (s : State) (off n : Nat) : Bool :=
  (bellPieces off n).any (fun e =>
    let x := s.part (s.queuePart e.1)
    x.dbbase != 0 && (x.power == .eclipse || s.readHeld (s.queuePart e.1) ((x.dbbase + 4 * e.1) % 2 ^ 48)))

/-- A read through BAR4 gives the bytes of the doorbell words at DBBASE + 4q of their partitions (R249, R414). Where the partition has no
aperture they are open (DESIGN CHOICE: BAR4 reaches the doorbell by its number). -/
def State.bellRead (s : State) (off n : Nat) : State :=
  let r := (bellPieces off n).foldl (fun (acc : State × List Byte) e =>
    let p := acc.1.queuePart e.1
    let ia := ((acc.1.part p).dbbase + 4 * e.1 + e.2.1) % 2 ^ 48
    let t := acc.1.recall p (ia / 128)
    let u : State × List Byte :=
      if (acc.1.part p).dbbase = 0 then (acc.1.tick, openBytes acc.1.fresh e.2.2) else t.extRead p ia e.2.2
    (u.1, acc.2 ++ u.2)) (s, [])
  r.1.hostReply r.2

/-- A write of the host to registers or doorbells of the partitions `ps`: where it must wait for an earlier one, the exit of each of
them to Noon starts even so (R420). -/
def State.hostWrite (s : State) (e : Instr) (ps : List Nat) (go : State → State) : State :=
  if s.hostWaits ps then (s.hold e).startWake ps else go s

/-- HOST_BAR2_ACCESS and the accesses through the other BARs, in the order in which the link delivers them. -/
def State.hostAccess (s : State) (p off : Nat) (a : HostAccess) : State :=
  match a with
  | .read n => s.bar2Read p off n
  | .write bs => s.bar2Write p off bs
  | .winRead n =>
    if s.hostBusy then s.hold (.hostBar2Access p off a) else (s.hostReply ((List.range n).map (fun k => s.winByte (off + k)))).tick
  | .bellRead n => if s.hostBusy || s.bellBusy off n then s.hold (.hostBar2Access p off a) else s.bellRead off n
  | .winWrite bs => s.hostWrite (.hostBar2Access p off a) (winParts off bs.length) (fun s => s.winWrite off bs)
  | .bellWrite bs =>
    s.hostWrite (.hostBar2Access p off a) (s.bellParts off bs.length) (fun s =>
      if s.bellHeld off bs.length then s.hold (.hostBar2Access p off a) else s.bellWrite off bs)

def execHostBar2Access (p off : Nat) (acc : HostAccess) (s : State) : Out := .next (s.hostAccess p off acc)

end Sys2Proof.Machine
end

