-- ==== Sys2Proof/Machine/Dispatch.lean ====
section
/-! DEFINITION. One arm per instruction or event: a direct call of its meaning. -/

namespace Sys2Proof.Machine

def exec (i : Instr) (s : State) : Host.Outcome State Fault Refusal :=
  match i with
  | .nop h => Sys2Proof.Machine.execNop h s
  | .bra h off => Sys2Proof.Machine.execBra h off s
  | .braCond h c off nz => Sys2Proof.Machine.execBraCond h c off nz s
  | .brv h a off w => Sys2Proof.Machine.execBrv h a off w s
  | .bru h a off inv => Sys2Proof.Machine.execBru h a off inv s
  | .bruReg h a => Sys2Proof.Machine.execBruReg h a s
  | .call h d off => Sys2Proof.Machine.execCall h d off s
  | .ret h a => Sys2Proof.Machine.execRet h a s
  | .jmpi h a b => Sys2Proof.Machine.execJmpi h a b s
  | .vmask h d a inv => Sys2Proof.Machine.execVmask h d a inv s
  | .bar h sc => Sys2Proof.Machine.execBar h sc s
  | .yield h => Sys2Proof.Machine.execYield h s
  | .halt h => Sys2Proof.Machine.execHalt h s
  | .add o => Sys2Proof.Machine.execAdd o s
  | .sub o => Sys2Proof.Machine.execSub o s
  | .mul o => Sys2Proof.Machine.execMul o s
  | .mulhi o => Sys2Proof.Machine.execMulhi o s
  | .mad o => Sys2Proof.Machine.execMad o s
  | .div o => Sys2Proof.Machine.execDiv o s
  | .rem o => Sys2Proof.Machine.execRem o s
  | .min o => Sys2Proof.Machine.execMin o s
  | .max o => Sys2Proof.Machine.execMax o s
  | .abs o => Sys2Proof.Machine.execAbs o s
  | .neg o => Sys2Proof.Machine.execNeg o s
  | .addsat o sub => Sys2Proof.Machine.execAddsat o sub s
  | .and o => Sys2Proof.Machine.execAnd o s
  | .or o => Sys2Proof.Machine.execOr o s
  | .xor o => Sys2Proof.Machine.execXor o s
  | .andn o => Sys2Proof.Machine.execAndn o s
  | .not o => Sys2Proof.Machine.execNot o s
  | .shl o => Sys2Proof.Machine.execShl o s
  | .shr o => Sys2Proof.Machine.execShr o s
  | .sar o => Sys2Proof.Machine.execSar o s
  | .rot o right => Sys2Proof.Machine.execRot o right s
  | .bfe o sign => Sys2Proof.Machine.execBfe o sign s
  | .bfi o => Sys2Proof.Machine.execBfi o s
  | .popc o => Sys2Proof.Machine.execPopc o s
  | .clz o => Sys2Proof.Machine.execClz o s
  | .ctz o => Sys2Proof.Machine.execCtz o s
  | .brev o => Sys2Proof.Machine.execBrev o s
  | .pfxpop o => Sys2Proof.Machine.execPfxpop o s
  | .isect o => Sys2Proof.Machine.execIsect o s
  | .bclr o low => Sys2Proof.Machine.execBclr o low s
  | .dot4 o mix => Sys2Proof.Machine.execDot4 o mix s
  | .cmp o r => Sys2Proof.Machine.execCmp o r s
  | .sel o c => Sys2Proof.Machine.execSel o c s
  | .setv o => Sys2Proof.Machine.execSetv o s
  | .mkv o => Sys2Proof.Machine.execMkv o s
  | .inv o => Sys2Proof.Machine.execInv o s
  | .isv o => Sys2Proof.Machine.execIsv o s
  | .mov o => Sys2Proof.Machine.execMov o s
  | .movi h d ty imm => Sys2Proof.Machine.execMovi h d ty imm s
  | .movh h d imm => Sys2Proof.Machine.execMovh h d imm s
  | .fadd o => Sys2Proof.Machine.execFadd o s
  | .fsub o => Sys2Proof.Machine.execFsub o s
  | .fmul o => Sys2Proof.Machine.execFmul o s
  | .ffma o => Sys2Proof.Machine.execFfma o s
  | .fmin o => Sys2Proof.Machine.execFmin o s
  | .fmax o => Sys2Proof.Machine.execFmax o s
  | .fabs o => Sys2Proof.Machine.execFabs o s
  | .fneg o => Sys2Proof.Machine.execFneg o s
  | .fdiv o => Sys2Proof.Machine.execFdiv o s
  | .fsqrt o => Sys2Proof.Machine.execFsqrt o s
  | .frcp o => Sys2Proof.Machine.execFrcp o s
  | .frsq o => Sys2Proof.Machine.execFrsq o s
  | .fexp2 o => Sys2Proof.Machine.execFexp2 o s
  | .flog2 o => Sys2Proof.Machine.execFlog2 o s
  | .fsin o => Sys2Proof.Machine.execFsin o s
  | .fcos o => Sys2Proof.Machine.execFcos o s
  | .fcmp o r => Sys2Proof.Machine.execFcmp o r s
  | .fclass o => Sys2Proof.Machine.execFclass o s
  | .fdp4 o => Sys2Proof.Machine.execFdp4 o s
  | .ftanh o => Sys2Proof.Machine.execFtanh o s
  | .frnd o => Sys2Proof.Machine.execFrnd o s
  | .cvt o fr => Sys2Proof.Machine.execCvt o fr s
  | .pack o fr slot => Sys2Proof.Machine.execPack o fr slot s
  | .unpack o fr idx => Sys2Proof.Machine.execUnpack o fr idx s
  | .blkpk o fr len scale => Sys2Proof.Machine.execBlkpk o fr len scale s
  | .blkup o fr => Sys2Proof.Machine.execBlkup o fr s
  | .shfl o m mask => Sys2Proof.Machine.execShfl o m mask s
  | .ballot o mask => Sys2Proof.Machine.execBallot o mask s
  | .vote o k mask => Sys2Proof.Machine.execVote o k mask s
  | .redux o op mask => Sys2Proof.Machine.execRedux o op mask s
  | .scan o op excl mask => Sys2Proof.Machine.execScan o op excl mask s
  | .v2s o => Sys2Proof.Machine.execV2s o s
  | .matchLanes o mask => Sys2Proof.Machine.execMatchLanes o mask s
  | .firstl o mask => Sys2Proof.Machine.execFirstl o mask s
  | .ld m => Sys2Proof.Machine.execLd m s
  | .st m => Sys2Proof.Machine.execSt m s
  | .lds m => Sys2Proof.Machine.execLds m s
  | .sts m => Sys2Proof.Machine.execSts m s
  | .ldtb m buf => Sys2Proof.Machine.execLdtb m buf s
  | .sttb m buf => Sys2Proof.Machine.execSttb m buf s
  | .ldc m buf => Sys2Proof.Machine.execLdc m buf s
  | .stc m buf => Sys2Proof.Machine.execStc m buf s
  | .atom m op => Sys2Proof.Machine.execAtom m op s
  | .cas m => Sys2Proof.Machine.execCas m s
  | .red m op => Sys2Proof.Machine.execRed m op s
  | .fence h k sc => Sys2Proof.Machine.execFence h k sc s
  | .pref m => Sys2Proof.Machine.execPref m s
  | .pgreq h tok a64 a b disp => Sys2Proof.Machine.execPgreq h tok a64 a b disp s
  | .drain h p => Sys2Proof.Machine.execDrain h p s
  | .copy c => Sys2Proof.Machine.execCopy c s
  | .copyIndexed c => Sys2Proof.Machine.execCopyIndexed c s
  | .copyChecksum c => Sys2Proof.Machine.execCopyChecksum c s
  | .gset h n c => Sys2Proof.Machine.execGset h n c s
  | .gclr h n => Sys2Proof.Machine.execGclr h n s
  | .gclrFree h n => Sys2Proof.Machine.execGclrFree h n s
  | .xkick h e v => Sys2Proof.Machine.execXkick h e v s
  | .tlwait h e v => Sys2Proof.Machine.execTlwait h e v s
  | .tlwaitToken h e v tok => Sys2Proof.Machine.execTlwaitToken h e v tok s
  | .tlread h d e => Sys2Proof.Machine.execTlread h d e s
  | .mma m c a b => Sys2Proof.Machine.execMma m c a b s
  | .mmas m c a b nsp => Sys2Proof.Machine.execMmas m c a b nsp s
  | .mmae m c a b => Sys2Proof.Machine.execMmae m c a b s
  | .mmaeSparse m c a b nsp => Sys2Proof.Machine.execMmaeSparse m c a b nsp s
  | .mzero m c mtClr mtk => Sys2Proof.Machine.execMzero m c mtClr mtk s
  | .mcvt m d c rnd => Sys2Proof.Machine.execMcvt m d c rnd s
  | .mmerge m c p t => Sys2Proof.Machine.execMmerge m c p t s
  | .dectab m a slot => Sys2Proof.Machine.execDectab m a slot s
  | .mwait h d wait => Sys2Proof.Machine.execMwait h d wait s
  | .ncall h tok d a hnd nin1 nout1 => Sys2Proof.Machine.execNcall h tok d a hnd nin1 nout1 s
  | .wpin h d hnd => Sys2Proof.Machine.execWpin h d hnd s
  | .wunpin h hnd => Sys2Proof.Machine.execWunpin h hnd s
  | .wpref h hnd => Sys2Proof.Machine.execWpref h hnd s
  | .wprefDrop h hnd => Sys2Proof.Machine.execWprefDrop h hnd s
  | .trace h tok d a b => Sys2Proof.Machine.execTrace h tok d a b s
  | .traceNext h tok d a => Sys2Proof.Machine.execTraceNext h tok d a s
  | .trend h d => Sys2Proof.Machine.execTrend h d s
  | .gemit h a => Sys2Proof.Machine.execGemit h a s
  | .gdone h => Sys2Proof.Machine.execGdone h s
  | .abinit h n bytes arr => Sys2Proof.Machine.execAbinit h n bytes arr s
  | .abinitReset h n => Sys2Proof.Machine.execAbinitReset h n s
  | .abinitFree h n => Sys2Proof.Machine.execAbinitFree h n s
  | .abarr h n g cnt => Sys2Proof.Machine.execAbarr h n g cnt s
  | .abwait h n d p => Sys2Proof.Machine.execAbwait h n d p s
  | .tkwait h d a v sc => Sys2Proof.Machine.execTkwait h d a v sc s
  | .tkadv h d a n sc => Sys2Proof.Machine.execTkadv h d a n sc s
  | .ctnew h d parent => Sys2Proof.Machine.execCtnew h d parent s
  | .ctenr h d n b => Sys2Proof.Machine.execCtenr h d n b s
  | .ctread h d n => Sys2Proof.Machine.execCtread h d n s
  | .ctsettle h n => Sys2Proof.Machine.execCtsettle h n s
  | .ctrepar h d n parent => Sys2Proof.Machine.execCtrepar h d n parent s
  | .ctleave h d n b => Sys2Proof.Machine.execCtleave h d n b s
  | .ctfree h d n => Sys2Proof.Machine.execCtfree h d n s
  | .regrel h n => Sys2Proof.Machine.execRegrel h n s
  | .regrelS h a => Sys2Proof.Machine.execRegrelS h a s
  | .regclm h n => Sys2Proof.Machine.execRegclm h n s
  | .regclmS h a => Sys2Proof.Machine.execRegclmS h a s
  | .regqry h d w => Sys2Proof.Machine.execRegqry h d w s
  | .waitq h d tok => Sys2Proof.Machine.execWaitq h d tok s
  | .pollq h d tok => Sys2Proof.Machine.execPollq h d tok s
  | .recruit h d want any => Sys2Proof.Machine.execRecruit h d want any s
  | .hget h d a => Sys2Proof.Machine.execHget h d a s
  | .hred h r a op ty rnd => Sys2Proof.Machine.execHred h r a op ty rnd s
  | .hjoin h d => Sys2Proof.Machine.execHjoin h d s
  | .hexit h => Sys2Proof.Machine.execHexit h s
  | .hrel h => Sys2Proof.Machine.execHrel h s
  | .trap h code => Sys2Proof.Machine.execTrap h code s
  | .tret h => Sys2Proof.Machine.execTret h s
  | .tretSkip h => Sys2Proof.Machine.execTretSkip h s
  | .rqrd h d e field => Sys2Proof.Machine.execRqrd h d e field s
  | .rqwr h e x field => Sys2Proof.Machine.execRqwr h e x field s
  | .rqdel h e => Sys2Proof.Machine.execRqdel h e s
  | .cxrd h d item => Sys2Proof.Machine.execCxrd h d item s
  | .cxwr h x item => Sys2Proof.Machine.execCxwr h x item s
  | .loadDataReturn w n remote => Sys2Proof.Machine.execLoadDataReturn w n remote s
  | .storePerform n => Sys2Proof.Machine.execStorePerform n s
  | .updateLineSend core line => Sys2Proof.Machine.execUpdateLineSend core line s
  | .parkAccess p => Sys2Proof.Machine.execParkAccess p s
  | .faultRecordPost p => Sys2Proof.Machine.execFaultRecordPost p s
  | .pgack p rseq => Sys2Proof.Machine.execPgack p rseq s
  | .rply p => Sys2Proof.Machine.execRply p s
  | .shootDown p npg => Sys2Proof.Machine.execShootDown p npg s
  | .shootDownComplete p => Sys2Proof.Machine.execShootDownComplete p s
  | .qrfr p q => Sys2Proof.Machine.execQrfr p q s
  | .ctack p val => Sys2Proof.Machine.execCtack p val s
  | .ctkWrite p k => Sys2Proof.Machine.execCtkWrite p k s
  | .rollUpStep p node => Sys2Proof.Machine.execRollUpStep p node s
  | .doorbellWrite q widx => Sys2Proof.Machine.execDoorbellWrite q widx s
  | .queueNop q => Sys2Proof.Machine.execQueueNop q s
  | .graph q => Sys2Proof.Machine.execGraph q s
  | .draw q => Sys2Proof.Machine.execDraw q s
  | .tlsig q => Sys2Proof.Machine.execTlsig q s
  | .tlwaitc q => Sys2Proof.Machine.execTlwaitc q s
  | .kernelBoundary q node => Sys2Proof.Machine.execKernelBoundary q node s
  | .gangPlacement p => Sys2Proof.Machine.execGangPlacement p s
  | .eviction gang => Sys2Proof.Machine.execEviction gang s
  | .waveRetire w => Sys2Proof.Machine.execWaveRetire w s
  | .barReevaluate gang group => Sys2Proof.Machine.execBarReevaluate gang group s
  | .grantPass core => Sys2Proof.Machine.execGrantPass core s
  | .tempUpdate core sample => Sys2Proof.Machine.execTempUpdate core sample s
  | .droopSet core => Sys2Proof.Machine.execDroopSet core s
  | .droopClear core => Sys2Proof.Machine.execDroopClear core s
  | .admission slot val => Sys2Proof.Machine.execAdmission slot val s
  | .slotRelease slot => Sys2Proof.Machine.execSlotRelease slot s
  | .headCycle p => Sys2Proof.Machine.execHeadCycle p s
  | .yieldRequest slot => Sys2Proof.Machine.execYieldRequest slot s
  | .overrunCheck slot => Sys2Proof.Machine.execOverrunCheck slot s
  | .sliceExpiry slot => Sys2Proof.Machine.execSliceExpiry slot s
  | .bestEffortMapping slot => Sys2Proof.Machine.execBestEffortMapping slot s
  | .queueLeavesSlot slot => Sys2Proof.Machine.execQueueLeavesSlot slot s
  | .ncallIntake cl => Sys2Proof.Machine.execNcallIntake cl s
  | .weightFill cl => Sys2Proof.Machine.execWeightFill cl s
  | .binAgeFlush cl => Sys2Proof.Machine.execBinAgeFlush cl s
  | .tileComplete cl => Sys2Proof.Machine.execTileComplete cl s
  | .copyExecute gang group => Sys2Proof.Machine.execCopyExecute gang group s
  | .widxWrite e val => Sys2Proof.Machine.execWidxWrite e val s
  | .engineCopy e => Sys2Proof.Machine.execEngineCopy e s
  | .convert e => Sys2Proof.Machine.execConvert e s
  | .checksumCopy e => Sys2Proof.Machine.execChecksumCopy e s
  | .cairnLoad e => Sys2Proof.Machine.execCairnLoad e s
  | .dedupCopy e => Sys2Proof.Machine.execDedupCopy e s
  | .requestComplete e => Sys2Proof.Machine.execRequestComplete e s
  | .matrixComplete gang n => Sys2Proof.Machine.execMatrixComplete gang n s
  | .mmergeApply gang group n => Sys2Proof.Machine.execMmergeApply gang group n s
  | .diceRegion cl => Sys2Proof.Machine.execDiceRegion cl s
  | .gridLaunch cl => Sys2Proof.Machine.execGridLaunch cl s
  | .gridResolve cl => Sys2Proof.Machine.execGridResolve cl s
  | .traceResult w n => Sys2Proof.Machine.execTraceResult w n s
  | .notifyWrite p w => Sys2Proof.Machine.execNotifyWrite p w s
  | .wakeToNoon p => Sys2Proof.Machine.execWakeToNoon p s
  | .powerStateEntry p => Sys2Proof.Machine.execPowerStateEntry p s
  | .partitionReset p => Sys2Proof.Machine.execPartitionReset p s
  | .coreReset core => Sys2Proof.Machine.execCoreReset core s
  | .pmapWrite val => Sys2Proof.Machine.execPmapWrite val s
  | .hostBar2Access p off acc => Sys2Proof.Machine.execHostBar2Access p off acc s
  | .remoteAccessTimeout n => Sys2Proof.Machine.execRemoteAccessTimeout n s
  | .beaconMissed nb => Sys2Proof.Machine.execBeaconMissed nb s
  | .resetMessage node sender lastBeacon nonce sig => Sys2Proof.Machine.execResetMessage node sender lastBeacon nonce sig s
  | .correctedErrorReport unit dram => Sys2Proof.Machine.execCorrectedErrorReport unit dram s
  | .boot image sig failStage => Sys2Proof.Machine.execBoot image sig failStage s
  | .cairnInstall off bytes manifest sig => Sys2Proof.Machine.execCairnInstall off bytes manifest sig s
  | .firmwareRegisterWrite t val => Sys2Proof.Machine.execFirmwareRegisterWrite t val s
  | .copyComplete gang group => Sys2Proof.Machine.execCopyComplete gang group s
  | .incomingRemoteAccess p node ia acc => Sys2Proof.Machine.execIncomingRemoteAccess p node ia acc s
  | .beaconReceived nb n => Sys2Proof.Machine.execBeaconReceived nb n s
  | .contextTeardown ctx => Sys2Proof.Machine.execContextTeardown ctx s
  | .clusterReset cl => Sys2Proof.Machine.execClusterReset cl s
  | .eventRecordPost p => Sys2Proof.Machine.execEventRecordPost p s
  | .l2WriteBack p line => Sys2Proof.Machine.execL2WriteBack p line s
  | .pmeasExtend p digest => Sys2Proof.Machine.execPmeasExtend p digest s
  | .attestationReport p nonce => Sys2Proof.Machine.execAttestationReport p nonce s
  | .deviceReset => Sys2Proof.Machine.execDeviceReset s
  | .beaconSend => Sys2Proof.Machine.execBeaconSend s
  | .lockstepMismatch => Sys2Proof.Machine.execLockstepMismatch s
  | .watchdogExpiry => Sys2Proof.Machine.execWatchdogExpiry s
  | .fwctlRestart => Sys2Proof.Machine.execFwctlRestart s
  | .hostErrorRecordPost => Sys2Proof.Machine.execHostErrorRecordPost s
  | .firmwareReady => Sys2Proof.Machine.execFirmwareReady s

end Sys2Proof.Machine
end

