-- ==== Sys2Proof/Machine/Fetch.lean ====
section
/-! DEFINITION. Fetching an instruction, giving a stream its turn, and placing an instruction where the next step
fetches it. -/

namespace Sys2Proof.Machine

/-- The code region of the stream that executes: the launch's code (R61), or the handler region in handler mode
(R397, R398), as its first IA and its bytes. -/
def State.region (s : State) : Nat × Nat :=
  if s.w.handler && s.w.sel.isNone then (s.vector s.w.place.ctx).2 else (s.w.place.code, s.w.place.clen)

/-- Whether the 12 bytes at a PC can be fetched (R62). A PC inside the region with fewer than 12 bytes before its end cannot
(DESIGN CHOICE: the manual speaks of an address outside the region only). -/
def pcOk (len pc : Nat) : Bool := pc % 4 == 0 && decide (pc + 12 ≤ len)

/-- Bytes of a span through the page table; none where a page is unfit. -/
def State.codeBytes (s : State) (p ia : Nat) : Nat → Option (List Byte)
  | 0 => some []
  | n + 1 =>
    match s.peek p ia, s.codeBytes p (ia + 1) n with
    | some b, some t => some (b :: t)
    | _, _ => none

/-- The result of a fetch (R61, R62). A byte of a page under a shoot-down that runs is held at its home slice (R349), as one of a
line that a merge must reach first is (R170). -/
inductive Fetched where
  | bytes (bs : List Byte)
  | outside
  | unfit
  | held
deriving DecidableEq, Repr

/-- Fetches the 12 bytes at the PC of the stream that executes. -/
def State.fetch (s : State) : Fetched :=
  let r := s.region
  let ia := r.1 + s.w.pcNow.toNat
  if !pcOk r.2 s.w.pcNow.toNat then .outside
  else if s.readHeld s.w.place.part ia || s.readHeld s.w.place.part (ia + 11) then .held
  else
    match s.codeBytes s.w.place.part ia 12 with
    | some bs => .bytes bs
    | none => .unfit

/-- Posts the record of an error that a fetch meets, by its physical address: an error has one record (R419), however often the
instruction is fetched. -/
def State.tellOnce (s : State) (pa : Nat) (post : State → State) : State :=
  if s.dev.codeTold.contains pa then s
  else
    let t := post s
    { t with dev := { t.dev with codeTold := pa :: t.dev.codeTold } }

/-- The records of the uncorrectable errors that the fetch of an instruction meets: in the page-table entries of its walk, and in its
bytes, which are those that memory holds (DESIGN CHOICE: the manual gives no reaction). -/
def State.fetchNote (s : State) : State :=
  let p := s.w.place.part
  let ctx := s.w.place.ctx
  let ia := s.region.1 + s.w.pcNow.toNat
  if s.ecc.isEmpty && s.sram.isEmpty then s
  else
    let bad := (s.walkReads p ia).filter (fun a => (List.range 8).any (fun k => s.ecc.contains (a + k)))
    let s1 := bad.foldl (fun (s : State) a => s.tellOnce a (fun s => s.physNote p ctx a 8)) s
    match s1.eccAt p ia 12 with
    | none => s1
    | some a =>
      match (s1.xlate p a).2 with
      | .leaf l => s1.tellOnce (l.frame + a % 4096) (fun s => s.dramError p ctx a)
      | .stop _ _ _ => s1

/-- A trap in front of an instruction that cannot be decoded: what must finish first does, and a DATAERR of it comes first (R193,
R396, R400). -/
def State.fetchTrap (s : State) (word : BitVec 96) (t : TrapInfo) : State :=
  match s.w.trapWaits, s.w.owedError with
  | i :: is, _ => holdAt s (.remote (i :: is))
  | [], none => s.reclaim.trapNow word t
  | [], some e =>
    match failedReturn s e with
    | .trap s' t' => s'.reclaim.trapNow e.word t'
    | .dead | .hold _ _ | .go _ => s

/-- The trap of a PC that cannot be fetched (R62): XPC holds it, XADDR the PC that led there. The word that XWORD logs
is open. -/
def State.pcRange (s : State) : State :=
  s.tick.fetchTrap (Config.freeWord s.fresh) { cause := .pcrange, addr := s.w.prevPc.setWidth 64 }

/-- The trap of a word that no instruction has (R64, R65). -/
def State.illegalWord (s : State) (bs : List Byte) : State :=
  s.fetchTrap (BitVec.ofNat 96 (leWord bs)) { cause := .illegal }

/-- Whether the gang of a stream is past the first step of an eviction: none of its streams goes on (R267). -/
def State.isLeaving (s : State) (id : WaveId) : Bool :=
  match s.gang? id.gang with
  | some x => x.leaving
  | none => false

/-- Gives the turn to a stream, or to a helper part of its team: none where it cannot run. -/
def State.select (s : State) (id : WaveId) (part : Option Nat) : Option State :=
  match s.stream? id with
  | some x =>
    let x := { x with sel := part }
    let ok := x.runs && !s.isLeaving id && (part.isNone || (match x.cur with | some p => p.running | none => false))
    if ok then
      if s.w.live && s.w.id == id then some { s with w := x }
      else
        let rest := s.waves.filter (fun y => !(y.live && y.id == id))
        some { s with w := x, waves := if s.w.live then s.w :: rest else rest }
    else none
  | none => none

/-! Placing one instruction. -/

/-- Where `withFetchWord` puts its page table and code. -/
def placeRoot : Nat := 0x1000
def placeCode : Nat := 0x5000

/-- A page-table entry: a table at `pa`, or a resident, writable, strongly ordered 4 KiB leaf (R340). -/
def tableEntry (pa : Nat) : Nat := pa + 0x31
def leafEntry (pa : Nat) : Nat := pa + 0xC1

/-- The wave that runs a placed instruction: all 32 lanes, 256 registers, code at IA 0 of partition 0. A matrix
opcode gets a belay stream, a handler instruction handler mode. -/
def placedWave (w : Wave) (opcode : Nat) : Wave where
  live := true
  id := if decide (0xB0 ≤ opcode) && decide (opcode ≤ 0xB7) then belayId 0 else ⟨0, 0, 0⟩
  belay := decide (0xB0 ≤ opcode) && decide (opcode ≤ 0xB7)
  core := 0
  slot := 0
  place := { Place.idle with nlane := 32, nwave := 1, ngroup := 1, ngx := 1, ngy := 1, ngz := 1, clen := 12,
                             present := BitVec.allOnes 32, wbSize := Config.nWBuf, abSize := Config.nABuf,
                             cbSize := Config.nCBuf }
  pc := 0
  prev := 0
  exec := BitVec.allOnes 32
  cxm := w.cxm
  seed := laneList.map (fun l => BitVec.ofNat 32 (0x2545F491 ^^^ l))
  c := 256
  v := w.v
  s := w.s
  q := w.q
  handler := decide (0xF1 ≤ opcode) && decide (opcode ≤ 0xF6)
  xpc := w.xpc
  xcause := w.xcause
  xword := w.xword
  xaddr := w.xaddr
  xlane := w.xlane
  xhpc := w.xhpc
  xsave := w.xsave
  windows := []
  inflight := []
  replay := []
  wait := .none
  halted := false
  stopped := false
  team := none
  sel := none
  lentTo := none
  rays := []
  jobs := []
  errs := []
  fence := []
  gdone := false
  request := none
  ahead := none

/-- The launch and the gang of a placed instruction. -/
def placedLaunch : Launch :=
  ⟨0, 0, 0, .node 0, 0, 12, 1, 1, 1, 32, 1, List.replicate 16 0, [(0, 256)], Config.nWBuf, Config.nABuf,
    Config.nCBuf, false, none, false, some 0, none, [], []⟩

def placedGrp : Grp := ⟨[], [], [], 0, [], [0, 0, 0, 0], [], [.empty, .empty, .empty, .empty], [], [], [], false⟩

def placedGang : Gang :=
  ⟨placedLaunch, 0, .resident, 0, 0, [placedGrp], some ⟨List.replicate 16 0, 0, none, 0, []⟩, none, false, false⟩

/-- The machine with an instruction placed: one gang of one wave on core 0 of partition 0 has the turn, its code
stands at IA 0, and the partition's page table maps it. -/
def placeWord (s : State) (word : BitVec 96) : State :=
  let code := wordBytes word
  let opcode := word.toNat / 2 ^ 88
  let w := placedWave s.w opcode
  let mem := Mem.writeN (Mem.writeN (Mem.writeN (Mem.writeN (Mem.writeN s.mem placeRoot (leBytes 8 (tableEntry 0x2000)))
    0x2000 (leBytes 8 (tableEntry 0x3000))) 0x3000 (leBytes 8 (tableEntry 0x4000)))
    0x4000 (leBytes 8 (leafEntry placeCode))) placeCode code
  let mem := if w.handler then Mem.writeN mem s.dev.tvbase (leBytes 8 0 ++ leBytes 4 12 ++ leBytes 4 1) else mem
  { s with
    w := w
    waves := []
    gangs := Tab.set s.gangs 0 placedGang
    nextGang := s.nextGang + 1
    inbox := []
    turn := [(w.id, none)]
    mem := mem
    parts := Tab.set s.parts 0 { (Tab.get Partn.reset s.parts 0) with ptroot := placeRoot, mtu := [] }
    dev := { s.dev with pmap := Tab.set s.dev.pmap 0 8 } }

end Sys2Proof.Machine
end

