-- ==== Sys2Proof/Machine/FrontEnd.lean ====
section
/-! DEFINITION. The scalar front end of a wave, which runs ahead of the wave's program order (R19 to R22). The registers and
the PC of a wave stand at its program order; `ahead` holds what the front end has done beyond it. -/

namespace Sys2Proof.Machine

/-- The branches that need a value of the vector side: the front end stands before one until it has executed (R21). A BRA whose
condition is EXEC is among them (DESIGN CHOICE: R134 admits the operand, which only the vector side reads at the issue, R13 and R53,
while R19 and R136 make BRA a front-end instruction and keep branches out of the queue; here the front end stands before it until every
older instruction has issued, and it then branches on the EXEC of program order). -/
def vectorBranch (x : Instr) : Bool :=
  match x with
  | .brv _ _ _ _ | .bru _ _ _ _ | .bruReg _ _ => true
  | .braCond _ _ _ _ => (specials x).any (fun c => readAtIssue c.toNat)
  | _ => false

/-- The vector-side instructions after which the front end waits for their result (R21). -/
def feedsFront (x : Instr) : Bool :=
  match x with
  | .v2s _ | .ballot _ _ => true
  | _ => false

/-- The instructions that the front end may execute by their kind: control flow and the lane arithmetic, where they name no special
operand that only the vector side reads (R19, R53). -/
def frontKind (x : Instr) : Bool :=
  match x with
  | .nop _ | .bra _ _ | .call _ _ _ | .ret _ _ | .jmpi _ _ _ => true
  | .braCond _ _ _ _
  | .add _ | .sub _ | .mul _ | .mulhi _ | .mad _ | .div _ | .rem _ | .min _ | .max _ | .abs _ | .neg _ | .addsat _ _
  | .and _ | .or _ | .xor _ | .andn _ | .not _ | .shl _ | .shr _ | .sar _ | .rot _ _ | .bfe _ _ | .bfi _ | .popc _
  | .clz _ | .ctz _ | .brev _ | .pfxpop _ | .isect _ | .bclr _ _ | .dot4 _ _ | .cmp _ _ | .sel _ _ | .setv _ | .mkv _
  | .inv _ | .isv _ | .mov _ | .movi _ _ _ _ | .movh _ _ _ | .fadd _ | .fsub _ | .fmul _ | .ffma _ | .fmin _ | .fmax _
  | .fabs _ | .fneg _ | .fdiv _ | .fsqrt _ | .frcp _ | .frsq _ | .fexp2 _ | .flog2 _ | .fsin _ | .fcos _ | .fcmp _ _
  | .fclass _ | .fdp4 _ | .ftanh _ | .frnd _ | .cvt _ _ | .pack _ _ _ | .unpack _ _ _ | .blkup _ _ => (specials x).all (fun c => !readAtIssue c.toNat)
  | _ => false

/-- Whether an instruction of the lane kinds has a scalar destination; control flow needs none. -/
def frontDest (x : Instr) : Bool :=
  match x with
  | .nop _ | .bra _ _ | .braCond _ _ _ _ | .call _ _ _ | .ret _ _ | .jmpi _ _ _ => true
  | _ => !(writes x).isEmpty

/-- The front-end instructions: those that act on the wave's scalar registers and its PC alone (R19). -/
def frontOp (x : Instr) : Bool := frontKind x && frontDest x && (vNamed x).isEmpty

/-- The scalar, immediate and special values that an instruction reads when its front end takes it, in operand order, pairs low
word first (R19, R20, R53). -/
def State.capture (s : State) (x : Instr) : List RWord :=
  (srcOps x).flatMap (fun p =>
      match p.o with
      | .s _ | .i _ => (List.range p.k).map (fun j => valWord (s.rdOp p.ty p.k p.o 0) j)
      | .x c => if readAtIssue c.toNat then [] else (List.range p.k).map (fun j => valWord (s.specialNow c 0 (p.k == 2)) j)
      | .v _ => [])
    ++ (match x with
        | .movi _ _ ty n => (List.range (typeWords ty)).map (fun j => valWord ⟨BitVec.ofInt 64 n.toInt, true⟩ j)
        | .movh _ _ n => [⟨n.setWidth 32, true⟩]
        | _ => [])

/-- The special operands that an instruction reads when its front end takes it, each with its value (R53). -/
def State.specialsNow (s : State) (x : Instr) : List (Nat × BitVec 64) :=
  ((srcSpecials x).filter (fun c => !readAtIssue c.toNat)).map (fun c => (c.toNat, (s.specialNow c 0 true).bits))

/-- The entry of an instruction that the front end pushes. -/
def State.pushed (s : State) (x : Instr) : QEnt := ⟨s.w.pcNow, wordOf x, false, s.capture x, [], s.specialsNow x⟩

/-- The entry of an instruction that the front end has executed in `s`, with what it wrote as it stands in `w`. -/
def State.executed (s : State) (x : Instr) (w : Wave) : QEnt :=
  ⟨s.w.pcNow, wordOf x, true, [], (writes x).filterMap (fun r => match r with | .s 0 | .v _ => none | .s n => some (n, w.rdS n)), s.specialsNow x⟩

/-- The instructions behind which nothing is taken: the stream or part ends. -/
def endsStream (x : Instr) : Bool :=
  match x with
  | .halt _ | .hexit _ => true
  | _ => false

/-- The instruction of an entry. -/
def QEnt.instr (e : QEnt) : Option Instr :=
  match decodeWord e.word with
  | .ok x => some x
  | .error _ => none

/-- The instructions that the front end has pushed and that have not left. -/
def Ahead.pending (a : Ahead) : List Instr := (a.taken.filter (fun e => !e.front)).filterMap QEnt.instr

/-- Whether an instruction must wait in the front end for a scalar register whose write is pending: a front-end instruction that
names it (R21, R26), another one that reads it (R20). DESIGN CHOICE: a front-end instruction that only writes such a register waits too,
also behind a queued instruction that is not long-latency, so that the two writes keep program order (R21 names readers, and R26
long-latency instructions). -/
def Wave.awaits (w : Wave) (a : Ahead) (x : Instr) : Bool :=
  let rs := w.flight.flatMap (·.dests) ++ a.pending.flatMap writes
  (if frontOp x then touches x else reads x).any (fun r => r != .s 0 && (match r with | .s _ => true | .v _ => false) && rs.contains r)

/-- Whether a pushed instruction is still to write a special operand: HCOUNT, XRQN, or one that it names as D. -/
def stillWrites (c : BitVec 8) (x : Instr) : Bool :=
  (dstSpecial x).contains c
    || (match x with
      | .recruit _ _ _ _ | .hjoin _ _ | .hrel _ => c == 0x1C
      | .rqdel _ _ => c == 0x47
      | _ => false)

/-- Whether an instruction must wait in the front end for a special operand: CXM until every queued instruction has issued (R81),
another one while a pushed instruction is still to write it (DESIGN CHOICE, in the manner of R21: program order gives its
value). -/
def Ahead.specialWaits (a : Ahead) (x : Instr) : Bool :=
  (srcSpecials x).any (fun c => !readAtIssue c.toNat && ((c == 0x19 && !a.queue.isEmpty) || a.pending.any (stillWrites c)))

/-- The stream or part as its front end sees it: at the front end's PC and with its scalar registers, nothing in flight. -/
def Wave.front (w : Wave) (a : Ahead) : Wave :=
  let w1 : Wave := { w with inflight := [], windows := [], jobs := [], wait := .none, lentTo := none, ahead := none }
  match w1.cur with
  | some p => w1.setCur { p with pc := a.pc, s := a.regs p.s, inflight := [], windows := [], ahead := none }
  | none => { w1 with pc := a.pc, s := a.regs w.s }

/-- Whether the part that executes stands as before: it runs, and no more of its lanes have faulted. -/
def Wave.sameFaults (w v : Wave) : Bool :=
  match w.cur, v.cur with
  | some p, some q => q.running && p.faulted == q.faulted
  | none, none => true
  | _, _ => false

/-- What a front-end instruction leaves, executed ahead; where it would trap or wait, the front end stands (R22). -/
def frontRun (x : Instr) (a : Ahead) (u t : State) : Ahead :=
  if t.w.handler == u.w.handler && !t.w.stopped && t.w.wait == .none && u.w.sameFaults t.w then
    { a with pc := t.w.pcNow, taken := a.taken ++ [u.executed x (t.w.flight.foldl landEntry t.w)] }
  else a

/-- Entries of a vector queue (R19). -/
def queueRoom : Nat := 64

/-- The front end takes at most one instruction (R19, R21): it executes a front-end instruction, or pushes another one while
the queue has room. It stands behind V2S and BALLOT and before a vector branch, at an instruction that cannot be fetched or is not
legal, and at one that must wait for a register or a special operand. -/
def State.frontStep (s : State) (a : Ahead) : Ahead :=
  let u := s.setW (s.w.front a)
  if a.halted || (a.pending.getLast?).any feedsFront then a
  else
    match u.fetch with
    | .bytes bs =>
      (match decodeWord (BitVec.ofNat 96 (leWord bs)) with
        | .ok x =>
          if !u.w.admits x || vectorBranch x || s.w.awaits a x || a.specialWaits x then a
          else if frontOp x then
            if s.w.full x then a
            else
              match exec x u with
              | .next t => frontRun x a u t
              | _ => a
          else if queueRoom ≤ a.queue.length then a
          else { a with pc := a.pc + 12, taken := a.taken ++ [u.pushed x], halted := endsStream x }
        | .error _ => a)
    | .outside | .unfit | .held => a

/-- Whether the instruction at which a stream stands has passed its gate: it has issued, and waits for its own effect. -/
def hasIssued (x : Instr) (s : State) : Bool :=
  match gate x s with
  | .go _ => true
  | _ => false

/-- The front end goes on from `a`. -/
def State.frontOn (s : State) (a : Ahead) : State := s.setW (s.w.setAhead (some (s.frontStep a)))

/-- Whether the stream or part that executes goes on in the mode it was in: no part has ended, and no trap or return has moved it. -/
def Wave.goesOn (w v : Wave) : Bool :=
  v.handler == w.handler && !v.halted && v.runs
    && (match v.cur with
      | some p => p.running
      | none => v.sel.isNone)

/-- The front end after the turn of a stream or part that stood at `x` in `s` and stands in `t`. One that has left the instruction
takes it from what is ahead, until the front end is caught up, and what was taken on another path is dropped; one that waits at a
vector-side instruction lets its front end go on, but where the instruction has not been pushed itself, since it reads a scalar register
whose write is pending, the front end stands there (R20). -/
def frontTurn (x : Instr) (s t : State) : State :=
  let w := t.w
  if w.belay then t
  else if !s.w.goesOn w then t.setW (w.setAhead none)
  else if (frontOp x && hasIssued x s) || w.pcNow != s.w.pcNow then
    let t1 := t.setW w.popAhead
    match t1.w.aheadNow with
    | none => t1
    | some a => t1.frontOn a
  else
    match w.aheadNow with
    | some a => t.frontOn { a with issued := a.issued || hasIssued x s }
    | none =>
      if frontOp x || vectorBranch x || (!hasIssued x s && s.w.awaits ⟨s.w.pcNow, [], false, false⟩ x) then t
      else t.frontOn ⟨w.pcNow + 12, [s.pushed x], hasIssued x s, endsStream x⟩

/-- The outcome of a turn with what the front end does in it. -/
def frontOut (x : Instr) (s : State) (r : Out) : Out :=
  match r with
  | .next t => .next (frontTurn x s t)
  | .fault f => .fault f
  | .refused f => .refused f

end Sys2Proof.Machine
end

