-- ==== Sys2Proof/Machine/Run.lean ====
section
/-! DEFINITION. The turn of a stream. -/

namespace Sys2Proof.Machine

/-- Whether the helper part that has the turn issues no more (R156). -/
def Wave.partStops (w : Wave) : Bool :=
  match w.cur with
  | some p => p.stopping
  | none => false

/-- A helper part that issues no more comes to its end, and a failed entry of the stream that has the turn is issued again
(R156, R404). Else the stream fetches, decodes and executes one instruction, and its front end goes on; a word that no
instruction has, and a PC that cannot be fetched, trap (R61 to R66). -/
def runStream (s : State) : Host.Outcome State Fault Refusal :=
  if s.w.partStops then .next s.closePart
  else
    match s.w.failedEntry with
    | some e => .next (s.reissue e)
    | none =>
      match s.fetch with
      | .outside => .next s.pcRange
      | .unfit => .fault .codeUnmapped
      | .held => .next s
      | .bytes bs =>
        let s := s.fetchNote
        match decode bs with
        | .ok (x, _) => frontOut x s (exec x s)
        | .error _ => .next (s.illegalWord bs)

end Sys2Proof.Machine
end

