-- ==== Sys2Proof/Machine/Tick.lean ====
section
/-! DEFINITION. A cycle: the clocks count, the events that are due are queued, and every stream that can run gets a
turn. -/

namespace Sys2Proof.Machine

/-! The clocks (R391). -/

/-- Whether the clock of a slice runs: its partition is in Noon (R423). -/
def State.clockRuns (s : State) (slice : Nat) : Bool :=
  decide (s.ownerOf slice < Config.nPart) && (s.part (s.ownerOf slice)).power == .noon

/-- The partitions that own a slice. -/
def State.partsUsed (s : State) : List Nat := (List.range Config.nPart).filter (fun p => (List.range 8).any (fun k => s.ownerOf k == p))

/-- A partition counts a cycle. -/
def State.tickPart (s : State) (p : Nat) : State :=
  let x := s.part p
  if x.power = .eclipse then s
  else s.setPart p { x with scyc := (x.scyc + 1) % 2 ^ 64, idle := if s.idleNow p then x.idle + 1 else 0 }

/-- A core counts a cycle. -/
def State.countCore (s : State) (core : Nat) (c : Core) : Core :=
  if s.clockRuns (sliceOf core) then { c with hold := 0, quiet := c.quiet + 1 } else c

/-- The registers in use on each core before the grant pass of a cycle (R101, R102). -/
def State.notePool (s : State) : State :=
  let cores := ((Tab.keys s.cores ++ s.streams.map (·.core)).filter (fun c => decide (c < noCore))).eraseDups
  cores.foldl (fun (s : State) c => s.setCore c { (s.core c) with poolUsed := s.usedRegs c }) s

/-- Whether the counter of a remote access runs: with the clocks of its gang's partition (R3, R424). -/
def State.remoteRuns (s : State) (r : Remote) : Bool :=
  match s.gang? r.wave.gang with
  | some g => (s.part g.launch.part).power == .noon
  | none => true

/-- Every counter counts once. A unit that counts corrected errors has its own (R3, R419). -/
def State.count (s : State) : State :=
  let slices := (List.range 8).filter s.clockRuns
  let s1 : State := { s with
    clock := slices.foldl (fun t k => Tab.set t k (Tab.get 0 t k + 1)) s.clock
    cores := s.cores.map (fun c => (c.1, s.countCore c.1 c.2))
    remotes := s.remotes.map (fun r => if s.remoteRuns r then { r with age := r.age + 1 } else r)
    dev := { s.dev with corrected := s.dev.corrected.map (fun e => (e.1, { e.2 with quiet := e.2.quiet - 1 })) } }
  s1.partsUsed.foldl (fun (s : State) p => s.tickPart p) s1

/-! What is due. -/

/-- An event, if a condition holds. -/
def onlyIf (c : Bool) (e : Instr) : List Instr := if c then [e] else []

/-- The events of a slot, in the order of a cycle (R258, R260, R264, R265). -/
def State.slotEvents (s : State) (n : Nat) : List Instr :=
  let x := s.qslot n
  let y := s.part (s.ownerOf (n / 8))
  if !x.en || y.power == .eclipse then []
  else
    onlyIf x.xcyc.isSome (.overrunCheck n) ++ onlyIf (x.guar && x.dl == y.scyc) (.slotRelease n)
      ++ onlyIf (x.guar && (decide (x.rem ≤ x.ylead) || x.dl == y.scyc)) (.yieldRequest n)
      ++ onlyIf (!x.guar && x.mapped.isSome) (.sliceExpiry n)
      ++ onlyIf (!x.guar && x.mapped.isSome) (.queueLeavesSlot n) ++ onlyIf (!x.guar && x.mapped.isNone) (.bestEffortMapping n)

/-- The event that starts the command at RIDX of a queue, by its KIND (R251). -/
def State.startEvent (s : State) (q : Nat) : Instr :=
  match bits (fieldAt (s.command q).2 0 4) 31 28 with
  | 1 => .graph q
  | 2 => .draw q
  | 3 => .tlsig q
  | 4 => .tlwaitc q
  | _ => .queueNop q

/-- The events of a queue: a command starts, waits or completes. -/
def State.queueEvents (s : State) (q : Nat) : List Instr :=
  let x := s.queue q
  let ended (node : Option Nat) : Bool := (s.kernelGangs q node).all (fun e => e.2.st == .retired)
  match x.cmd with
  | none => onlyIf (x.ready && (s.slotOf q).isSome) (s.startEvent q)
  | some (.tlwait _ _) => [.tlwaitc q]
  | some (.graph _ ns _) =>
    ((List.range ns.length).zip ns).flatMap (fun e => onlyIf (e.2.left != 0 && ended (some e.1)) (.kernelBoundary q e.1))
  | some (.draw _) => onlyIf (ended none) (.kernelBoundary q 0)

/-- Gangs to evict so that a best-effort mapping ends (R260, R267). -/
def State.evictEvents (s : State) (n : Nat) : List Instr :=
  let x := s.qslot n
  match x.mapped with
  | some q =>
    if x.en && !x.guar && x.yreq then
      ((s.queueGangs q).filter (fun e => s.evictable e.1 e.2)).map (fun e => .eviction e.1)
    else []
  | none => []

/-- The events of a gang's groups and its belay (R145, R221, R229, R295). -/
def Gang.events (x : Gang) (g : Nat) : List Instr :=
  (((List.range x.groups.length).zip x.groups).flatMap (fun e =>
      onlyIf (!e.2.joined.isEmpty) (.barReevaluate g e.1)
        ++ (match e.2.copyq with
            | c :: _ => if c.done then [.copyComplete g e.1] else onlyIf c.go.isSome (.copyExecute g e.1)
            | [] => [])
        ++ (List.range e.2.merges.length).reverse.map (fun n => .mmergeApply g e.1 n)))
    ++ (match x.belay with
        | some b => (List.range b.flight.length).reverse.map (fun n => .matrixComplete g n)
        | none => [])

/-- The events of a cluster's units (R270, R281 to R283, R315, R316, R326). The dicing unit launches at most one grid in
eight cycles. -/
def State.clusterEvents (s : State) (cl : Nat) (c : Cluster) : List Instr :=
  onlyIf (!c.intake.isEmpty) (.ncallIntake cl) ++ onlyIf (s.wantsFill cl).isSome (.weightFill cl)
    ++ onlyIf (!c.wanted.isEmpty || c.bins.any (fun b => !b.2.sealed && s.flushDue cl b.2)) (.binAgeFlush cl) ++ onlyIf (!c.runq.isEmpty) (.tileComplete cl)
    ++ onlyIf (!c.draws.isEmpty) (.diceRegion cl) ++ onlyIf (!c.draws.isEmpty && Tab.get 0 s.clock (cl / 2) % 8 == 0) (.gridLaunch cl)
    ++ onlyIf (c.grids.any (fun e => s.gridComplete e.2)) (.gridResolve cl)

/-- The next event of an engine context (R304 to R310). -/
def EngCtx.events (x : EngCtx) (e : Nat) : List Instr :=
  match x.cur, x.req with
  | some _, _ => [.requestComplete e]
  | none, none => onlyIf (x.en && !x.stop && x.ridx != x.widx) (.engineCopy e)
  | none, some bs =>
    match (reqOf bs).opn with
    | 1 => [.convert e]
    | 2 => [.checksumCopy e]
    | 3 => [.cairnLoad e]
    | 4 => [.dedupCopy e]
    | _ => [.engineCopy e]

/-- The events of a stream: results that land, rays whose search ends, and its retirement (R26, R34, R332). -/
def Wave.events (w : Wave) : List Instr :=
  let ready (es : List Entry) : List Instr :=
    (es.filter (fun e => e.waits.isEmpty && e.st == .waiting)).map (fun e => .loadDataReturn w.id e.id [])
  let parts := match w.team with | some t => t.parts.flatMap (fun p => p.inflight) | none => []
  ready w.inflight ++ ready w.replay ++ ready parts
    ++ (w.jobs.filter (fun j => j.isTrace)).flatMap (fun j => ((lanesOf j.todo).take 1).map (fun l => .traceResult w.id l))
    ++ onlyIf (w.halted && decide (w.core < noCore)) (.waveRetire w.id)

/-- The events of a partition's memory side and its power (R346, R348, R349, R366, R418, R420, R423). -/
def State.partEvents (s : State) (p : Nat) : List Instr :=
  let x := s.part p
  (x.rollup.filter (fun e => e.2 != 0)).map (fun e => .rollUpStep p e.1)
    ++ onlyIf (!x.parkWait.isEmpty) (.parkAccess p)
    ++ onlyIf (!x.faultQ.isEmpty && x.frk != 0 && x.power != .eclipse) (.faultRecordPost p)
    ++ onlyIf (!x.eventQ.isEmpty && x.evk != 0 && x.power != .eclipse) (.eventRecordPost p) ++ onlyIf (!x.shoots.isEmpty) (.shootDownComplete p)
    ++ onlyIf (!x.rplyIds.isEmpty) (.rply p) ++ onlyIf x.waking (.wakeToNoon p)
    ++ onlyIf (x.power == .noon && decide (1024 ≤ x.idle) && decide (1000 ≤ x.ltol.toNat)) (.powerStateEntry p)

/-- The events that are due in a cycle. DESIGN CHOICE: of several free best-effort slots the lowest takes the head of the list first
(R260). Update-only lines whose pages are not fit for their merge are sent, so that the units which
wait for them go on (R170). -/
def State.dueEvents (s : State) : List Instr :=
  let ps := s.partsUsed
  let qs := (Tab.keys s.queues).filter (fun q => (s.queue q).known && (s.part (s.queue q).part).power == .noon)
  let ns := List.range Config.nSlot
  ps.flatMap (fun p => (s.unfitLines p).map (fun e => .updateLineSend e.1 e.2))
    ++ s.cores.flatMap (fun c => onlyIf (!c.2.claims.isEmpty || !c.2.dead.isEmpty) (.grantPass c.1)) ++ ns.flatMap s.slotEvents
    ++ (ps.filter (fun p => (s.part p).power != .eclipse && (s.slotsOf p).any (fun n => (s.qslot n).en))).map (fun p => .headCycle p)
    ++ qs.flatMap s.queueEvents
    ++ (ps.filter (fun p => qs.any (fun q => (s.queue q).part == p && !(s.queue q).pending.isEmpty))).map (fun p => .gangPlacement p)
    ++ ns.flatMap s.evictEvents ++ (s.gangs.filter (fun e => e.2.chosen)).map (fun e => .eviction e.1)
    ++ s.cores.flatMap (fun c => onlyIf (c.2.droop && decide (65536 ≤ c.2.quiet)) (.droopClear c.1))
    ++ s.gangs.flatMap (fun g => g.2.events g.1)
    ++ s.clusters.flatMap (fun c => s.clusterEvents c.1 c.2)
    ++ s.engs.flatMap (fun e => e.2.events e.1)
    ++ s.streams.flatMap Wave.events
    ++ (s.stores.filter (fun h => !s.heldStill h)).map (fun h => .storePerform h.acc.id)
    ++ (s.remotes.filter (fun r => decide (2 ^ 24 ≤ r.age))).map (fun r => .remoteAccessTimeout r.id)
    ++ ps.flatMap s.partEvents
    ++ onlyIf (!s.dev.herq.isEmpty && s.dev.herk != 0) .hostErrorRecordPost
    ++ s.dev.held

/-- The streams that can run, and the running parts of their teams: of the two, the part takes the first visit (R150). -/
def State.turns (s : State) : List (WaveId × Option Nat) :=
  (s.streams.filter Wave.runs).flatMap (fun w =>
    (match w.team with
      | some t => (((List.range t.parts.length).zip t.parts).filter (fun e => e.2.running)).map (fun e => (w.id, some e.1))
      | none => []) ++ [(w.id, none)])

/-- One cycle: the counters, the images of the evicted gangs, the acknowledgements to other nodes, what is due, and the turns. In minimal mode only the Lantern
and the host link run (R427): no other clock counts and no stream runs. -/
def State.cycle (s : State) : State :=
  if s.dev.fw = .minimal then
    { s with inbox := onlyIf (!s.dev.herq.isEmpty && s.dev.herk != 0) .hostErrorRecordPost }
  else
    let s1 := s.count.notePool.refreshImages.fabAcks
    { s1 with inbox := s1.dueEvents, turn := s1.turns, dev := { s1.dev with held := [] } }

end Sys2Proof.Machine
end

