-- ==== Sys2Proof/Machine/Step.lean ====
section
/-! DEFINITION. One step of the machine, and the placing of an instruction that the next step runs. -/

namespace Sys2Proof.Machine

/-- One step: the next event happens, or the stream at the head of the turn list executes one instruction, or, with
none left, the clocks count one cycle. -/
def step (s : State) : Host.Outcome State Fault Refusal :=
  match s.inbox with
  | e :: es => exec e { s with inbox := es }
  | [] =>
    match s.turn with
    | (id, part) :: ts =>
      match State.select { s with turn := ts } id part with
      | some s' => runStream s'
      | none => .next { s with turn := ts }
    | [] => .next s.cycle

/-- `s` with an instruction whose low `nbits` bits are those of `w` stored where the next step fetches it: one gang of
one wave is placed, as a launch would (the interface of the host). -/
def State.withFetchWord (s : State) (nbits w : Nat) : State := placeWord s (BitVec.ofNat 96 (w % 2 ^ nbits))

end Sys2Proof.Machine
end

