-- ==== Sys2Proof/Safety.lean ====
section
/-! DEFINITION. What counts as a safe run, in the terms the claims use: when nothing stands in front of an
instruction, what an instruction leaves alone, and the invariant of the memories. -/

namespace Sys2Proof.Machine

/-- Nothing stands in front of the instruction `x`: its stream can execute and admits it (R64), it touches no open
lookahead window (R25), nothing it depends on is unfinished (R26), in its own part or
beside it (R150), and a long-latency instruction finds room (R400), it names no output of a pending call (R274) and no vector register at or above the allocation count (R96). -/
def State.clear (s : State) (x : Instr) : Bool :=
  s.w.runs && s.w.admits x && (s.w.lookaheadHit x).isNone && (s.w.due x).isEmpty && !s.w.full x && (s.w.dueOther x).isEmpty
    && (s.w.jobHits x).isEmpty && (s.w.overBound x).isNone

/-- The memories of the machine outside the groups' buffers are in canonical form. -/
def State.memOk (s : State) : Bool := s.mem.wf && s.cairn.wf && s.dev.hostMem.wf

/-- The machine goes on from `s`: the next step neither faults nor refuses. -/
def State.goesOn (s : State) : Prop := ∃ t, step s = .next t

/-- Nothing changes outside the stream that has the turn. -/
def sameOutside (s t : State) : Prop := t = s.setW t.w

/-- The registers of the trap frame, the mode and the scratch words stay (R395 to R402). -/
def sameFrame (a b : Wave) : Prop :=
  b.handler = a.handler ∧ b.xpc = a.xpc ∧ b.xcause = a.xcause ∧ b.xword = a.xword ∧ b.xaddr = a.xaddr
    ∧ b.xlane = a.xlane ∧ b.xhpc = a.xhpc ∧ b.xsave = a.xsave ∧ b.replay = a.replay

/-- The token registers, the allocation count, the rays, the pending calls and the latched errors stay. -/
def sameUnits (a b : Wave) : Prop :=
  b.q = a.q ∧ b.c = a.c ∧ b.rays = a.rays ∧ b.jobs = a.jobs ∧ b.errs = a.errs ∧ b.fence = a.fence

/-- Every vector register word stays. -/
def sameV (a b : Wave) : Prop := ∀ n l, VReg.lane (b.rdV n) l = VReg.lane (a.rdV n) l

/-- Every scalar register stays. -/
def sameS (a b : Wave) : Prop := ∀ n, b.rdS n = a.rdS n

/-- The words `m` of a register operand `n` of `k` words. -/
def named (n k m : Nat) : Prop := n ≤ m ∧ m < n + k

/-- A part of a team without what an instruction that executes in it may write: its registers, EXEC, SEED, PC and windows, and what it
remembers of a wait. -/
def HPart.rest (p : HPart) : HPart :=
  { p with pc := 0, prev := 0, exec := 0, s := [], v := [], seed := [], windows := [], drain := none, reached := [] }

/-- The team of a stream, the part that executes as `HPart.rest` has it: a frame about it leaves every other part as it was. -/
def Wave.teamRest (w : Wave) : Option Team :=
  w.team.map (fun t => match w.sel with
    | some k => { t with parts := t.parts.modify k HPart.rest }
    | none => t)

/-- Everything of the stream outside its registers, PC, windows, EXEC, CXM, SEED and scratch words stays, of its team all but those of
the part that executes, and its front end stands where it stood. -/
def sameStream (a b : Wave) : Prop :=
  sameUnits a b ∧ b.flight = a.flight ∧ b.handler = a.handler ∧ b.replay = a.replay ∧ b.xpc = a.xpc
    ∧ b.xcause = a.xcause ∧ b.xword = a.xword ∧ b.xaddr = a.xaddr ∧ b.xlane = a.xlane ∧ b.xhpc = a.xhpc
    ∧ b.live = a.live ∧ b.id = a.id ∧ b.core = a.core ∧ b.slot = a.slot ∧ b.place = a.place ∧ b.halted = a.halted
    ∧ b.stopped = a.stopped ∧ b.gdone = a.gdone ∧ b.belay = a.belay ∧ b.sel = a.sel ∧ b.lentTo = a.lentTo
    ∧ b.request = a.request ∧ b.teamRest = a.teamRest ∧ b.ahead = a.ahead

/-- The instruction has executed and the next one is at the next PC (R61), the windows count it (R23), and the stream waits no more. -/
def advanced (x : Instr) (s t : State) : Prop :=
  t.w.pcNow = s.w.pcNow + 12 ∧ t.w.prevPc = s.w.pcNow ∧ t.w.wins = s.w.windowsAfter x ∧ (s.w.sel = none → t.w.wait = .none)

/-- EXEC, CXM, SEED and the scratch words stay. -/
def sameSpecials (a b : Wave) : Prop :=
  b.execM = a.execM ∧ b.cxm = a.cxm ∧ (∀ l, l < 32 → b.seedOf l = a.seedOf l) ∧ b.xsave = a.xsave

/-- `t` is `s` with the words of `r l` written to the `k` words of D: in lane form in each lane that is in EXEC and
not guarded off, in scalar form once (R87, R91, R105); a special destination takes DATA (R87, R143). Every other
register is unchanged. -/
def wrote (s t : State) (g : Guard) (d : Operand) (k : Nat) (r : Nat → Val) : Prop :=
  match d with
  | .v n =>
    (∀ m l, l < 32 →
      (named n.toNat k m → (s.w.inLanes g).getLsbD l = true → VReg.lane (t.w.rdV m) l = valWord (r l) (m - n.toNat))
      ∧ (¬ (named n.toNat k m ∧ (s.w.inLanes g).getLsbD l = true) →
          VReg.lane (t.w.rdV m) l = VReg.lane (s.w.rdV m) l))
    ∧ sameS s.w t.w ∧ t.w.execM = s.w.execM ∧ t.w.xsave = s.w.xsave
  | .s n =>
    (∀ m, (named n.toNat k m → m ≠ 0 → t.w.rdS m = valWord (r 0) (m - n.toNat))
      ∧ (¬ (named n.toNat k m ∧ m ≠ 0) → t.w.rdS m = s.w.rdS m))
    ∧ sameV s.w t.w ∧ sameSpecials s.w t.w
  | .x c =>
    let y := (valWord (r 0) 0).data
    sameV s.w t.w ∧ sameS s.w t.w
      ∧ t.w.execM = (if c.toNat = 0x00 then (s.w.setExec y).execM else s.w.execM)
      ∧ (c.toNat ≠ 0x18 → t.w.cxm = (if c.toNat = 0x19 then y else s.w.cxm))
      ∧ t.w.xsave = (if 0x4C ≤ c.toNat ∧ c.toNat ≤ 0x4F then s.w.xsave.set (c.toNat - 0x4C) y else s.w.xsave)
      ∧ (∀ l, l < 32 → c.toNat = 0x18 → t.w.seedOf l =
          if (s.w.inLanes g).getLsbD l = true then seedWrite (valWord (r l) 0).data else s.w.seedOf l)
      ∧ (∀ l, l < 32 → c.toNat ≠ 0x18 → t.w.seedOf l = s.w.seedOf l)
  | .i _ => False

/-- The lane effects beside the result (R78, R80): a lane whose result was rounded stochastically has its SEED
advanced, and CXM gains the bits of the lanes whose conversion met a cause, outside helper code. -/
def laneMarks (s t : State) (g : Guard) (r : Nat → LaneRes) : Prop :=
  (∀ l, l < 32 → t.w.seedOf l =
      if (s.w.inLanes g).getLsbD l = true then ((r l).seed).getD (s.w.seedOf l) else s.w.seedOf l)
  ∧ t.w.cxm = (if s.w.sel.isSome then s.w.cxm
      else s.w.cxm ||| laneMask (fun l => (s.w.inLanes g).getLsbD l && (r l).cause))

/-- What an instruction of the lane layouts does where nothing stands in front of it: D is written, the PC moves on,
and nothing else changes. -/
def laneEffect (x : Instr) (s : State) (g : Guard) (d : Operand) (k : Nat) (r : Nat → LaneRes) : Prop :=
  ∃ t, exec x s = .next t ∧ sameOutside s t ∧ sameStream s.w t.w ∧ advanced x s t ∧ wrote s t g d k (fun l => (r l).out)
    ∧ ((∃ n, d = .v n) → laneMarks s t g r)

/-- What an instruction that writes no register of the lane layouts does: the PC goes to `pc`, the windows count the
instruction, and nothing else changes. -/
def movesTo (x : Instr) (s : State) (pc : Word) : Prop :=
  ∃ t, exec x s = .next t ∧ sameOutside s t ∧ sameStream s.w t.w ∧ t.w.pcNow = pc ∧ t.w.prevPc = s.w.pcNow
    ∧ t.w.wins = s.w.windowsAfter x ∧ (s.w.sel = none → t.w.wait = .none) ∧ sameV s.w t.w ∧ sameS s.w t.w ∧ sameSpecials s.w t.w

/-- A state after an instruction that stood at `s`, with what a helper part awaits of it (R155, R156). -/
def State.owing (s t : State) : State := if s.w.sel.isSome then t.setW (t.w.owe s.nextId t.nextId) else t

/-- The instruction executes: its effect makes `u` of the state, the windows count it, and the PC moves on by one
instruction (R61). -/
def completes (x : Instr) (s u : State) : Prop := exec x s = .next (s.owing (retire x u (u.w.pcNow + 12)))

/-- The instruction takes the trap `i` in front of it (R396), where no older result of its stream has met an error, which
comes first (R193, R216). -/
def trapsWith (x : Instr) (s : State) (i : TrapInfo) : Prop := s.w.owedError = none → exec x s = .next (trapAt x s i)

/-- The instruction waits where it stands, as `k` says (R266). -/
def waitsFor (x : Instr) (s : State) (k : Wait) : Prop := exec x s = .next (holdAt s k)

/-- The stream lends no lanes and no result must be written before a trap of it is taken (R400). -/
def State.plain (s : State) : Prop := s.w.lentTo = none ∧ s.w.trapWaits = []

/-- Every register of the executing stream stays. -/
def sameRegs (s t : State) : Prop := sameV s.w t.w ∧ sameS s.w t.w ∧ sameSpecials s.w t.w

/-- The scalar register `d` takes `v`, where it is not s0 (R87), and every other register stays. -/
def scalarOnly (s t : State) (d : Nat) (v : RWord) : Prop :=
  (∀ m, t.w.rdS m = if m = d ∧ d ≠ 0 then v else s.w.rdS m) ∧ sameV s.w t.w ∧ sameSpecials s.w t.w

/-- The scalar register `d` takes `v` and nothing outside the stream changes (R87). -/
def givesScalar (x : Instr) (s : State) (d : Nat) (v : RWord) : Prop :=
  ∃ t, exec x s = .next t ∧ advanced x s t ∧ sameOutside s t ∧ sameStream s.w t.w ∧ scalarOnly s t d v

/-- In the lanes of `k` the words of D, `n` of `cnt` words, read 0 and are invalid, as a nullified instruction leaves
them (R90); every other lane word stays. -/
def lanesNulled (s t : State) (n cnt : Nat) (k : Word) : Prop :=
  ∀ m l, l < 32 →
    (named n cnt m → k.getLsbD l = true → VReg.lane (t.w.rdV m) l = RWord.none)
    ∧ (¬ (named n cnt m ∧ k.getLsbD l = true) → VReg.lane (t.w.rdV m) l = VReg.lane (s.w.rdV m) l)

/-- Every token register but `q` stays. -/
def otherTokens (s t : State) (q : Nat) : Prop := ∀ k, k ≠ q → t.w.tok k = s.w.tok k

/-- No modified line of a compressible page stands in the L2 of a partition, so no line that leaves it writes a compression
tag to memory (R173, R174). -/
def State.quietL2 (s : State) (p : Nat) : Prop := ∀ e ∈ (s.part p).l2, e.dirty = true → e.cmp = false

/-- No access to the device memory of `s` changes a byte on its way: no update-only line is held anywhere (R170), and the L2
writes back no tag. -/
def State.still (s : State) : Prop := (∀ c, (s.core c).upd = []) ∧ s.quietL2 s.w.place.part

/-- A token register after its result has been consumed: V and VALUE stay (R93). -/
def usedToken (y : Token) : Token := { y with st := .empty, fail := false, tl := false }

end Sys2Proof.Machine
end

