-- ==== Sys2Proof/Certificates/Slice0/Obligations.lean ====
section
/-! DEFINITION. The statements for the provers. -/

open Sys2Proof Sys2Proof.Machine

/-! Lane instructions. -/

/-- Completion and frame of the integer, bit and bit-field instructions (R110 to R114): where nothing stands in front
of the instruction it executes and writes to D, lane by lane, the result of its entry on the operands it consumes. That a 64-bit
result whose D is a special operand stores its low word is the model's choice (log 130, DESIGN CHOICE). -/
def Obligations.IntegerLaneResults : Prop :=
  ∀ (o : LaneOp) (b : Bool) (s : State), s.w.lentTo = none →
    ∀ (x : Instr) (p : Ports) (f : LaneFn),
      (x, p, f) ∈
        [(Instr.add o, Ports.dab o.ty, addF o.ty), (.sub o, .dab o.ty, subF o.ty), (.mul o, .dab o.ty, mulF o.ty),
         (.mulhi o, .dab o.ty, mulhiF o.ty), (.mad o, .acc o.ty, madF o.ty), (.min o, .dab o.ty, minF o.ty),
         (.max o, .dab o.ty, maxF o.ty), (.abs o, .da o.ty, absF o.ty), (.neg o, .da o.ty, negF o.ty),
         (.addsat o b, .dab o.ty, addsatF o.ty b), (.and o, .dab o.ty, andF), (.or o, .dab o.ty, orF),
         (.xor o, .dab o.ty, xorF), (.andn o, .dab o.ty, andnF o.ty), (.not o, .da o.ty, notF o.ty),
         (.shl o, .count o.ty, shlF o.ty), (.shr o, .count o.ty, shrF o.ty), (.sar o, .count o.ty, sarF o.ty),
         (.rot o b, .count o.ty, rotF o.ty b), (.bfe o b, .count o.ty, bfeF o.ty b),
         (.bfi o, { Ports.count o.ty with kd := typeWords o.ty }, bfiF o.ty),
         (.popc o, (Ports.da o.ty).one, popcF o.ty), (.clz o, (Ports.da o.ty).one, clzF o.ty),
         (.ctz o, (Ports.da o.ty).one, ctzF o.ty), (.brev o, .da o.ty, brevF o.ty),
         (.pfxpop o, (Ports.count o.ty).one, pfxpopF o.ty), (.isect o, .dab o.ty, isectF),
         (.bclr o false, .count o.ty, bclrF o.ty), (.bclr o true, .da o.ty, bclrLowF),
         (.dot4 o b, ⟨.b32, 1, .b32, 1, 1, 1⟩, dot4F o.ty b)] →
      s.clear x = true → laneEffect x s o.h.guard o.d p.kr (s.laneRes p o f)

/-- Completion and frame of the compare, validity and move instructions (R115 to R117). That MOV, SEL and MOVI of 64 bits with a
special D store the low word is the model's choice (log 130, DESIGN CHOICE). -/
def Obligations.CompareAndMoveResults : Prop :=
  ∀ (o : LaneOp) (r : Rel) (s : State), s.w.lentTo = none →
    (∀ (x : Instr) (p : Ports) (f : LaneFn),
      (x, p, f) ∈
        [(Instr.cmp o r, (Ports.dab o.ty).one, cmpF o.ty r), (.fcmp o r, (Ports.dab o.ty).one, fcmpF o.ty r),
         (.setv o, .da o.ty, setvF), (.mkv o, .dab o.ty, mkvF), (.inv o, .da o.ty, invF), (.isv o, .da o.ty, isvF),
         (.mov o, .da o.ty, movF)] →
      s.clear x = true → laneEffect x s o.h.guard o.d p.kr (s.laneRes p o f))
    ∧ (∀ c, s.clear (.sel o c) = true →
        laneEffect (.sel o c) s o.h.guard o.d (typeWords o.ty) (fun l =>
          let v := s.operands (Ports.dab o.ty) o l
          ⟨if (s.rdOp .b32 1 c l).valid then v.1 else v.2.1, none, false⟩))
    ∧ (∀ h d ty imm, s.clear (.movi h d ty imm) = true →
        laneEffect (.movi h d ty imm) s h.guard d (typeWords ty) (fun _ =>
          LaneRes.ok (imm.signExtend (32 * typeWords ty)).toNat))
    ∧ (∀ h d imm, s.clear (.movh h d imm) = true →
        laneEffect (.movh h d imm) s h.guard d 1 (fun l => movhRes imm (s.rdOp .b32 1 d l)))

/-- Completion and frame of the floating-point instructions whose results are written at once (R118 to R122), and values of theirs
(R74, R77, R78, R118, R121): an operand that is NaN, ∞ − ∞ and 0 × ∞ give the canonical NaN in every mode; under rst the SEED advances;
FABS and FNEG change the sign bit of every operand that is no NaN, FMIN and FMAX give way to it and put −0 below +0, FCLASS names its
class; and ties, directed roundings, overflow, an exact zero sum, the one rounding of FFMA, subnormals and integral values come out as
the modes say. That the written value stands over the advanced state where D is SEED is the model's reading (log 31, DEDUCED). -/
def Obligations.FloatLaneResults : Prop :=
  (∀ (o : LaneOp) (s : State), s.w.lentTo = none →
    ∀ (x : Instr) (p : Ports) (f : LaneFn),
      (x, p, f) ∈
        [(Instr.fadd o, Ports.dab o.ty, faddF o.ty o.rnd), (.fsub o, .dab o.ty, fsubF o.ty o.rnd),
         (.fmul o, .dab o.ty, fmulF o.ty o.rnd), (.ffma o, .acc o.ty, ffmaF o.ty o.rnd),
         (.fmin o, .dab o.ty, fminF o.ty), (.fmax o, .dab o.ty, fmaxF o.ty), (.fabs o, .da o.ty, fabsF o.ty),
         (.fneg o, .da o.ty, fnegF o.ty), (.fclass o, (Ports.da o.ty).one, fclassF o.ty),
         (.fdp4 o, ⟨.b32, 1, .b32, 1, 1, 1⟩, fdp4F o.ty o.rnd), (.frnd o, .da o.ty, frndF o.ty o.rnd)] →
      s.clear x = true → laneEffect x s o.h.guard o.d p.kr (s.laneRes p o f))
  ∧ (∀ (t : ElemType) (nan : BitVec 64), (t, nan) ∈ [(ElemType.f32, 0x7FC00000), (.f16, 0x7E00), (.bf16, 0x7FC0)] →
      ∀ (rnd : Rnd) (sd : Word) (X Y D : Val), X.valid = true → Y.valid = true → D.valid = true →
        let x := decodeElem t X.bits.toNat
        let y := decodeElem t Y.bits.toNat
        let next : Word :=
          let a := sd ^^^ (sd <<< 13)
          let b := a ^^^ (a >>> 17)
          b ^^^ (b <<< 5)
        let bad : LaneRes := ⟨⟨nan, true⟩, if rnd = .rst then some next else none, false⟩
        (x = .nan ∨ y = .nan → faddF t rnd sd X Y D = bad ∧ fsubF t rnd sd X Y D = bad ∧ fmulF t rnd sd X Y D = bad)
        ∧ (x = .nan ∨ y = .nan ∨ decodeElem t D.bits.toNat = .nan → ffmaF t rnd sd X Y D = bad)
        ∧ (∀ n, x = .inf n → y = .inf (!n) → faddF t rnd sd X Y D = bad)
        ∧ (∀ n, x = .inf n → y = .inf n → fsubF t rnd sd X Y D = bad)
        ∧ (∀ n m k, x = .inf n → y = .fin m 0 k → fmulF t rnd sd X Y D = bad ∧ fmulF t rnd sd Y X D = bad))
  ∧ (∀ (w fb : Nat) (t : ElemType) (nan : Nat),
      (w, fb, t, nan) ∈ [(32, 23, ElemType.f32, 0x7FC00000), (16, 10, .f16, 0x7E00), (16, 7, .bf16, 0x7FC0)] →
      ∀ (sd : Word) (D : Val) (x : BitVec w), D.valid = true →
        let X : Val := ⟨x.setWidth 64, true⟩
        let N : Val := ⟨BitVec.ofNat 64 nan, true⟩
        let r (z : BitVec w) : LaneRes := ⟨⟨z.setWidth 64, true⟩, none, false⟩
        let e := x.toNat % 2 ^ (w - 1) / 2 ^ fb
        let f := x.toNat % 2 ^ fb
        let top := 2 ^ (w - 1 - fb) - 1
        (e = top ∧ f ≠ 0 → ∀ z ∈ [fnegF t sd X D D, fabsF t sd X D D, fminF t sd X N D, fmaxF t sd N X D],
          z = r (BitVec.ofNat w nan))
        ∧ (¬ (e = top ∧ f ≠ 0) → fnegF t sd X D D = r (x ^^^ BitVec.intMin w) ∧ fabsF t sd X D D = r (x &&& ~~~BitVec.intMin w)
            ∧ fminF t sd X N D = r x ∧ fminF t sd N X D = r x ∧ fmaxF t sd X N D = r x ∧ fmaxF t sd N X D = r x)
        ∧ fclassF t sd X D D = ⟨⟨BitVec.ofNat 64 (2 ^
            (if e = top ∧ f ≠ 0 then 8
             else if x.msb then (if e = top then 0 else if e ≠ 0 then 1 else if f ≠ 0 then 2 else 3)
             else (if e = top then 7 else if e ≠ 0 then 6 else if f ≠ 0 then 5 else 4))), true⟩, none, false⟩)
  ∧ (∀ sd : Word,
      let v (n : Nat) : Val := ⟨BitVec.ofNat 64 n, true⟩
      let r (n : Nat) : LaneRes := ⟨v n, none, false⟩
      (∀ x y zs, (x, y, zs) ∈ [(0x3F800000, 0x33800000, [0x3F800000, 0x3F800000, 0x3F800001, 0x3F800000]),
          (0x3F800001, 0x33800000, [0x3F800002, 0x3F800001, 0x3F800002, 0x3F800001]),
          (0xBF800000, 0xB3800000, [0xBF800000, 0xBF800000, 0xBF800000, 0xBF800001]),
          (0x7F7FFFFF, 0x7F7FFFFF, [0x7F800000, 0x7F7FFFFF, 0x7F800000, 0x7F7FFFFF]),
          (0xFF7FFFFF, 0xFF7FFFFF, [0xFF800000, 0xFF7FFFFF, 0xFF7FFFFF, 0xFF800000]),
          (0x3F800000, 0xBF800000, [0, 0, 0, 0x80000000])] →
        [Rnd.rne, .rz, .rup, .rdn].map (fun m => faddF .f32 m sd (v x) (v y) (v 0)) = zs.map r)
      ∧ (∀ m ∈ [Rnd.rne, .rz, .rup, .rdn],
          ffmaF .f32 m sd (v 0x3F800001) (v 0x3F800001) (v 0xBF800002) = r 0x28800000)
      ∧ [Rnd.rne, .rz, .rup, .rdn].map (fun m => fmulF .f32 m sd (v 0x00800000) (v 0x3F000001) (v 0))
          = [0x00400000, 0x00400000, 0x00400001, 0x00400000].map r
      ∧ [Rnd.rne, .rz, .rup, .rdn].map (fun m => frndF .f32 m sd (v 0x40200000) (v 0) (v 0))
          = [0x40000000, 0x40000000, 0x40400000, 0x40000000].map r
      ∧ [Rnd.rne, .rz, .rup, .rdn].map (fun m => frndF .f32 m sd (v 0xBF000000) (v 0) (v 0))
          = [0x80000000, 0x80000000, 0x80000000, 0xBF800000].map r
      ∧ fminF .f32 sd (v 0x80000000) (v 0) (v 0) = r 0x80000000 ∧ fmaxF .f32 sd (v 0x80000000) (v 0) (v 0) = r 0)

/-- Completion and frame of the conversions (R123 to R128). BLKPK writes two registers, the element codes of the acting
lanes and the scale of each lane's block. Values of theirs (R78 to R80, R124 to R128): FROM equal to TYPE keeps every value but a NaN;
a 32-bit integer into a narrower one saturates with a cause; every e4m3 value goes through f32 and back; NaN, infinities and values out of
range give the codes and the causes of R79; the directed roundings of 2.5 into an integer; the example of R78; elements packed, unpacked
and scaled, an X of 255 without a cause. That a scalar form leaves CXM alone (log 30, DEDUCED), that the written value stands over the advanced state
where D is SEED (log 31, DEDUCED), that an immediate of UNPACK is read as FROM (log 34, DEDUCED), and that a 64-bit CVT with a special D
stores the low word (log 130, DESIGN CHOICE) are the model's choices. -/
def Obligations.ConversionResults : Prop :=
  (∀ (o : LaneOp) (fr : ElemType) (k : BitVec 3) (s : State), s.w.lentTo = none →
    (∀ (x : Instr) (p : Ports) (f : LaneFn),
      (x, p, f) ∈
        [(Instr.cvt o fr, ⟨fr, typeWords fr, fr, 0, 0, typeWords o.ty⟩, cvtF o.ty fr o.rnd),
         (.pack o fr k, ⟨fr, 1, fr, 1, if packWidth o.ty < 16 then 1 else 0, 1⟩, packF o.ty fr o.rnd k.toNat),
         (.unpack o fr k, ⟨fr, 1, fr, 0, 0, 1⟩, unpackF o.ty fr o.rnd k.toNat),
         (.blkup o fr, ⟨fr, 1, .n32, 1, 0, 1⟩, blkupF o.ty fr o.rnd)] →
      s.clear x = true → laneEffect x s o.h.guard o.d p.kr (s.laneRes p o f))
    ∧ (∀ len n c, o.d = .v n → s.clear (.blkpk o fr len (.v c)) = true →
        let act := laneMask (fun l => (s.w.inLanes o.h.guard).getLsbD l && (s.rdOp .f32 1 o.a l).valid)
        let X (l : Nat) := s.laneScale o act (blockLen len) l
        ∃ t, exec (.blkpk o fr len (.v c)) s = .next t ∧ sameOutside s t ∧ sameStream s.w t.w
          ∧ advanced (.blkpk o fr len (.v c)) s t ∧ sameS s.w t.w ∧ t.w.execM = s.w.execM
          ∧ ∀ m l, l < 32 →
              VReg.lane (t.w.rdV m) l =
                if (s.w.inLanes o.h.guard).getLsbD l = true ∧ m = c.toNat then
                  (if act.getLsbD l = true then ⟨BitVec.ofNat 32 (X l).1, true⟩ else RWord.none)
                else if (s.w.inLanes o.h.guard).getLsbD l = true ∧ m = n.toNat then
                  (if act.getLsbD l = true then
                    ⟨BitVec.ofNat 32 (widen o.ty (blockElem o.ty o.rnd (s.w.seedOf l) (X l).1 (X l).2
                      (decodeElem .f32 (s.rdOp .f32 1 o.a l).bits.toNat)).1), true⟩
                   else RWord.none)
                else VReg.lane (s.w.rdV m) l))
  ∧ (∀ (sd : Word) (m : Rnd) (D : Val), m ≠ .rst → D.valid = true →
      let v (n : Nat) : Val := ⟨BitVec.ofNat 64 n, true⟩
      let r (n : Nat) (cause : Bool) : LaneRes := ⟨v n, none, cause⟩
      (∀ w fb t nan, (w, fb, t, nan) ∈ [(32, 23, ElemType.f32, 0x7FC00000), (16, 10, .f16, 0x7E00), (16, 7, .bf16, 0x7FC0)] →
        ∀ x : BitVec w, cvtF t t m sd (v x.toNat) D D =
          r (if x.toNat % 2 ^ (w - 1) / 2 ^ fb = 2 ^ (w - 1 - fb) - 1 ∧ x.toNat % 2 ^ fb ≠ 0 then nan else x.toNat) false)
      ∧ (∀ x : Word,
        (∀ w t, (w, t) ∈ [(8, ElemType.i8), (16, .i16)] →
          let lo : Int := -(2 ^ (w - 1))
          let hi : Int := 2 ^ (w - 1) - 1
          let z := if x.toInt < lo then lo else if hi < x.toInt then hi else x.toInt
          cvtF t .i32 m sd (v x.toNat) D D = r (BitVec.ofInt 32 z).toNat (decide (z ≠ x.toInt)))
        ∧ (∀ w t, (w, t) ∈ [(8, ElemType.n8), (16, .n16), (32, .n32)] →
          let hi : Int := 2 ^ w - 1
          let z := if x.toInt < 0 then 0 else if hi < x.toInt then hi else x.toInt
          cvtF t .i32 m sd (v x.toNat) D D = r z.toNat (decide (z ≠ x.toInt))))
      ∧ (∀ c, c < 255 → ∃ z, cvtF .f32 .e4m3 m sd (v c) D D = r z false ∧ cvtF .e4m3 .f32 m sd (v z) D D = r c false)
      ∧ (∀ t x z cause, (t, x, z, cause) ∈ [(ElemType.i32, 0x7FC00000, 0, true), (.e2m1, 0x7FC00000, 0, true), (.f16, 0x7FC00001, 0x7E00, false),
          (.i32, 0x7F800000, 0x7FFFFFFF, true), (.i32, 0xFF800000, 0x80000000, true), (.n32, 0xFF800000, 0, true),
          (.f16, 0x7F800000, 0x7BFF, true), (.e4m3, 0xFF800000, 0xFE, true), (.e8m0, 0x7F800000, 0xFE, true),
          (.n8, 0xBF800000, 0, true), (.i8, 0x43000000, 0x7F, true)] → cvtF t .f32 m sd (v x) D D = r z cause)
      ∧ packF .f16 .f32 m 0 sd (v 0x3F800000) (v 0x40000000) D = r 0x40003C00 false
      ∧ packF .f16 .f32 m 0 sd (v 0x3F800000) (v 0x7F800000) D = r 0x7BFF3C00 true
      ∧ unpackF .f32 .e4m3 m 1 sd (v 0x7C3800) D D = r 0x3F800000 false
      ∧ unpackF .n32 .e4m3 m 1 sd (v 0xB800) D D = r 0 true
      ∧ blkupF .f32 .e4m3 m sd (v 0x7C) (v 0x7D) D = r 0x42C00000 false
      ∧ blkupF .f32 .e4m3 m sd (v 0x7C) (v 0xFF) D = r 0x7FC00000 false
      ∧ blkupF .f16 .e4m3 m sd (v 0x7E) (v 0xF0) D = r 0x7BFF true)
  ∧ (∀ (sd : Word) (D : Val), D.valid = true →
      let v (n : Nat) : Val := ⟨BitVec.ofNat 64 n, true⟩
      let r (n : Nat) (cause : Bool) : LaneRes := ⟨v n, none, cause⟩
      [Rnd.rne, .rz, .rup, .rdn].map (fun m => cvtF .i32 .f32 m sd (v 0x40200000) D D) = [2, 2, 3, 2].map (r · false)
      ∧ [Rnd.rne, .rz, .rup, .rdn].map (fun m => cvtF .i32 .f32 m sd (v 0xC0200000) D D)
          = [0xFFFFFFFE, 0xFFFFFFFE, 0xFFFFFFFE, 0xFFFFFFFD].map (r · false)
      ∧ cvtF .e4m3 .f32 .rne sd (v 0x43E80000) D D = r 0x7E false ∧ cvtF .e4m3 .f32 .rne sd (v 0x43E80001) D D = r 0x7E true
      ∧ cvtF .bf16 .f32 .rst 0x2545F491 (v 0x3F804000) D D = ⟨v 0x3F80, some 0xE124B63A, false⟩)

/-- What a long-latency lane instruction does when it is issued (R26, R69): its results are computed from the operands
as they stand and written when they land; the entry in flight names D, the lanes written and the results. No register
changes yet, but SEED follows R78. Values of theirs (R77, R118 to R120): FDIV of a NaN, 0/0 and ∞/∞ give the canonical NaN,
x/0 an infinity of the signs' XOR and 1/3 the rounded quotient; the table of the special values of FSQRT to FTANH in every mode, and exact
and directed results of theirs. -/
def Obligations.LongLatencyLaneResults : Prop :=
  (∀ (o : LaneOp) (s : State), s.w.lentTo = none →
    ∀ (x : Instr) (p : Ports) (f : LaneFn),
      (x, p, f) ∈
        [(Instr.div o, Ports.dab o.ty, divF o.ty), (.rem o, .dab o.ty, remF o.ty),
         (.fdiv o, .dab o.ty, fdivF o.ty o.rnd), (.fsqrt o, .da o.ty, float1 o.ty o.rnd fsqrtVal),
         (.frcp o, .da o.ty, float1 o.ty o.rnd frcpVal), (.frsq o, .da o.ty, float1 o.ty o.rnd frsqVal),
         (.fexp2 o, .da o.ty, float1 o.ty o.rnd fexp2Val), (.flog2 o, .da o.ty, float1 o.ty o.rnd flog2Val),
         (.fsin o, .da o.ty, float1 o.ty o.rnd fsinVal), (.fcos o, .da o.ty, float1 o.ty o.rnd fcosVal),
         (.ftanh o, .da o.ty, float1 o.ty o.rnd ftanhVal)] →
      s.clear x = true → (∀ c, o.d ≠ .x c) →
      let m : Word := if perLane o.d then s.w.inLanes o.h.guard else 1
      ∃ t e, exec x s = .next t ∧ t.w.flight = s.w.flight ++ [e] ∧ advanced x s t ∧ sameV s.w t.w ∧ sameS s.w t.w
        ∧ t.mem = s.mem ∧ t.waves = s.waves ∧ e.dests = writes x ∧ e.wlanes = m ∧ e.waits = [] ∧ e.bad = 0
        ∧ e.res = (List.range p.kr).map (fun j =>
            laneList.map (fun l => if m.getLsbD l then valWord (s.laneRes p o f l).out j else RWord.none))
        ∧ (∀ l, l < 32 → t.w.seedOf l =
            if perLane o.d = true ∧ m.getLsbD l = true then ((s.laneRes p o f l).seed).getD (s.w.seedOf l)
            else s.w.seedOf l))
  ∧ (∀ (t : ElemType) (nan : BitVec 64) (inf sign : Nat),
      (t, nan, inf, sign) ∈ [(ElemType.f32, 0x7FC00000, 0x7F800000, 0x80000000), (.f16, 0x7E00, 0x7C00, 0x8000), (.bf16, 0x7FC0, 0x7F80, 0x8000)] →
      ∀ (rnd : Rnd) (sd : Word) (X Y D : Val), X.valid = true → Y.valid = true → D.valid = true →
        let x := decodeElem t X.bits.toNat
        let y := decodeElem t Y.bits.toNat
        (x = .nan ∨ y = .nan → (fdivF t rnd sd X Y D).out = ⟨nan, true⟩)
        ∧ (∀ n m, x = .inf n → y = .inf m → (fdivF t rnd sd X Y D).out = ⟨nan, true⟩)
        ∧ (∀ n m j k, x = .fin n 0 j → y = .fin m 0 k → (fdivF t rnd sd X Y D).out = ⟨nan, true⟩)
        ∧ (∀ n m j i k, x = .fin n (i + 1) j → y = .fin m 0 k →
            (fdivF t rnd sd X Y D).out = ⟨BitVec.ofNat 64 (inf + if n = m then 0 else sign), true⟩)
        ∧ (x = .nan → ∀ f ∈ [fsqrtVal, frcpVal, frsqVal, fexp2Val, flog2Val, fsinVal, fcosVal, ftanhVal],
            (float1 t rnd f sd X D D).out = ⟨nan, true⟩))
  ∧ (∀ (sd : Word) (m : Rnd),
      let v (n : Nat) : Val := ⟨BitVec.ofNat 64 n, true⟩
      let at_ (f : XVal → XVal) (x : Nat) : Val := (float1 .f32 m f sd (v x) (v 0) (v 0)).out
      let xs := [0xFF800000, 0x80000000, 0, 0x7F800000]
      xs.map (at_ fsqrtVal) = [0x7FC00000, 0x80000000, 0, 0x7F800000].map v
      ∧ xs.map (at_ frcpVal) = [0x80000000, 0xFF800000, 0x7F800000, 0].map v
      ∧ xs.map (at_ frsqVal) = [0x7FC00000, 0xFF800000, 0x7F800000, 0].map v
      ∧ xs.map (at_ fexp2Val) = [0, 0x3F800000, 0x3F800000, 0x7F800000].map v
      ∧ xs.map (at_ flog2Val) = [0x7FC00000, 0xFF800000, 0xFF800000, 0x7F800000].map v
      ∧ xs.map (at_ fsinVal) = [0x7FC00000, 0x80000000, 0, 0x7FC00000].map v
      ∧ xs.map (at_ fcosVal) = [0x7FC00000, 0x3F800000, 0x3F800000, 0x7FC00000].map v
      ∧ xs.map (at_ ftanhVal) = [0xBF800000, 0x80000000, 0, 0x3F800000].map v
      ∧ at_ fsqrtVal 0xC0000000 = v 0x7FC00000 ∧ at_ frsqVal 0xC0000000 = v 0x7FC00000 ∧ at_ flog2Val 0xC0000000 = v 0x7FC00000
      ∧ at_ fsqrtVal 0x40800000 = v 0x40000000 ∧ at_ frcpVal 0x40000000 = v 0x3F000000 ∧ at_ frsqVal 0x40800000 = v 0x3F000000
      ∧ at_ fexp2Val 0x40400000 = v 0x41000000 ∧ at_ flog2Val 0x41000000 = v 0x40400000
      ∧ at_ fsinVal 0x3F000000 = v 0x3F800000 ∧ at_ fcosVal 0x3F000000 = v 0 ∧ at_ fsinVal 0xC0400000 = v 0x80000000
      ∧ at_ fcosVal 0x40400000 = v 0xBF800000)
  ∧ (∀ sd : Word,
      let v (n : Nat) : Val := ⟨BitVec.ofNat 64 n, true⟩
      let r (n : Nat) : LaneRes := ⟨v n, none, false⟩
      let modes := [Rnd.rne, .rz, .rup, .rdn]
      modes.map (fun m => fdivF .f32 m sd (v 0x3F800000) (v 0x40400000) (v 0)) = [0x3EAAAAAB, 0x3EAAAAAA, 0x3EAAAAAB, 0x3EAAAAAA].map r
      ∧ modes.map (fun m => float1 .f32 m fsqrtVal sd (v 0x40000000) (v 0) (v 0)) = [0x3FB504F3, 0x3FB504F3, 0x3FB504F4, 0x3FB504F3].map r
      ∧ modes.map (fun m => float1 .f32 m fexp2Val sd (v 0x43800000) (v 0) (v 0)) = [0x7F800000, 0x7F7FFFFF, 0x7F800000, 0x7F7FFFFF].map r
      ∧ modes.map (fun m => float1 .f32 m fexp2Val sd (v 0xC3800000) (v 0) (v 0)) = [0, 0, 1, 0].map r)

/-- The landing of a result in flight (R26): each of its words is written to its destination in the lanes it names, one register
after another, as the pairs of LD, LDS, LDTB, DIV and CTREAD and the old word and condition word of CAS ask, and no other register
changes; s0 keeps reading 0 (R87). -/
def Obligations.LandingWritesDestinations : Prop :=
  ∀ (w : Wave) (e : Entry), e.dests.Nodup → e.dests.length = e.res.length →
    (∀ (i n : Nat) (v : VReg), e.dests[i]? = some (.v n) → e.res[i]? = some v → ∀ l, l < 32 →
      VReg.lane ((landEntry w e).rdV n) l = if e.wlanes.getLsbD l = true then VReg.lane v l else VReg.lane (w.rdV n) l)
    ∧ (∀ (i n : Nat) (v : VReg), e.dests[i]? = some (.s n) → e.res[i]? = some v →
      (landEntry w e).rdS n = if n ≠ 0 ∧ e.wlanes.getLsbD 0 = true then v.getD 0 RWord.none else w.rdS n)
    ∧ (∀ n, Reg.v n ∉ e.dests → ∀ l, l < 32 → VReg.lane ((landEntry w e).rdV n) l = VReg.lane (w.rdV n) l)
    ∧ (∀ n, Reg.s n ∉ e.dests → (landEntry w e).rdS n = w.rdS n)

/-- The cross-lane instructions (R129 to R133): with an invalid mask they are nullified, with a participating lane
outside the mask they trap MEMBER, and otherwise each participating lane (of BALLOT and V2S: the stream) gets the
entry's result from the contributions of the members. That V2S writes D under every guard and masks no lane (log 32, DESIGN CHOICE)
and that a lane of SHFL that keeps its own word copies it as it is, an invalid one too, which nullifies nothing (log 33, DEDUCED), are
the model's choices, and so is that a 64-bit result with a special D stores its low word (log 130, DESIGN CHOICE). -/
def Obligations.CrossLaneResults : Prop :=
  ∀ (o : LaneOp) (mask : Operand) (s : State), s.plain →
    (∀ (x : Instr) (k : Nat) (f : Word → (Nat → Val) → Nat → LaneRes),
      (∃ m r op ex, (x, k, f) ∈
        [(Instr.shfl o m mask, typeWords o.ty, shflRes o m s),
         (.ballot o mask, typeWords o.ty, fun m c _ => ballotRes m c),
         (.vote o r mask, typeWords o.ty, fun m c _ => voteRes r m c),
         (.redux o op mask, typeWords o.ty, fun m c _ => reduxRes op o.ty o.rnd m c),
         (.scan o op ex mask, typeWords o.ty, fun m c l => scanRes op o.ty o.rnd ex m c l),
         (.matchLanes o mask, 1, fun m c l => matchRes m c l),
         (.firstl o mask, typeWords o.ty, fun m c _ => firstlRes m c)]) →
      s.clear x = true →
        let v := s.rdW mask
        let out := s.w.inLanes o.h.guard &&& ~~~(v.bits.setWidth 32)
        (v.valid = false → laneEffect x s o.h.guard o.d k (fun _ => LaneRes.null))
        ∧ (v.valid = true → out ≠ 0 → trapsWith x s { cause := .member, lanes := out })
        ∧ (v.valid = true → out = 0 →
            laneEffect x s o.h.guard o.d k (f (v.bits.setWidth 32) (fun l =>
              if (s.w.inLanes o.h.guard).getLsbD l then s.rdOp .b32 (typeWords o.ty) o.a l else Val.none))))
    ∧ (s.clear (.v2s o) = true →
        laneEffect (.v2s o) s o.h.guard o.d (typeWords o.ty) (fun _ => ⟨s.v2sVal o, none, false⟩))

/-! Control flow. -/

/-- The branches (R61, R134 to R141): where each goes, and that it changes nothing else; CALL writes its link. In BRU the
lowest EXEC lane decides; with EXEC 0 it falls through; in checked mode a differing lane traps UNIFORMITY. -/
def Obligations.BranchesGoWhereTheySay : Prop :=
  ∀ (h : Hdr) (a d : BitVec 8) (off : BitVec 28) (inv : Bool) (s : State), s.w.lentTo = none →
    let here := s.w.pcNow
    let there := here + 12 * off.signExtend 32
    (s.clear (.nop h) = true → movesTo (.nop h) s (here + 12))
    ∧ (s.clear (.bra h off) = true → movesTo (.bra h off) s there)
    ∧ (∀ c nz, s.clear (.braCond h c off nz) = true →
        let v := s.rdW c
        movesTo (.braCond h c off nz) s
          (if v.valid = true ∧ ((v.bits ≠ 0) ↔ (nz = true)) then there else here + 12))
    ∧ (∀ w, s.clear (.brv h a off w) = true →
        let valid (l : Nat) : Prop := l < 32 ∧ s.w.execM.getLsbD l = true ∧ (VReg.lane (s.w.rdV a.toNat) l).valid = true
        let acting (l : Nat) : Prop := l < 32 ∧ s.w.execM.getLsbD l = true
        (match w with
          | .any => ((∃ l, valid l) → movesTo (.brv h a off w) s there)
              ∧ ((¬ ∃ l, valid l) → movesTo (.brv h a off w) s (here + 12))
          | .all => ((∀ l, acting l → valid l) → movesTo (.brv h a off w) s there)
              ∧ ((¬ ∀ l, acting l → valid l) → movesTo (.brv h a off w) s (here + 12))
          | .none => ((¬ ∃ l, valid l) → movesTo (.brv h a off w) s there)
              ∧ ((∃ l, valid l) → movesTo (.brv h a off w) s (here + 12))))
    ∧ (s.clear (.ret h a) = true →
        movesTo (.ret h a) s (if (s.w.rdS a.toNat).valid then (s.w.rdS a.toNat).data else here + 12))
    ∧ (∀ b, s.clear (.jmpi h a b) = true →
        let y := s.rdOp .i32 1 b 0
        movesTo (.jmpi h a b) s (if (s.w.rdS a.toNat).valid && y.valid
          then (s.w.rdS a.toNat).data + 12 * y.bits.setWidth 32 else here + 12))
    ∧ (s.clear (.call h d off) = true →
        ∃ t, exec (.call h d off) s = .next t ∧ t.w.pcNow = there ∧ sameOutside s t ∧ sameStream s.w t.w
          ∧ sameV s.w t.w ∧ sameSpecials s.w t.w
          ∧ ∀ m, t.w.rdS m = if m = d.toNat ∧ m ≠ 0 then ⟨here + 12, true⟩ else s.w.rdS m)
    ∧ (s.w.trapWaits = [] →
        let word (l : Nat) := VReg.lane (s.w.rdV a.toNat) l
        (s.clear (.bru h a off inv) = true →
          let go (l : Nat) : Bool := (word l).valid != inv
          (s.w.execM = 0 → movesTo (.bru h a off inv) s (s.w.pcNow + 12))
          ∧ (∀ l0 ls, lanesOf s.w.execM = l0 :: ls →
              let d := laneMask (fun l => s.w.execM.getLsbD l && go l != go l0)
              (s.w.place.bruFree = false → d ≠ 0 → trapsWith (.bru h a off inv) s { cause := .uniformity, lanes := d })
              ∧ (s.w.place.bruFree = true ∨ d = 0 →
                  movesTo (.bru h a off inv) s
                    (if go l0 then s.w.pcNow + 12 * off.signExtend 32 else s.w.pcNow + 12))))
        ∧ (s.clear (.bruReg h a) = true →
          (s.w.execM = 0 → movesTo (.bruReg h a) s (s.w.pcNow + 12))
          ∧ (∀ l0 ls, lanesOf s.w.execM = l0 :: ls →
              let d := laneMask (fun l => s.w.execM.getLsbD l && decide (word l ≠ word l0))
              (s.w.place.bruFree = false → d ≠ 0 → trapsWith (.bruReg h a) s { cause := .uniformity, lanes := d })
              ∧ (s.w.place.bruFree = true ∨ d = 0 →
                  movesTo (.bruReg h a) s (if (word l0).valid then (word l0).data else s.w.pcNow + 12)))))

/-- VMASK (R142) writes the mask of the EXEC lanes whose word has the named validity to a scalar register or to
EXEC. -/
def Obligations.ValidityMask : Prop :=
  ∀ (h : Hdr) (d : Operand) (a : BitVec 8) (inv : Bool) (s : State), s.w.lentTo = none →
    s.clear (.vmask h d a inv) = true →
    let m := laneMask (fun l => s.w.execM.getLsbD l && (VReg.lane (s.w.rdV a.toNat) l).valid != inv)
    laneEffect (.vmask h d a inv) s h.guard d 1 (fun _ => ⟨⟨m.setWidth 64, true⟩, none, false⟩)

/-- The group barrier (R145, R146), YIELD (R147) and HALT (R148). The last wave to arrive completes BAR at once
and begins a new generation; one that finds another still missing waits where it stands. YIELD without a yield request
is over at once; with one it waits where it stands. HALT raises the oldest latched copy error, or ends the stream; a wave with a team
first lets its parts come to their boundary, releases them and reports a fault of theirs, and a belay stream first waits for its slots
and matrix instructions and delivers a recorded fault (R148, R232, R233, R299). That a belay stream waits for matrix instructions that
name no slot (log 158, DESIGN CHOICE) and that a recruiter's helper fault comes before a latched copy error (log 57, DEDUCED) are the
model's choices. -/
def Obligations.BarrierYieldAndHalt : Prop :=
  ∀ (h : Hdr) (sc : Scope) (s : State), s.w.lentTo = none →
    (s.clear (.bar h sc) = true → s.w.wait = .none → ∀ x : Grp,
      let u := s.sendWaveLines
      let g := s.w.id.gang
      let j := s.w.id.group
      let joined := if x.joined.contains s.w.id.wave then x.joined else x.joined ++ [s.w.id.wave]
      u.grp? g j = some x → u.releaseIds sc = [] → u.remoteErr true sc = none →
      (u.barFull g j joined = true →
        ∃ t, exec (.bar h sc) s = .next t ∧ t.w.pcNow = s.w.pcNow + 12 ∧ sameV s.w t.w ∧ sameS s.w t.w
          ∧ t.grp? g j = some { x with gen := x.gen + 1, joined := [] })
      ∧ (u.barFull g j joined = false →
        ∃ t, exec (.bar h sc) s = .next t ∧ t.w.pcNow = s.w.pcNow ∧ sameV s.w t.w ∧ sameS s.w t.w
          ∧ t.grp? g j = some { x with joined := joined } ∧ (s.w.sel = none → t.w.wait = .bar x.gen)))
    ∧ (s.clear (.yield h) = true →
      (s.yreqOf s.w = false → movesTo (.yield h) s (s.w.pcNow + 12))
      ∧ (s.yreqOf s.w = true → s.w.wait = .none →
          waitsFor (.yield h) s (.yield (s.part s.w.place.part).scyc)))
    ∧ (s.clear (.halt h) = true →
      let x : Instr := .halt h
      let raises (u : State) (i : TrapInfo) : Prop :=
        s.w.trapWaits = [] → s.w.owedError = none → exec x s = .next (trapAt x u i)
      let ends (u : State) : Prop :=
        (∀ e es, u.w.errs = e :: es → raises (u.setW { u.w with errs := es }) (copyTrap e))
        ∧ (u.w.errs = [] → ∃ t, exec x s = .next t ∧ t.w.halted = true ∧ t.w.pc = s.w.pc ∧ t.w.v = u.w.v ∧ t.w.s = u.w.s
            ∧ t.w.team = u.w.team ∧ t.mem = s.mem ∧ t.waves = u.waves)
      (s.w.belay = false → s.w.team = none → ends s)
      ∧ (∀ tm, s.w.belay = false → s.w.team = some tm →
        (s.teamAtBoundary s.w = false → exec x s = .next (holdAt (s.setW (s.w.closeParts (fun _ => true))) .busy))
        ∧ (s.teamAtBoundary s.w = true →
          let u := (s.setW s.w.stopTeam).returnLent s.w.id
          ∀ y, u.w.team = some y → (∀ i, y.fault = some i → raises u.markReported i) ∧ (y.fault = none → ends u.endTeam)))
      ∧ (∀ g b, s.w.belay = true → s.gang? s.w.id.gang = some g → g.belay = some b →
        (g.quiet b = false → waitsFor x s .busy)
        ∧ (g.quiet b = true → (∀ i, b.delivery = some i → raises s.clearFault i) ∧ (b.delivery = none → ends s))))

/-! Values of results. -/

/-- The integer arithmetic of R110 on operands of 32 and of 64 bits, in the arithmetic of bit vectors: sums,
differences and products mod 2^W, the upper half of the exact product, the smaller and the larger, |x| and −x, and the sum and the
difference of ADDSAT in each of its types, of which those of 8 and 16 bits take the low bits of their words (R71). -/
def Obligations.IntegerArithmeticValues : Prop :=
  ∀ (sd : Word) (a : Val) (b : Val),
    (∀ x y d : BitVec 32,
      let X : Val := ⟨x.setWidth 64, true⟩
      let Y : Val := ⟨y.setWidth 64, true⟩
      let D : Val := ⟨d.setWidth 64, true⟩
      let r (z : BitVec 32) : LaneRes := ⟨⟨z.setWidth 64, true⟩, none, false⟩
      (∀ t, t = .i32 ∨ t = .n32 →
        addF t sd X Y D = r (x + y) ∧ subF t sd X Y D = r (x - y) ∧ mulF t sd X Y D = r (x * y)
          ∧ madF t sd X Y D = r (d + x * y) ∧ negF t sd X D D = r (-x))
      ∧ mulhiF .i32 sd X Y D = r ((x.signExtend 64 * y.signExtend 64).extractLsb' 32 32)
      ∧ mulhiF .n32 sd X Y D = r ((x.setWidth 64 * y.setWidth 64).extractLsb' 32 32)
      ∧ minF .i32 sd X Y D = r (if y.slt x then y else x) ∧ minF .n32 sd X Y D = r (if y.ult x then y else x)
      ∧ maxF .i32 sd X Y D = r (if x.slt y then y else x) ∧ maxF .n32 sd X Y D = r (if x.ult y then y else x)
      ∧ absF .i32 sd X D D = r (if x.slt 0 then -x else x)
      ∧ addsatF .i32 false sd X Y D = r (if x.saddOverflow y then (if x.slt 0 then BitVec.intMin 32 else BitVec.intMax 32) else x + y)
      ∧ addsatF .n32 false sd X Y D = r (if x.uaddOverflow y then BitVec.allOnes 32 else x + y)
      ∧ addsatF .i32 true sd X Y D = r (if x.ssubOverflow y then (if x.slt 0 then BitVec.intMin 32 else BitVec.intMax 32) else x - y)
      ∧ addsatF .n32 true sd X Y D = r (if x.ult y then 0 else x - y)
      ∧ (∀ w ti tn, (w, ti, tn) ∈ [(8, ElemType.i8, ElemType.n8), (16, .i16, .n16)] →
        let p : BitVec w := x.setWidth w
        let q : BitVec w := y.setWidth w
        let low : BitVec w := if p.slt 0 then BitVec.intMin w else BitVec.intMax w
        addsatF ti false sd X Y D = r ((if p.saddOverflow q then low else p + q).signExtend 32)
        ∧ addsatF ti true sd X Y D = r ((if p.ssubOverflow q then low else p - q).signExtend 32)
        ∧ addsatF tn false sd X Y D = r ((if p.uaddOverflow q then BitVec.allOnes w else p + q).setWidth 32)
        ∧ addsatF tn true sd X Y D = r ((if p.ult q then 0 else p - q).setWidth 32)))
    ∧ (∀ x y d : BitVec 64,
      let X : Val := ⟨x, true⟩
      let Y : Val := ⟨y, true⟩
      let D : Val := ⟨d, true⟩
      let r (z : BitVec 64) : LaneRes := ⟨⟨z, true⟩, none, false⟩
      (∀ t, t = .i64 ∨ t = .n64 →
        addF t sd X Y D = r (x + y) ∧ subF t sd X Y D = r (x - y) ∧ mulF t sd X Y D = r (x * y)
          ∧ madF t sd X Y D = r (d + x * y) ∧ negF t sd X D D = r (-x))
      ∧ mulhiF .i64 sd X Y D = r ((x.signExtend 128 * y.signExtend 128).extractLsb' 64 64)
      ∧ mulhiF .n64 sd X Y D = r ((x.setWidth 128 * y.setWidth 128).extractLsb' 64 64)
      ∧ minF .i64 sd X Y D = r (if y.slt x then y else x) ∧ minF .n64 sd X Y D = r (if y.ult x then y else x)
      ∧ maxF .i64 sd X Y D = r (if x.slt y then y else x) ∧ maxF .n64 sd X Y D = r (if x.ult y then y else x)
      ∧ absF .i64 sd X D D = r (if x.slt 0 then -x else x))
    ∧ (∀ t d, (a.valid && b.valid && d.valid) = false →
        addF t sd a b d = LaneRes.null ∧ subF t sd a b d = LaneRes.null ∧ mulF t sd a b d = LaneRes.null
          ∧ mulhiF t sd a b d = LaneRes.null ∧ madF t sd a b d = LaneRes.null ∧ minF t sd a b d = LaneRes.null
          ∧ maxF t sd a b d = LaneRes.null ∧ absF t sd a b d = LaneRes.null ∧ negF t sd a b d = LaneRes.null)

/-- DIV and REM (R111): a zero divisor gives 0, invalid; the most negative number by −1 gives itself and remainder 0;
else the quotient is truncated toward zero and the remainder has the sign of x, or is 0. -/
def Obligations.DivisionValues : Prop :=
  ∀ (sd : Word) (d : Val), d.valid = true →
    (∀ x y : BitVec 32,
      let X : Val := ⟨x.setWidth 64, true⟩
      let Y : Val := ⟨y.setWidth 64, true⟩
      let r (z : BitVec 32) : LaneRes := ⟨⟨z.setWidth 64, true⟩, none, false⟩
      (∀ t, t = .i32 ∨ t = .n32 → y = 0 →
        divF t sd X Y d = ⟨⟨0, false⟩, none, false⟩ ∧ remF t sd X Y d = ⟨⟨0, false⟩, none, false⟩)
      ∧ (y ≠ 0 → divF .n32 sd X Y d = r (x / y) ∧ remF .n32 sd X Y d = r (x % y))
      ∧ (x = BitVec.intMin 32 → y = -1 → divF .i32 sd X Y d = r (BitVec.intMin 32) ∧ remF .i32 sd X Y d = r 0)
      ∧ (y ≠ 0 → ¬ (x = BitVec.intMin 32 ∧ y = -1) →
          divF .i32 sd X Y d = r (BitVec.ofInt 32 (x.toInt.tdiv y.toInt))
          ∧ remF .i32 sd X Y d = r (BitVec.ofInt 32 (x.toInt - x.toInt.tdiv y.toInt * y.toInt))))
    ∧ (∀ x y : BitVec 64,
      let X : Val := ⟨x, true⟩
      let Y : Val := ⟨y, true⟩
      let r (z : BitVec 64) : LaneRes := ⟨⟨z, true⟩, none, false⟩
      (∀ t, t = .i64 ∨ t = .n64 → y = 0 →
        divF t sd X Y d = ⟨⟨0, false⟩, none, false⟩ ∧ remF t sd X Y d = ⟨⟨0, false⟩, none, false⟩)
      ∧ (y ≠ 0 → divF .n64 sd X Y d = r (x / y) ∧ remF .n64 sd X Y d = r (x % y))
      ∧ (x = BitVec.intMin 64 → y = -1 → divF .i64 sd X Y d = r (BitVec.intMin 64) ∧ remF .i64 sd X Y d = r 0)
      ∧ (y ≠ 0 → ¬ (x = BitVec.intMin 64 ∧ y = -1) →
          divF .i64 sd X Y d = r (BitVec.ofInt 64 (x.toInt.tdiv y.toInt))
          ∧ remF .i64 sd X Y d = r (BitVec.ofInt 64 (x.toInt - x.toInt.tdiv y.toInt * y.toInt))))

/-- The bitwise, shift and counting results of R112 and those of BFE and BFI (R113), bit by bit, on operands of 32 and of 64 bits; the
counts and the field descriptor are words. -/
def Obligations.BitAndFieldValues : Prop :=
  ∀ (sd : Word) (w : Nat) (t : ElemType), (w, t) ∈ [(32, ElemType.b32), (64, .b64)] → ∀ (x y d : BitVec w) (c : Word),
    let X : Val := ⟨x.setWidth 64, true⟩
    let Y : Val := ⟨y.setWidth 64, true⟩
    let D : Val := ⟨d.setWidth 64, true⟩
    let C : Val := ⟨c.setWidth 64, true⟩
    let r (z : BitVec w) : LaneRes := ⟨⟨z.setWidth 64, true⟩, none, false⟩
    let count (n : Nat) : LaneRes := ⟨⟨BitVec.ofNat 64 n, true⟩, none, false⟩
    let pos := (c.extractLsb' 0 8).toNat
    let len := Nat.min (c.extractLsb' 8 8).toNat w
    andF sd X Y D = r (x &&& y) ∧ orF sd X Y D = r (x ||| y) ∧ xorF sd X Y D = r (x ^^^ y)
      ∧ andnF t sd X Y D = r (x &&& ~~~y) ∧ notF t sd X D D = r (~~~x)
      ∧ shlF t sd X C D = r (x <<< c) ∧ shrF t sd X C D = r (x >>> c)
      ∧ sarF t sd X C D = r (x.sshiftRight c.toNat)
      ∧ rotF t false sd X C D = r (x.rotateLeft (c.toNat % w))
      ∧ rotF t true sd X C D = r (x.rotateRight (c.toNat % w))
      ∧ brevF t sd X D D = r x.reverse
      ∧ isectF sd X Y D = ⟨⟨(x &&& y).setWidth 64, decide (x &&& y ≠ 0)⟩, none, false⟩
      ∧ bclrF t sd X C D = r (if c.toNat < w then x &&& ~~~(1#w <<< c) else x)
      ∧ bclrLowF sd X D D = r (x &&& (x - 1))
      ∧ popcF t sd X D D = count ((List.range w).countP (fun i => x.getLsbD i))
      ∧ pfxpopF t sd X C D = count ((List.range w).countP (fun i => decide (i < c.toNat) && x.getLsbD i))
      ∧ (∀ i, i ≤ w → (∀ j, j < i → x.getLsbD j = false) → (i < w → x.getLsbD i = true) → ctzF t sd X D D = count i)
      ∧ (∀ i, i ≤ w → (∀ j, j < i → x.getMsbD j = false) → (i < w → x.getMsbD i = true) → clzF t sd X D D = count i)
      ∧ bfeF t false sd X C D = r (BitVec.ofNat w (x.toNat / 2 ^ pos % 2 ^ len))
      ∧ (∃ z : BitVec w, bfeF t true sd X C D = r z
          ∧ ∀ i, i < w → z.getLsbD i = (decide (len ≠ 0) && x.getLsbD (pos + Nat.min i (len - 1))))
      ∧ (∃ z : BitVec w, bfiF t sd X C D = r z
          ∧ ∀ i, i < w → z.getLsbD i = if pos ≤ i ∧ i < pos + len then x.getLsbD (i - pos) else d.getLsbD i)

/-- A condition word is 1, valid where the relation holds, and 0, invalid where it does not (R89, R115): of integers of 32 and of 64
bits, signed, unsigned and as bits, and of floats by their values, −0 equal to +0 and the infinities beyond every other value; a NaN
operand makes only ne and un of FCMP hold. -/
def Obligations.ConditionWords : Prop :=
  ∀ (sd : Word) (D : Val), D.valid = true →
    let yes : LaneRes := ⟨⟨1, true⟩, none, false⟩
    let no : LaneRes := ⟨⟨0, false⟩, none, false⟩
    (∀ x y : BitVec 32,
      let X : Val := ⟨x.setWidth 64, true⟩
      let Y : Val := ⟨y.setWidth 64, true⟩
      (∀ t, t = .i32 ∨ t = .n32 ∨ t = .b32 →
        cmpF t .eq sd X Y D = (if x = y then yes else no) ∧ cmpF t .ne sd X Y D = (if x = y then no else yes))
      ∧ cmpF .i32 .lt sd X Y D = (if x.toInt < y.toInt then yes else no)
      ∧ cmpF .i32 .le sd X Y D = (if x.toInt ≤ y.toInt then yes else no)
      ∧ cmpF .i32 .gt sd X Y D = (if y.toInt < x.toInt then yes else no)
      ∧ cmpF .i32 .ge sd X Y D = (if y.toInt ≤ x.toInt then yes else no)
      ∧ cmpF .n32 .lt sd X Y D = (if x < y then yes else no) ∧ cmpF .n32 .le sd X Y D = (if x ≤ y then yes else no)
      ∧ cmpF .n32 .gt sd X Y D = (if y < x then yes else no) ∧ cmpF .n32 .ge sd X Y D = (if y ≤ x then yes else no))
    ∧ (∀ x y : BitVec 64,
      let X : Val := ⟨x, true⟩
      let Y : Val := ⟨y, true⟩
      (∀ t, t = .i64 ∨ t = .n64 ∨ t = .b64 →
        cmpF t .eq sd X Y D = (if x = y then yes else no) ∧ cmpF t .ne sd X Y D = (if x = y then no else yes))
      ∧ cmpF .i64 .lt sd X Y D = (if x.toInt < y.toInt then yes else no)
      ∧ cmpF .i64 .le sd X Y D = (if x.toInt ≤ y.toInt then yes else no)
      ∧ cmpF .i64 .gt sd X Y D = (if y.toInt < x.toInt then yes else no)
      ∧ cmpF .i64 .ge sd X Y D = (if y.toInt ≤ x.toInt then yes else no)
      ∧ cmpF .n64 .lt sd X Y D = (if x < y then yes else no) ∧ cmpF .n64 .le sd X Y D = (if x ≤ y then yes else no)
      ∧ cmpF .n64 .gt sd X Y D = (if y < x then yes else no) ∧ cmpF .n64 .ge sd X Y D = (if y ≤ x then yes else no))
    ∧ (∀ t (X Y : Val), t = .f32 ∨ t = .f16 ∨ t = .bf16 → X.valid = true → Y.valid = true →
        let x := decodeElem t X.bits.toNat
        let y := decodeElem t Y.bits.toNat
        let below (x y : XVal) : Prop :=
          match x, y with
          | .fin p n d, .fin q m k => (if p then -(n : Int) else n) * k < (if q then -(m : Int) else m) * d
          | .inf p, .inf q => p = true ∧ q = false
          | .inf p, .fin _ _ _ => p = true
          | .fin _ _ _, .inf q => q = false
          | .nan, _ | _, .nan => False
        x ≠ .nan → y ≠ .nan →
          (below x y → fcmpF t .lt sd X Y D = yes ∧ fcmpF t .le sd X Y D = yes ∧ fcmpF t .eq sd X Y D = no
            ∧ fcmpF t .ne sd X Y D = yes ∧ fcmpF t .gt sd X Y D = no ∧ fcmpF t .ge sd X Y D = no)
          ∧ (below y x → fcmpF t .gt sd X Y D = yes ∧ fcmpF t .ge sd X Y D = yes ∧ fcmpF t .eq sd X Y D = no
            ∧ fcmpF t .ne sd X Y D = yes ∧ fcmpF t .lt sd X Y D = no ∧ fcmpF t .le sd X Y D = no)
          ∧ (¬ below x y → ¬ below y x → fcmpF t .eq sd X Y D = yes ∧ fcmpF t .le sd X Y D = yes ∧ fcmpF t .ge sd X Y D = yes
            ∧ fcmpF t .ne sd X Y D = no ∧ fcmpF t .lt sd X Y D = no ∧ fcmpF t .gt sd X Y D = no)
          ∧ fcmpF t .un sd X Y D = no ∧ fcmpF t .ord sd X Y D = yes)
    ∧ (∀ t (X Y : Val), t = .f32 ∨ t = .f16 ∨ t = .bf16 → X.valid = true → Y.valid = true →
        (decodeElem t X.bits.toNat = .nan ∨ decodeElem t Y.bits.toNat = .nan) →
        fcmpF t .eq sd X Y D = no ∧ fcmpF t .ne sd X Y D = yes ∧ fcmpF t .lt sd X Y D = no ∧ fcmpF t .le sd X Y D = no
          ∧ fcmpF t .gt sd X Y D = no ∧ fcmpF t .ge sd X Y D = no ∧ fcmpF t .un sd X Y D = yes
          ∧ fcmpF t .ord sd X Y D = no)

/-! Memory instructions. -/

/-- LD and LDS (R183 to R193): where the lanes translate and nothing earlier must perform first, the load reaches the lines that no L1
copy serves, once (R170); while one of them stands under a shoot-down or behind a merge that it has brought, the load waits there, and else it
goes into flight with its lanes and destinations, no register changes until it lands, and with no update-only line and no modified
compressible line anywhere no byte of device memory changes; a lane whose range fails traps RANGEFAULT, and LDS with an
invalid address part writes invalid words. That the load takes its bytes in the step that issues it is the model's choice (log 24,
DESIGN CHOICE). -/
def Obligations.GlobalLoadsIssue : Prop :=
  ∀ (m : MemOp) (s : State), s.plain →
    let acts := s.memAct m.h.guard (memForm m) (fun _ => true)
    let n := typeBytes m.ty
    let started (x : Instr) (act wl : Word) : Prop :=
      ∃ t e, exec x s = .next t ∧ t.w.flight = s.w.flight ++ [e] ∧ e.dests = writes x ∧ e.lanes = act ∧ e.wlanes = wl
        ∧ e.st = .waiting ∧ advanced x s t ∧ sameV s.w t.w ∧ sameS s.w t.w ∧ sameSpecials s.w t.w
        ∧ (s.still → t.mem = s.mem)
    let reach (as : List LaneAcc) : State × List (Nat × Nat) :=
      (s.sendReached as).settleFence.reachLoad (requestLines as (noFill m.cache))
    let free (as : List LaneAcc) : Prop := s.w.reached = [] → (s.sendReached as).blockers false as = []
    let loads (x : Instr) (as : List LaneAcc) (act wl : Word) : Prop :=
      let c := reach as
      (c.2.any (c.1.lineWaits s.w.place.part) = true → exec x s = .next (holdAt c.1 (.merges c.2)))
        ∧ (c.2.any (c.1.lineWaits s.w.place.part) = false → started x act wl)
    (s.clear (.ld m) = true →
      (∀ ls va, s.plan (s.va (memForm m)) acts n false = .fault ls va → trapsWith (.ld m) s (rangeFault ls va))
      ∧ (∀ as, s.plan (s.va (memForm m)) acts n false = .ok as → free as →
          loads (.ld m) as acts (s.w.inLanes m.h.guard)))
    ∧ (s.clear (.lds m) = true →
      (s.addrValid (memForm m) 0 = false →
        laneEffect (.lds m) s m.h.guard m.d (typeWords m.ty) (fun _ => LaneRes.null))
      ∧ (s.addrValid (memForm m) 0 = true →
        (∀ ls va, s.plan (s.va (memForm m)) 1 n false = .fault ls va → trapsWith (.lds m) s (rangeFault ls va))
        ∧ (∀ as, s.plan (s.va (memForm m)) 1 n false = .ok as → free as → loads (.lds m) as 1 1)))

/-- LDS of resident local bytes (R184, R185, R188, R192): with nothing cached in the L1, no update-only line or merge of
one, no modified compressible line and no uncorrectable error, the result in flight is the element that device memory holds at the address,
as it is when the load issues (log 24, DESIGN CHOICE: the model's choice of that moment). -/
def Obligations.ScalarLoadReadsMemory : Prop :=
  ∀ (m : MemOp) (s : State) (span : List (Nat × Nat)) (ys : List Byte), s.w.lentTo = none → s.clear (.lds m) = true →
    s.addrValid (memForm m) 0 = true →
    s.spanIA s.w.place.ctx (s.va (memForm m) 0) (typeBytes m.ty) false = some span →
    (∀ b ∈ span, attrRemote b.2 = false ∧ (s.part s.w.place.part).held b.1 = false) →
    span.map (fun b => s.peek s.w.place.part b.1) = ys.map some →
    s.unperformed s.w.place.part s.w.id = [] → (∀ a ∈ s.pendingAccs s.w.place.part, a.isMerge = false) → s.still →
    (s.core s.w.core).l1 = [] → s.ecc = [] → s.sram = [] → s.w.reached = [] →
    ∃ t e, exec (.lds m) s = .next t ∧ t.w.flight = s.w.flight ++ [e] ∧ e.bad = 0 ∧ e.waits = [] ∧ t.mem = s.mem
      ∧ e.dests = writes (.lds m)
      ∧ e.res = (List.range (typeWords m.ty)).map (fun j => laneList.map (fun l =>
          if l = 0 then valWord ⟨BitVec.ofNat 64 (loadValue m.ty (leNat ys)), true⟩ j else RWord.none))

/-- ST and STS (R183, R190 to R192): where the lanes translate and nothing earlier must perform first, the stores leave
the wave, and no register changes; memory is what the stores of the acting lanes' elements, ascending, make of it once the
update-only lines that they reach have been sent. STS with an invalid part does nothing. A store that a release fence at system scope
orders behind a remote access that has failed raises that error instead (R205, R424; that such a store is the release that raises it
is the model's reading, log 182). That a store changes memory in the step that issues it is the model's choice (log 24, DESIGN
CHOICE). -/
def Obligations.GlobalStoresComplete : Prop :=
  ∀ (m : MemOp) (s : State), s.plain →
    let data (l : Nat) := s.rdOp m.ty (typeWords m.ty) m.d l
    let bytes (d : Nat → Val) (a : LaneAcc) : List Byte := storeBytes m.ty (d a.lane).bits.toNat
    let acts := s.memAct m.h.guard (memForm m) (fun l => (data l).valid)
    let n := typeBytes m.ty
    let done (x : Instr) (as : List LaneAcc) (d : Nat → Val) : Prop :=
      ∃ t, exec x s = .next t ∧ advanced x s t ∧ sameV s.w t.w ∧ sameS s.w t.w ∧ sameSpecials s.w t.w
        ∧ t.w.flight = s.w.flight
        ∧ t.mem = ((s.sendReached as).storeCells s.w.place.part s.w.core s.w.place.ctx s.w.id (laneCells as (bytes d))).mem
    let late (as : List LaneAcc) (e : CopyErr) : Prop :=
      (s.sendReached as).fenceActs as = true ∧ s.w.errs.find? (fun e => e.due) = some e
    let fails (x : Instr) (as : List LaneAcc) (e : CopyErr) : Prop :=
      s.w.owedError = none → exec x s = .next (trapAt x
        ((s.sendReached as).setW { s.w with errs := s.w.errs.filter (fun y => !(y == e)) }) (copyTrap e))
    (s.clear (.st m) = true →
      (∀ ls va, s.plan (s.va (memForm m)) acts n true = .fault ls va → trapsWith (.st m) s (rangeFault ls va))
      ∧ (∀ as, s.plan (s.va (memForm m)) acts n true = .ok as → (s.sendReached as).blockers true as = [] →
          ((∀ e, ¬ late as e) → done (.st m) as data) ∧ (∀ e, late as e → fails (.st m) as e)))
    ∧ (s.clear (.sts m) = true →
      ((s.addrValid (memForm m) 0 && (data 0).valid) = false → movesTo (.sts m) s (s.w.pcNow + 12))
      ∧ ((s.addrValid (memForm m) 0 && (data 0).valid) = true →
        (∀ ls va, s.plan (s.va (memForm m)) 1 n true = .fault ls va → trapsWith (.sts m) s (rangeFault ls va))
        ∧ (∀ as, s.plan (s.va (memForm m)) 1 n true = .ok as → (s.sendReached as).blockers true as = [] →
            ((∀ e, ¬ late as e) → done (.sts m) as (fun _ => data 0)) ∧ (∀ e, late as e → fails (.sts m) as e))))

/-- STS of a local element that lies in one line of a writable resident page (R184, R185, R190): its bytes, and no
other byte of device memory, change. Nothing else may be on its way to that memory: no update-only line or merge of one, no
modified compressible line, no shoot-down, no sleeping partition, no error that the store is to raise, and no change count to step.
That it changes memory in the step that issues it is the model's choice (log 24, DESIGN CHOICE). -/
def Obligations.ScalarStoreWritesItsBytes : Prop :=
  ∀ (m : MemOp) (s : State) (ia at_ : Nat) (l : Leaf), s.w.lentTo = none → s.clear (.sts m) = true → s.mem.wf = true →
    let p := s.w.place.part
    let n := typeBytes m.ty
    let data := s.rdOp m.ty (typeWords m.ty) m.d 0
    s.addrValid (memForm m) 0 = true → data.valid = true →
    s.spanIA s.w.place.ctx (s.va (memForm m) 0) n true = some ((List.range n).map (fun k => (ia + k, at_))) →
    attrRemote at_ = false → ia / 128 = (ia + n - 1) / 128 → (∀ e ∈ s.w.errs, e.due = false) →
    s.unperformed p s.w.id = [] → (∀ a ∈ s.pendingAccs p, a.isMerge = false) → s.still → (s.part p).shoots = [] → (s.part p).power = .noon →
    (s.part p).ctk = 0 → (s.xlate p ia).2 = .leaf l → (Walk.leaf l).reason true = 0 →
    ∃ t, exec (.sts m) s = .next t ∧ sameV s.w t.w ∧ sameS s.w t.w ∧
      ∀ pa, Mem.read t.mem pa =
        if l.frame + ia % 4096 ≤ pa ∧ pa < l.frame + ia % 4096 + n
        then (storeBytes m.ty data.bits.toNat).getD (pa - (l.frame + ia % 4096)) 0 else Mem.read s.mem pa

/-- LDTB and LDC (R162 to R166, R194, R196): where every lane lies in its buffer, no fence orders an unperformed access before
it and the scoreboard lets it through, the load goes into flight with the elements that the region
holds, always valid; no memory and no register changes. With no uncorrectable SRAM error the result reports none. A lane beyond its region traps BUFRANGE. -/
def Obligations.BufferLoads : Prop :=
  ∀ (m : MemOp) (b : Buf) (s : State), s.plain →
    let n := typeBytes m.ty
    let started (x : Instr) (act : Word) (as : List BufAcc) : Prop :=
      (∀ a r, s.bufBad b n as = a :: r → trapsWith x s (bufRange (a :: r)))
      ∧ (s.bufBad b n as = [] → s.fencedIds false = [] → (x = .ldtb m b → s.bufWait b n false as = false) →
          ∃ t e, exec x s = .next t ∧ t.w.flight = s.w.flight ++ [e] ∧ e.dests = writes x ∧ e.lanes = act
            ∧ (s.sram = [] → e.bad = 0) ∧ advanced x s t ∧ sameV s.w t.w ∧ sameS s.w t.w ∧ sameSpecials s.w t.w ∧ t.mem = s.mem ∧ t.gangs = s.gangs
            ∧ e.waits = [] ∧ e.wlanes = s.w.inLanes m.h.guard
            ∧ e.res = (List.range (typeWords m.ty)).map (fun j => laneList.map (fun l =>
                if act.getLsbD l then
                  valWord (match as.find? (fun a => a.lane == l) with
                    | some a => ⟨BitVec.ofNat 64 (loadValue m.ty (leNat (Mem.readN (s.regionOf a.group b) a.off n))), true⟩
                    | none => Val.none) j
                else RWord.none)))
    (s.clear (.ldtb m b) = true →
      let act := s.memAct m.h.guard (memForm m) (fun _ => true)
      started (.ldtb m b) act ((lanesOf act).map (fun l => ⟨l, s.w.id.group, s.bufOffset (memForm m) l⟩)))
    ∧ (s.clear (.ldc m b) = true →
      let act := s.memAct m.h.guard (peerForm m) (fun l => (s.rdOp .n32 1 m.b l).valid)
      started (.ldc m b) act
        ((lanesOf act).map (fun l => ⟨l, (s.rdOp .n32 1 m.b l).bits.toNat, s.bufOffset (peerForm m) l⟩)))

/-- STTB and STC (R163, R164, R194 to R196): where no fence orders an unperformed access before them, the acting lanes'
elements are written to the regions in ascending lane order, the bytes written hold no uncorrectable error any more, and nothing else
changes; a lane beyond its region traps BUFRANGE. -/
def Obligations.BufferStores : Prop :=
  ∀ (m : MemOp) (b : Buf) (s : State), s.plain →
    let n := typeBytes m.ty
    let data (l : Nat) := s.rdOp m.ty (typeWords m.ty) m.d l
    let wrote (x : Instr) (as : List BufAcc) : Prop :=
      (∀ a r, s.bufBad b n as = a :: r → trapsWith x s (bufRange (a :: r)))
      ∧ (s.bufBad b n as = [] → s.fencedIds true = [] → (x = .sttb m b → s.bufWait b n true as = false) →
          completes x s (as.foldl (fun s a =>
            let bs := storeBytes m.ty (data a.lane).bits.toNat
            let u := s.onGrp s.w.id.gang a.group (fun g => g.setRegion b (Mem.writeN (g.region b) a.off bs))
            { u with sram := u.sram.filter (fun y => !y.inBuf s.w.id.gang a.group b a.off bs.length) }) s))
    (s.clear (.sttb m b) = true →
      let act := s.memAct m.h.guard (memForm m) (fun l => (data l).valid)
      wrote (.sttb m b) ((lanesOf act).map (fun l => ⟨l, s.w.id.group, s.bufOffset (memForm m) l⟩)))
    ∧ (s.clear (.stc m b) = true →
      let act := s.memAct m.h.guard (peerForm m) (fun l => (s.rdOp .n32 1 m.b l).valid && (data l).valid)
      wrote (.stc m b)
        ((lanesOf act).map (fun l => ⟨l, (s.rdOp .n32 1 m.b l).bits.toNat, s.bufOffset (peerForm m) l⟩)))

/-- ATOM, CAS and RED (R197 to R201): where the plan of the atomic lets them perform, ATOM and CAS go into flight with
their lanes, RED performs and goes on, and none changes a register yet. Memory is what the lanes, ascending, make of it one after another,
and the words in flight are the old words that each lane has found, for CAS with its condition word; a lane that has not performed is
awaited, and one that met an uncorrectable error is named. A misaligned lane traps MISALIGN. That the lanes of local words perform in the
step that issues the instruction, which fixes memory and the old words, is the model's choice (log 24, DESIGN CHOICE). -/
def Obligations.AtomicsIssue : Prop :=
  ∀ (m : AtomOp) (op : AtomOpc) (s : State), s.plain →
    let k := typeWords m.ty
    let n := typeBytes m.ty
    let data (l : Nat) := s.rdOp m.ty k m.d l
    let one := s.memAct m.h.guard (atomForm m) (fun l => (data l).valid)
    let two := s.memAct m.h.guard (atomForm m) (fun l =>
      (s.w.rdVL k (vIndex m.d) l).valid && (s.w.rdVL k (vIndex m.d + k) l).valid)
    let stops (x : Instr) (act : Word) : Prop :=
      (∀ ls va, s.plan (s.va (atomForm m)) act n true = .fault ls va → trapsWith x s (rangeFault ls va))
      ∧ (∀ as b bs, s.plan (s.va (atomForm m)) act n true = .ok as → as.filter (fun a => a.va % n != 0) = b :: bs →
          trapsWith x s { cause := .misalign, addr := BitVec.ofNat 64 b.va,
                          lanes := laneMask (fun l => (b :: bs).any (fun a => a.lane == l)) })
    let goes (x : Instr) (act : Word) (isCas : Bool) (f : Nat → ParkOp) (operand : Nat → List Byte) : Prop :=
      ∀ u as, s.atomicPlan m.ty (s.va (atomForm m)) act m.order m.scope false = .inr (u, as) →
        let acc := as.foldl (fun acc a => AtomAcc.lane acc x u.nextId (f a.lane) (operand a.lane) a)
          (⟨{ u with nextId := u.nextId + 1 }, [], [], []⟩ : AtomAcc)
        ∃ t e, exec x s = .next t ∧ t.w.flight = s.w.flight ++ [e] ∧ e.dests = writes x ∧ e.lanes = act
          ∧ e.wlanes = s.w.inLanes m.h.guard ∧ advanced x s t ∧ sameV s.w t.w ∧ sameS s.w t.w ∧ sameSpecials s.w t.w
          ∧ t.mem = acc.st.mem ∧ e.waits = acc.waits ∧ e.bad = laneMask (fun l => acc.bad.contains l)
          ∧ e.res = (List.range (k + if isCas then 1 else 0)).map (fun j => laneList.map (fun l =>
              match Tab.find acc.old l with
              | some (old, done) =>
                if j < k then valWord ⟨BitVec.ofNat 64 old, true⟩ j else ⟨if done then 1 else 0, done⟩
              | none => RWord.none))
    let word (n : Nat) (x : Val) : List Byte := leBytes n x.bits.toNat
    let cmp (l : Nat) : Val := s.w.rdVL k (vIndex m.d) l
    let new (l : Nat) : Val := s.w.rdVL k (vIndex m.d + k) l
    (s.clear (.atom m op) = true → stops (.atom m op) one
        ∧ goes (.atom m op) one false (fun l => .atomic op m.ty l (data l).bits) (fun l => word n (data l)))
    ∧ (s.clear (.cas m) = true → stops (.cas m) two
        ∧ goes (.cas m) two true (fun l => .cas m.ty l (cmp l).bits (new l).bits) (fun l => word n (cmp l) ++ word n (new l)))
    ∧ (s.clear (.red m op) = true → stops (.red m op) one
        ∧ ∀ u as, s.atomicPlan m.ty (s.va (atomForm m)) one m.order m.scope (m.ty != .f32) = .inr (u, as) →
            ∃ t, exec (.red m op) s = .next t ∧ advanced (.red m op) s t ∧ sameV s.w t.w ∧ sameS s.w t.w
              ∧ t.w.flight = s.w.flight
              ∧ t.mem = (as.foldl (fun s a => s.redLane (.red m op) op m.ty (data a.lane).bits.toNat a) u).mem)

/-- One lane's atomic at its home slice (R197 to R199): the old word is returned, the word in memory becomes what the
operation makes of it and the operand (the sum mod 2^W, the smaller and the larger of the type, the bits of and, or and xor, the operand
itself, for f32 the sum rounded to nearest even, its subnormals kept and its NaN canonical, and FMIN and FMAX), a CAS that fails writes nothing, and no other byte of memory changes while no
change count is to step and no modified compressible line is held. That is what an agent's atomic does on a fit page that no shoot-down
holds, with no update-only line and no merge before it. -/
def Obligations.AtomicAtHomeSlice : Prop :=
  ∀ (s : State) (p : Nat) (l : Leaf) (ia : Nat) (op : ParkOp), s.mem.wf = true → (s.part p).ctk = 0 → s.ecc = [] →
    s.sram = [] → s.quietL2 p →
    let n := op.bytes
    let a := l.frame + ia % 4096
    let w := leNat (Mem.readN s.mem a n)
    let r := s.atomicAt p l ia n op.fn
    r.2.bad = false ∧ r.2.old = w ∧ r.2.done = (op.fn w).isSome
      ∧ (∀ x, op.fn w = some x → ∀ pa, Mem.read r.1.mem pa =
          if a ≤ pa ∧ pa < a + n then (leBytes n x).getD (pa - a) 0 else Mem.read s.mem pa)
      ∧ (op.fn w = none → r.1.mem = s.mem)
      ∧ (∀ agent ctx, (s.xlate p ia).2 = .leaf l → (Walk.leaf l).reason true = 0 → (s.part p).held ia = false →
          (∀ c, (s.core c).upd = []) → (∀ z ∈ s.pendingAccs p, z.isMerge = false) →
          (s.atomic p agent ctx ia op).2 = .inl r.2 ∧ (s.atomic p agent ctx ia op).1.mem = r.1.mem)
      ∧ (∀ (wd : Nat) (ti tn tb : ElemType), (wd, ti, tn, tb) ∈ [(32, .i32, .n32, .b32), (64, .i64, .n64, .b64)] →
          ∀ (lane : Nat) (x y z : BitVec wd),
            let new (o : AtomOpc) (t : ElemType) : Option Nat := (ParkOp.atomic o t lane (x.setWidth 64)).fn y.toNat
            (∀ t, t = ti ∨ t = tn → new .add t = some (y + x).toNat)
            ∧ new .min ti = some (if x.slt y then x else y).toNat ∧ new .max ti = some (if y.slt x then x else y).toNat
            ∧ new .min tn = some (if x.ult y then x else y).toNat ∧ new .max tn = some (if y.ult x then x else y).toNat
            ∧ new .and tb = some (y &&& x).toNat ∧ new .or tb = some (y ||| x).toNat ∧ new .xor tb = some (y ^^^ x).toNat
            ∧ new .exch tb = some x.toNat
            ∧ (ParkOp.cas tb lane (x.setWidth 64) (z.setWidth 64)).fn y.toNat = if y = x then some z.toNat else none)
      ∧ (∀ (lane : Nat) (x y : Word) (sd : Word) (d : Val), d.valid = true →
          let new (o : AtomOpc) : Option Nat := (ParkOp.atomic o .f32 lane (x.setWidth 64)).fn y.toNat
          let v (z : Word) : Val := ⟨z.setWidth 64, true⟩
          new .add = some (faddF .f32 .rne sd (v y) (v x) d).out.bits.toNat
          ∧ new .min = some (fminF .f32 sd (v y) (v x) d).out.bits.toNat
          ∧ new .max = some (fmaxF .f32 sd (v y) (v x) d).out.bits.toNat
          ∧ (decodeElem .f32 x.toNat = .nan ∨ decodeElem .f32 y.toNat = .nan → new .add = some 0x7FC00000))
      ∧ (∀ (lane : Nat), ∀ q ∈ [(0x3F800000, 0x33800000, 0x3F800000), (0x3F800001, 0x33800000, 0x3F800002),
            (0x3F800000, 0xBF800000, 0), (0x00000001, 0x00000001, 0x00000002), (0x80000000, 0x80000000, 0x80000000)],
          (ParkOp.atomic .add .f32 lane (BitVec.ofNat 64 q.2.1)).fn q.1 = some q.2.2)

/-- FENCE, PREF, PGREQ and DRAIN (R205, R209 to R213): FENCE marks what it orders, an acquire leaves no
release-consistent line in the L1 and a release no update-only slot of the wave; PREF changes no register; PGREQ makes
its token ready or pending, and traps TOKBUSY on a pending one; DRAIN is over once nothing it names is left. That
PGREQ counts a lane of a remote range as resident and does not judge it is the model's choice (log 46, DESIGN CHOICE). -/
def Obligations.OrderingInstructionsComplete : Prop :=
  ∀ (h : Hdr) (s : State), s.plain →
    (∀ k sc, s.clear (.fence h k sc) = true → s.remoteErr (k != .acq) sc = none →
      ∃ t, exec (.fence h k sc) s = .next t ∧ advanced (.fence h k sc) s t ∧ sameV s.w t.w ∧ sameS s.w t.w
        ∧ sameSpecials s.w t.w ∧ t.w.flight = s.w.flight
        ∧ (k ≠ .rel → Scope.wide sc = true → s.w.belay = false → ∀ e ∈ (t.core s.w.core).l1, e.kind ≠ 1)
        ∧ (k ≠ .acq → ∀ u ∈ (t.core s.w.core).upd, s.w.id ∉ u.waves)
        ∧ (k = .acq → t.mem = s.mem ∧
            ∀ u ∈ s.unperformed s.w.place.part s.w.id, u.kind ≤ 1 → u.reads = true → (u.id, true) ∈ t.w.fence))
    ∧ (∀ m, s.clear (.pref m) = true →
      ∃ t, exec (.pref m) s = .next t ∧ advanced (.pref m) s t ∧ sameV s.w t.w ∧ sameS s.w t.w ∧ sameSpecials s.w t.w
        ∧ t.w.flight = s.w.flight ∧ (s.still → t.mem = s.mem))
    ∧ (∀ (tok : BitVec 4) a64 a b (disp : BitVec 28), s.clear (.pgreq h tok a64 a b disp) = true →
      let x : Instr := .pgreq h tok a64 a b disp
      let f : AddrForm := ⟨a64, a, b, disp.toInt⟩
      let q := tok.toNat
      let plan := s.plan (s.va f) (s.memAct h.guard f (fun _ => true)) 1 false
      ((s.w.tok q).st = .pending → trapsWith x s { cause := .tokbusy, addr := BitVec.ofNat 64 q })
      ∧ ((s.w.tok q).st ≠ .pending → ∀ ls va, plan = .fault ls va → trapsWith x s (rangeFault ls va))
      ∧ ((s.w.tok q).st ≠ .pending → ∀ as, plan = .ok as →
          ∃ t, exec x s = .next t ∧ advanced x s t ∧ sameV s.w t.w ∧ sameS s.w t.w ∧ sameSpecials s.w t.w
            ∧ (∀ k, k ≠ q → t.w.tok k = s.w.tok k) ∧ t.mem = s.mem
            ∧ (let judged := (s.judgePages s.w.place.part s.w.place.ctx s.w.core
                  (s.pagesOf s.w.place.part (as.filter (fun a => a.remoteIas.isEmpty)))).2
               (judged.all (fun g => g.2.2.isSome) = true → (t.w.tok q).st = .ready ∧ (t.w.tok q).valid = true)
               ∧ (judged.all (fun g => g.2.2.isSome) = false → (t.w.tok q).st = .pending))))
    ∧ (∀ p, s.clear (.drain h p) = true → (s.w.cur = none → s.w.wait = .none) →
      (∀ q, s.w.cur = some q → q.drain = none) → s.drainErr p = none →
      (p ≠ .global → s.copiesLeft p s.nextId = false → (p = .cb → s.matrixLeft s.nextId = false) →
        movesTo (.drain h p) s (s.w.pcNow + 12))
      ∧ (p = .global →
          let u := s.sendWaveLines
          u.copiesLeft p s.nextId = false → u.unperformed s.w.place.part s.w.id = [] →
          ∃ t, exec (.drain h p) s = .next t ∧ advanced (.drain h p) s t ∧ sameV s.w t.w ∧ sameS s.w t.w
            ∧ ∀ e ∈ (t.core s.w.core).l1, e.kind ≠ 2))

/-! The copy engine, guard slots and transform engines. -/

/-- COPY in its three forms (R295 to R297): a nullified one and one of no bytes do nothing; a bad byte traps BUFRANGE or
RANGEFAULT and a slot that is not the group's own traps GUARDSTATE; else the command enters its group's queue, bound to
an unresolved slot or decided by a resolved one. No register changes, and memory only by the update-only lines that the
COPY sends. Each form completes: with valid operands, a layout of a legal mode, a guard slot that its group holds where it
names one, bytes that all lie in range, and room in the queue of 32, a COPY that moves at least one byte, or the indexed form,
enters the queue behind the others and the wave goes on with every register unchanged. -/
def Obligations.CopyEntersTheQueue : Prop :=
  (∀ (c : CopyOp) (s : State), s.plain →
      ∀ (x : Instr) (form : Nat), (x, form) ∈ [(Instr.copy c, 0), (.copyIndexed c, 1), (.copyChecksum c, 2)] →
        s.clear x = true →
        let cmd := s.copyCmd x form c
        let slot := s.slotView c.gsl.toNat
        (s.copyValid x = false → movesTo x s (s.w.pcNow + 12))
        ∧ (s.copyValid x = true → (c.trn = true → (layOf cmd.layout).mode < 8) →
          (c.gen = true → slot = .free ∨ slot = .foreign →
            trapsWith x s { cause := .guardstate, addr := c.gsl.setWidth 64 })
          ∧ (∀ st, (if c.gen = true then slot = .own st else st = .yes) →
            (∀ o, s.copyRange cmd = some o → trapsWith x s { cause := .bufrange, addr := BitVec.ofNat 64 o })
            ∧ (∀ va, s.copyRange cmd = none → s.copyFault cmd = some va →
                trapsWith x s { cause := .rangefault, addr := BitVec.ofNat 64 va })
            ∧ (s.copyRange cmd = none → s.copyFault cmd = none →
              (form ≠ 1 → cmd.cnt = 0 → movesTo x s (s.w.pcNow + 12))
              ∧ (form = 1 ∨ cmd.cnt ≠ 0 → ∀ g, s.grp? s.w.id.gang s.w.id.group = some g → g.copyq.length < 32 →
                  let u := s.copyReach cmd
                  let go : Option Bool :=
                    if c.gen = true then
                      (match st with
                        | .unresolved => none
                        | .yes => some (!c.gpol)
                        | .no => some c.gpol)
                    else some true
                  ∃ t, exec x s = .next t ∧ advanced x s t ∧ sameV s.w t.w ∧ sameS s.w t.w ∧ sameSpecials s.w t.w
                    ∧ t.mem = u.mem ∧ t.grp? s.w.id.gang s.w.id.group = some { g with copyq := g.copyq ++
                        [{ cmd with seq := u.nextId, bound := go.isNone, go := go, waits := u.copyWaits cmd }] })))))
  ∧ (∀ (c : CopyOp) (s : State) (g : Grp), s.plain → s.grp? s.w.id.gang s.w.id.group = some g → g.copyq.length < 32 →
      (c.trn = true → (layOf (s.copyCmd (.copy c) 0 c).layout).mode < 8) →
      (c.gen = true → ∃ st, s.slotView c.gsl.toNat = .own st) →
      let enters (x : Instr) (form : Nat) : Prop :=
        s.clear x = true → s.copyValid x = true → s.copyRange (s.copyCmd x form c) = none →
          s.copyFault (s.copyCmd x form c) = none →
          ∃ t q, exec x s = .next t ∧ advanced x s t ∧ sameRegs s t
            ∧ t.grp? s.w.id.gang s.w.id.group = some { g with copyq := g.copyq ++ [q] }
            ∧ q.op = c ∧ q.form = form ∧ q.wave = s.w.id ∧ q.done = false ∧ q.started = false
            ∧ (c.gen = false → q.bound = false ∧ q.go = some true)
            ∧ (c.gen = true → (q.bound = true ↔ s.slotView c.gsl.toNat = .own .unresolved))
      ((s.rdW c.b).bits ≠ 0 → enters (.copy c) 0)
      ∧ enters (.copyIndexed c) 1
      ∧ ((s.rdW c.b).bits ≠ 0 → enters (.copyChecksum c) 2))

/-- GSET and GCLR (R292 to R294): GSET resolves a slot that the group holds unresolved, and each command bound to it is
released or discarded; GCLR takes a free slot or makes the own one unresolved again; its free form returns the slot. A
slot in any other state traps GUARDSTATE. -/
def Obligations.GuardSlots : Prop :=
  ∀ (h : Hdr) (n : BitVec 4) (s : State), s.plain →
    let core := s.w.core
    let view := s.slotView n.toNat
    let slot (t : State) : Option GSlot := Tab.find (t.core core).guards n.toNat
    let mine (st : GState) : GSlot := ⟨s.w.id.gang, s.w.id.group, st⟩
    let quiet (x : Instr) (t : State) : Prop :=
      exec x s = .next t ∧ advanced x s t ∧ sameV s.w t.w ∧ sameS s.w t.w ∧ sameSpecials s.w t.w ∧ t.mem = s.mem
        ∧ ∀ k, k ≠ n.toNat → Tab.find (t.core core).guards k = Tab.find (s.core core).guards k
    let trap : TrapInfo := { cause := .guardstate, addr := n.setWidth 64 }
    let queue (t : State) : List CopyCmd :=
      match t.grp? s.w.id.gang s.w.id.group with
      | some g => g.copyq
      | none => []
    (∀ c, s.clear (.gset h n c) = true →
      let v := s.rdW c
      (v.valid = false → movesTo (.gset h n c) s (s.w.pcNow + 12))
      ∧ (v.valid = true → view = .own .unresolved →
          ∃ t, quiet (.gset h n c) t ∧ slot t = some (mine (if v.bits.setWidth 32 = (0 : Word) then .no else .yes))
            ∧ queue t = (queue s).map (fun q =>
                if q.bound = true ∧ q.op.gsl = n then
                  { q with bound := false, go := some (decide (v.bits.setWidth 32 ≠ (0 : Word)) != q.op.gpol) } else q))
      ∧ (v.valid = true → view ≠ .own .unresolved → trapsWith (.gset h n c) s trap))
    ∧ (s.clear (.gclr h n) = true →
      (view = .foreign → trapsWith (.gclr h n) s trap)
      ∧ (view ≠ .foreign → ∃ t, quiet (.gclr h n) t ∧ slot t = some (mine .unresolved)))
    ∧ (s.clear (.gclrFree h n) = true →
      (view = .foreign ∨ view = .free → trapsWith (.gclrFree h n) s trap)
      ∧ (∀ st, view = .own st → ∃ t, quiet (.gclrFree h n) t ∧ slot t = none
          ∧ queue t = (queue s).map (fun q =>
              if q.bound = true ∧ q.op.gsl = n then { q with bound := false, go := some false } else q)))

/-- XKICK, TLWAIT, its token form and TLREAD (R304, R307): an invalid operand nullifies them and a context that is not
the stream's own traps ENGPERM; XKICK writes WIDX after a release; TLWAIT is over once TL has reached the value and
waits until then; the token form makes its token ready with TL[31:0], or pending; TLREAD writes TL to a pair. -/
def Obligations.EngineInstructions : Prop :=
  ∀ (h : Hdr) (e v : Operand) (s : State), s.plain →
    let a := s.rdW e
    let w := s.rdW v
    let y := s.rdOp .n64 2 v 0
    let eng := s.eng a.bits.toNat
    let perm : TrapInfo := { cause := .engperm, addr := BitVec.ofNat 64 a.bits.toNat }
    (s.clear (.xkick h e v) = true →
      ((a.valid && w.valid) = false → movesTo (.xkick h e v) s (s.w.pcNow + 12))
      ∧ ((a.valid && w.valid) = true → s.engOk a.bits.toNat = false → trapsWith (.xkick h e v) s perm)
      ∧ ((a.valid && w.valid) = true → s.engOk a.bits.toNat = true → s.sendWaveLines.releaseIds .device = [] →
          ∃ t, exec (.xkick h e v) s = .next t ∧ advanced (.xkick h e v) s t ∧ sameV s.w t.w ∧ sameS s.w t.w
            ∧ (eng.stop = true → t.eng a.bits.toNat = eng)
            ∧ (eng.stop = false → (t.eng a.bits.toNat).widx = BitVec.ofNat 32 w.bits.toNat
                ∧ ((t.eng a.bits.toNat).stop = true ↔
                    2 ^ eng.rk < (w.bits.toNat + 2 ^ 32 - eng.ridx.toNat) % 2 ^ 32))))
    ∧ (s.clear (.tlwait h e v) = true →
      ((a.valid && y.valid) = false → movesTo (.tlwait h e v) s (s.w.pcNow + 12))
      ∧ ((a.valid && y.valid) = true → s.engOk a.bits.toNat = false → trapsWith (.tlwait h e v) s perm)
      ∧ ((a.valid && y.valid) = true → s.engOk a.bits.toNat = true → y.bits.toNat ≤ eng.tl →
          ∃ t, exec (.tlwait h e v) s = .next t ∧ advanced (.tlwait h e v) s t ∧ sameV s.w t.w ∧ sameS s.w t.w
            ∧ t.mem = s.mem ∧ (s.w.belay = false → ∀ l ∈ (t.core s.w.core).l1, l.kind ≠ 1 ∧ l.kind ≠ 2))
      ∧ ((a.valid && y.valid) = true → s.engOk a.bits.toNat = true → eng.tl < y.bits.toNat →
          waitsFor (.tlwait h e v) s (.tlwait a.bits.toNat y.bits.toNat)))
    ∧ (∀ tok : BitVec 4, s.clear (.tlwaitToken h e v tok) = true →
      let x : Instr := .tlwaitToken h e v tok
      ((a.valid && y.valid) = false → movesTo x s (s.w.pcNow + 12))
      ∧ ((a.valid && y.valid) = true → (s.w.tok tok.toNat).st = .pending →
          trapsWith x s { cause := .tokbusy, addr := BitVec.ofNat 64 tok.toNat })
      ∧ ((a.valid && y.valid) = true → (s.w.tok tok.toNat).st ≠ .pending → s.engOk a.bits.toNat = false →
          trapsWith x s perm)
      ∧ ((a.valid && y.valid) = true → (s.w.tok tok.toNat).st ≠ .pending → s.engOk a.bits.toNat = true →
          ∃ t, exec x s = .next t ∧ advanced x s t ∧ sameV s.w t.w ∧ sameS s.w t.w ∧ t.mem = s.mem
            ∧ (∀ k, k ≠ tok.toNat → t.w.tok k = s.w.tok k) ∧ (t.w.tok tok.toNat).tl = true
            ∧ (y.bits.toNat ≤ eng.tl → (t.w.tok tok.toNat).st = .ready
                ∧ (t.w.tok tok.toNat).value = BitVec.ofNat 32 eng.tl ∧ (t.w.tok tok.toNat).valid = true)
            ∧ (eng.tl < y.bits.toNat → (t.w.tok tok.toNat).st = .pending
                ∧ (t.eng a.bits.toNat).watch = eng.watch ++ [⟨s.w.id, tok.toNat, y.bits.toNat⟩])))
    ∧ (∀ d, s.clear (.tlread h d e) = true →
      (a.valid = true → s.engOk a.bits.toNat = false → trapsWith (.tlread h d e) s perm)
      ∧ (a.valid = false ∨ s.engOk a.bits.toNat = true →
          laneEffect (.tlread h d e) s h.guard (.s d) 2 (fun _ =>
            ⟨if a.valid then ⟨BitVec.ofNat 64 eng.tl, true⟩ else Val.none, none, false⟩)))

/-! The matrix unit. -/

/-- The matrix instructions but MMERGE and MWAIT (R221 to R223, R225, R232): they wait for the slots of WAIT and for what an
acquire orders before them; a recorded fault
is delivered where WAIT is not 0; an invalid word nullifies them; a failing check traps MATARG with its number; else
the operation is dispatched, its slot counts it, and no register and no device memory changes. -/
def Obligations.MatrixInstructionsDispatch : Prop :=
  ∀ (m : MatOp) (c a b : BitVec 8) (nsp slot mtk : BitVec 2) (clr : Bool) (rnd : Rnd) (s : State) (g : Gang) (bl : Belay),
    s.plain → s.gang? s.w.id.gang = some g → g.belay = some bl →
    ∀ (x : Instr) (k : MatShape) (rd ra rb : Nat × Nat),
      (x, k, rd, ra, rb) ∈
        [ (Instr.mma m c a b, MatShape.mul, (c.toNat, 3), (a.toNat, 3), (b.toNat, 3)),
          (.mmas m c a b nsp, .mul, (c.toNat, 3), (a.toNat, 3), (b.toNat, 3)),
          (.mmae m c a b, .mul, (c.toNat, 3), (a.toNat, 3), (b.toNat, 3)),
          (.mmaeSparse m c a b nsp, .mul, (c.toNat, 3), (a.toNat, 3), (b.toNat, 3)),
          (.mzero m c clr mtk, .zero, (c.toNat, 3), (0, 0), (0, 0)),
          (.mcvt m c a rnd, .cvt, (c.toNat, 3), (a.toNat, 3), (0, 0)),
          (.dectab m a slot, .tab, (0, 0), (a.toNat, 1), (0, 0)) ] →
      s.clear x = true →
      let regs (r : Nat × Nat) : List RWord := (List.range r.2).map (fun j => s.w.rdS (r.1 + j))
      let fmt := regs (m.fb.toNat, 8)
      let words (r : List RWord) : List Word := r.map (·.data)
      let j : MatJob := ⟨s.nextId, x, s.w.pcNow, words (regs rd), words (regs ra), words (regs rb), words fmt,
        if m.setEn then some m.set.toNat else none, [], [], []⟩
      let valid := (regs rd ++ regs ra ++ regs rb ++ k.used.map (fun n => fmt.getD n RWord.none)).all (·.valid)
      (bl.clear m.wait = false → waitsFor x s (.slots m.wait))
      ∧ (bl.clear m.wait = true → s.fencedIds false ≠ [] → waitsFor x s (.remote (s.fencedIds false)))
      ∧ (bl.clear m.wait = true → s.fencedIds false = [] →
        (∀ i, m.wait ≠ 0 → bl.delivery = some i → s.w.owedError = none →
            exec x s = .next (s.clearFault.trapNow (wordOf x) i))
        ∧ (m.wait = 0 ∨ bl.delivery = none →
          (valid = false → movesTo x s (s.w.pcNow + 12))
          ∧ (valid = true → (∀ ws ∈ j.modes k, (layOf ws).mode < 8) →
            (∀ n, j.check k g.launch g.groups.length = some n → trapsWith x s (matArg n))
            ∧ (j.check k g.launch g.groups.length = none → bl.full m = false →
              ∃ t g' bl' todo, exec x s = .next t ∧ advanced x s t ∧ sameRegs s t ∧ t.mem = s.mem
                ∧ t.gang? s.w.id.gang = some g' ∧ g'.belay = some bl' ∧ bl'.pend = (bl.enter m).pend
                ∧ bl'.flight = bl.flight ++ [{ j with todo := todo }]
                ∧ ∀ n ∈ todo, n ∈ spanGroups (fmtOf (words fmt))))))

/-- MZERO of an idle gang (R230): in each group of its span the M by N words of C read 0 and `mt=k` clears merge counter
k; no other byte of C, no other buffer and no other group changes. -/
def Obligations.MzeroClearsC : Prop :=
  ∀ (m : MatOp) (c : BitVec 8) (clr : Bool) (mtk : BitVec 2) (s t : State) (g : Gang) (bl : Belay),
    let x : Instr := .mzero m c clr mtk
    let regs (r n : Nat) : List RWord := (List.range n).map (fun j => s.w.rdS (r + j))
    let dw := (regs c.toNat 3).map (·.data)
    let fw := (regs m.fb.toNat 8).map (·.data)
    let d := layOf dw
    let f := fmtOf fw
    s.plain → s.clear x = true → s.gang? s.w.id.gang = some g → g.belay = some bl → bl.clear m.wait = true →
    s.fencedIds false = [] → m.wait = 0 ∨ bl.delivery = none → bl.flight = [] → bl.full m = false →
    (∀ y ∈ g.groups, y.merges = [] ∧ y.copyq = [] ∧ y.cb.wf = true) →
    (regs c.toNat 3).all (·.valid) = true → (∀ k ∈ [4, 6, 7], (s.w.rdS (m.fb.toNat + k)).valid = true) → d.mode < 8 →
    (MatJob.mk s.nextId x s.w.pcNow dw [] [] fw (if m.setEn then some m.set.toNat else none) [] [] []).check .zero g.launch
      g.groups.length = none →
    exec x s = .next t → ∀ n y, g.groups[n]? = some y →
      let hit : Prop := f.span / 2 ^ n % 2 = 1
      ∃ y', t.grp? s.w.id.gang n = some y' ∧ y'.ab = y.ab ∧ y'.wb = y.wb
        ∧ (clr = true → hit → y'.mt = y.mt.set mtk.toNat 0) ∧ (clr = false ∨ ¬ hit → y'.mt = y.mt)
        ∧ ∀ q,
          let inTile : Prop := ∃ i k, i < f.m ∧ k < f.n ∧ d.base + i * d.rs + 4 * k ≤ q ∧ q < d.base + i * d.rs + 4 * k + 4
          (hit → inTile → y'.cb.read q = 0) ∧ (¬ (hit ∧ inTile) → y'.cb.read q = y.cb.read q)

/-- MMERGE and MWAIT (R229, R232): the merge joins the pending list of its destination once that has room, with the
ticket, counter and tile of its words, and its slot counts it; a group may merge a tile of its own into another that does not overlap
it, and traps MATARG 5 where they do; a failing check traps MATARG; no register and no device
memory changes. MWAIT waits until the slots of its mask are empty, delivers a recorded fault, and else writes MSTAT to
sD and clears it; s0 discards the word and MSTAT is still cleared. -/
def Obligations.MergesAndStatus : Prop :=
  ∀ (h : Hdr) (m : MatOp) (c p t d : BitVec 8) (mask : BitVec 16) (s : State) (g : Gang) (bl : Belay), s.plain →
    s.gang? s.w.id.gang = some g → g.belay = some bl → s.fencedIds false = [] →
    (s.clear (.mmerge m c p t) = true → bl.clear m.wait = true → m.wait = 0 ∨ bl.delivery = none →
       let x : Instr := .mmerge m c p t
       let regs (r : Nat) : List RWord := (List.range 3).map (fun j => s.w.rdS (r + j))
       let d := layOf ((regs c.toNat).map (·.data))
       let e := layOf ((regs p.toNat).map (·.data))
       let tk := (s.w.rdS t.toNat).data.toNat
       let sh := s.w.rdS (m.fb.toNat + 4)
       let rows := sh.data.toNat % 2 ^ 7 + 1
       let cols := sh.data.toNat / 2 ^ 8 % 2 ^ 9 + 1
       let dst := tk / 2 ^ 6 % 64
       let src := tk % 64
       let valid := (regs c.toNat ++ regs p.toNat ++ [s.w.rdS t.toNat, sh]).all (·.valid)
       (valid = false → movesTo x s (s.w.pcNow + 12))
       ∧ (valid = true → d.mode < 8 → e.mode < 8 →
         layReserved ((regs c.toNat).map (·.data)) = false → layReserved ((regs p.toNat).map (·.data)) = false →
         shapeReserved sh.data = false →
         (tk / 2 ^ 14 % 4 ≠ 0 → trapsWith x s (matArg 1))
         ∧ (tk / 2 ^ 14 % 4 = 0 → g.groups.length ≤ dst ∨ g.groups.length ≤ src → trapsWith x s (matArg 5))
         ∧ (∀ y, tk / 2 ^ 14 % 4 = 0 → src = dst → g.groups[dst]? = some y → d.base ≤ e.cEnd rows cols → e.base ≤ d.cEnd rows cols →
             trapsWith x s (matArg 5))
         ∧ (∀ y, tk / 2 ^ 14 % 4 = 0 → src < g.groups.length → g.groups[dst]? = some y →
           src ≠ dst ∨ e.cEnd rows cols < d.base ∨ d.cEnd rows cols < e.base →
           (d.cBad cols = true ∨ e.cBad cols = true → trapsWith x s (matArg 6))
           ∧ (d.cBad cols = false → e.cBad cols = false →
             (g.launch.cb ≤ d.cEnd rows cols ∨ g.launch.cb ≤ e.cEnd rows cols → trapsWith x s (matArg 7))
             ∧ (d.cEnd rows cols < g.launch.cb → e.cEnd rows cols < g.launch.cb → y.merges.length < 16 → bl.full m = false →
               ∃ u g' bl' k, exec x s = .next u ∧ advanced x s u ∧ sameRegs s u ∧ u.mem = s.mem
                 ∧ u.gang? s.w.id.gang = some g' ∧ g'.belay = some bl' ∧ bl'.pend = (bl.enter m).pend ∧ bl'.flight = bl.flight
                 ∧ k.ticket = tk / 2 ^ 16 ∧ k.mtk = tk / 2 ^ 12 % 4 ∧ k.src = src ∧ k.dst = dst ∧ k.m = rows ∧ k.n = cols
                 ∧ ∀ n z, g.groups[n]? = some z → g'.groups[n]? =
                     some (if n = dst then { z with merges := z.merges ++ [k] } else z))))))
    ∧ (s.clear (.mwait h d mask) = true →
       let x : Instr := .mwait h d mask
       (bl.clear mask = false → waitsFor x s (.slots mask))
       ∧ (bl.clear mask = true →
         (∀ i, bl.delivery = some i → s.w.owedError = none → exec x s = .next (s.clearFault.trapNow (wordOf x) i))
         ∧ (bl.delivery = none → ∃ u g', exec x s = .next u ∧ advanced x s u
             ∧ scalarOnly s u d.toNat ⟨BitVec.ofNat 32 bl.cxn, true⟩ ∧ u.mem = s.mem
             ∧ u.gang? s.w.id.gang = some g' ∧ g'.belay = some { bl with cxn := 0 } ∧ g'.groups = g.groups)))

/-! Neural calls, tokens and rays. -/

/-- NCALL (R271 to R274): a pending token traps TOKBUSY; lanes with an invalid word are nullified; with no lane left the
token is ready with 0; else it is pending, the call enters the cluster's intake with every acting lane's handle and
inputs, and no other register changes. It waits while the intake accepts none (R282) and for what a fill must see
performed (R278). -/
def Obligations.NeuralCallEntersTheIntake : Prop :=
  ∀ (h : Hdr) (tok : BitVec 4) (d a : BitVec 8) (hnd : Operand) (nin1 : BitVec 5) (nout1 : BitVec 4) (s : State), s.plain →
    let x : Instr := .ncall h tok d a hnd nin1 nout1
    s.clear x = true →
    let q := tok.toNat
    let nin := nin1.toNat + 1
    let nout := nout1.toNat + 1
    let handle (l : Nat) : Val := s.rdOp .i32 1 hnd l
    let input (l : Nat) : List RWord := (List.range nin).map (fun k => VReg.lane (s.w.rdV (a.toNat + k)) l)
    let m := s.w.inLanes h.guard
    let act := laneMask (fun l => m.getLsbD l && (handle l).valid && (input l).all (·.valid))
    let stalled := (s.cluster (s.w.core / 64)).stalled
    let waits := s.fillWaits ((lanesOf act).map (fun l => (handle l).bits.toNat % 2 ^ 16))
    ((s.w.tok q).st = .pending → trapsWith x s { cause := .tokbusy, addr := BitVec.ofNat 64 q })
    ∧ ((s.w.tok q).st ≠ .pending → act ≠ 0 → stalled = true → waitsFor x s .busy)
    ∧ ((s.w.tok q).st ≠ .pending → act ≠ 0 → stalled = false → waits ≠ [] → waitsFor x s (.remote waits))
    ∧ ((s.w.tok q).st ≠ .pending → act = 0 ∨ (stalled = false ∧ waits = []) →
        ∃ t, exec x s = .next t ∧ advanced x s t ∧ otherTokens s t q ∧ sameS s.w t.w
        ∧ sameSpecials s.w t.w ∧ lanesNulled s t d.toNat nout (m &&& ~~~act) ∧ t.mem = s.mem
        ∧ (act = 0 → sameOutside s t ∧ (t.w.tok q).st = .ready ∧ (t.w.tok q).value = 0 ∧ (t.w.tok q).valid = true)
        ∧ (act ≠ 0 → (t.w.tok q).st = .pending
            ∧ t.w.jobs = s.w.jobs ++ [⟨s.nextId, false, q, d.toNat, nout, act, act, 0, 0, 0⟩]
            ∧ ∃ c, (t.cluster (s.w.core / 64)).intake = (s.cluster (s.w.core / 64)).intake ++ [c]
                ∧ c.wave = s.w.id ∧ c.job = s.nextId ∧ c.ctx = s.w.place.ctx ∧ c.taken = false
                ∧ c.lanes = (lanesOf act).map (fun l =>
                    (l, (handle l).bits.toNat % 2 ^ 16, (input l).map (·.data)))))

/-- WPIN, WUNPIN, WPREF and its drop form (R278 to R280): an invalid handle nullifies them; WPIN of a cached set writes 0
and raises its pin count, or 3 where the count or the pinned bytes would be exceeded; WUNPIN lowers the count, not
below 0; WPREF of a cached set changes nothing; the drop form marks an unpinned set, which leaves once no row uses it. A set that is not
cached is filled first, once what the fill must see has performed: WPIN writes the status of a set that is none, both wait where no
entry can make room, and an image that fits in what is free enters the cache, pinned by WPIN. -/
def Obligations.WeightSetInstructions : Prop :=
  ∀ (h : Hdr) (d : BitVec 8) (hnd : Operand) (s : State), s.plain →
    let v := s.rdOp .i32 1 hnd 0
    let n := v.bits.toNat % 2 ^ 16
    let cl := s.w.core / 64
    let ctx := s.w.place.ctx
    let c := s.cluster cl
    let rest (x : Instr) (t : State) : Prop := exec x s = .next t ∧ advanced x s t ∧ t.mem = s.mem
    (s.clear (.wpin h d hnd) = true →
      (v.valid = false → givesScalar (.wpin h d hnd) s d.toNat RWord.none)
      ∧ (∀ y, v.valid = true → c.set? ctx n = some y →
        (y.pin = 255 ∨ (y.pin = 0 ∧ 1048576 < c.pinned + y.size) →
          givesScalar (.wpin h d hnd) s d.toNat ⟨3, true⟩)
        ∧ (y.pin < 255 → y.pin ≠ 0 ∨ c.pinned + y.size ≤ 1048576 → ∃ t, rest (.wpin h d hnd) t
            ∧ scalarOnly s t d.toNat ⟨0, true⟩ ∧ (t.cluster cl).set? ctx n = some { y with pin := y.pin + 1 }))
      ∧ (v.valid = true → c.set? ctx n = none →
        let r := s.fillSet cl s.w.place.part ctx n
        let gives (k : Word) (after : State → Prop) : Prop :=
          ∃ t, exec (.wpin h d hnd) s = .next t ∧ advanced (.wpin h d hnd) s t ∧ scalarOnly s t d.toNat ⟨k, true⟩
            ∧ (s.still → t.mem = s.mem) ∧ after t
        (s.fillWaits [n] ≠ [] → waitsFor (.wpin h d hnd) s (.remote (s.fillWaits [n])))
        ∧ (s.fillWaits [n] = [] →
          (r.2 = .noRoom → exec (.wpin h d hnd) s = .next (holdAt r.1 .busy))
          ∧ (∀ k, r.2 = .status k → gives (BitVec.ofNat 32 k) (fun _ => True))
          ∧ (∀ a, r.2 = .bad a → ∃ k, gives k (fun _ => True))
          ∧ (∀ b ia, (s.readSet s.w.place.part ctx n).2 = .img b ia → s.unitsWait s.w.place.part = false →
              let size := (b.length + 127) / 128 * 128
              c.cached + size ≤ 2097152 →
              (c.pinned + size ≤ 1048576 → gives 0 (fun t => ∃ y, (t.cluster cl).set? ctx n = some y ∧ y.image = b ∧ y.pin = 1))
              ∧ (1048576 < c.pinned + size →
                  gives 3 (fun t => ∃ y, (t.cluster cl).set? ctx n = some y ∧ y.image = b ∧ y.pin = 0))))))
    ∧ (s.clear (.wunpin h hnd) = true →
      (v.valid = false → movesTo (.wunpin h hnd) s (s.w.pcNow + 12))
      ∧ (∀ y, v.valid = true → c.set? ctx n = some y → y.drop = false → ∃ t, rest (.wunpin h hnd) t
          ∧ sameRegs s t ∧ (t.cluster cl).set? ctx n = some { y with pin := y.pin - 1 })
      ∧ (v.valid = true → c.set? ctx n = none → ∃ t, rest (.wunpin h hnd) t ∧ sameRegs s t))
    ∧ (s.clear (.wpref h hnd) = true →
      (v.valid = false → movesTo (.wpref h hnd) s (s.w.pcNow + 12))
      ∧ (∀ y, v.valid = true → c.set? ctx n = some y → movesTo (.wpref h hnd) s (s.w.pcNow + 12))
      ∧ (v.valid = true → c.set? ctx n = none →
        let r := s.fillSet cl s.w.place.part ctx n
        let goes (after : State → Prop) : Prop :=
          ∃ t, exec (.wpref h hnd) s = .next t ∧ advanced (.wpref h hnd) s t ∧ sameRegs s t ∧ (s.still → t.mem = s.mem) ∧ after t
        (s.fillWaits [n] ≠ [] → waitsFor (.wpref h hnd) s (.remote (s.fillWaits [n])))
        ∧ (s.fillWaits [n] = [] →
          (r.2 = .noRoom → exec (.wpref h hnd) s = .next (holdAt r.1 .busy))
          ∧ (r.2 ≠ .noRoom → goes (fun _ => True))
          ∧ (∀ b ia, (s.readSet s.w.place.part ctx n).2 = .img b ia → s.unitsWait s.w.place.part = false →
              c.cached + (b.length + 127) / 128 * 128 ≤ 2097152 →
              goes (fun t => ∃ y, (t.cluster cl).set? ctx n = some y ∧ y.image = b ∧ y.pin = 0)))))
    ∧ (s.clear (.wprefDrop h hnd) = true →
      (v.valid = false → movesTo (.wprefDrop h hnd) s (s.w.pcNow + 12))
      ∧ (∀ y, v.valid = true → c.set? ctx n = some y → ∃ t, rest (.wprefDrop h hnd) t ∧ sameRegs s t
          ∧ (y.pin = 0 → c.inUse ctx n = true → (t.cluster cl).set? ctx n = some { y with drop := true })
          ∧ (y.pin = 0 → c.inUse ctx n = false → (∀ z ∈ c.cache, z.is ctx n = true → z = y) →
              (t.cluster cl).set? ctx n = none)
          ∧ (y.pin ≠ 0 → (t.cluster cl).set? ctx n = some y))
      ∧ (v.valid = true → c.set? ctx n = none → ∃ t, rest (.wprefDrop h hnd) t ∧ sameRegs s t))

/-- WAITQ and POLLQ (R93, R287, R289, R307, R394): an empty token gives 0, invalid; a pending one makes WAITQ wait and gives
POLLQ 0, invalid; a ready one gives its value and is empty after, with V and VALUE as they were; a ready one that reports
failed lanes traps DATAERR with them and the address of the bad byte; a token of TLWAIT acquires at its core. Both complete on
every token that reports no failed lane, WAITQ where it is not pending: sD gets the value, or 0, invalid, where nothing is
ready, the token is empty after a value has been taken, and no other register and no memory changes. -/
def Obligations.TokenReads : Prop :=
  (∀ (h : Hdr) (d : BitVec 8) (tok : BitVec 4) (s : State), s.plain →
      let q := tok.toNat
      let y := s.w.tok q
      let taken (x : Instr) : Prop :=
        (s.w.failedJob q = none → ∃ t, exec x s = .next t ∧ advanced x s t ∧ scalarOnly s t d.toNat ⟨y.value, y.valid⟩
          ∧ t.w.tok q = usedToken y ∧ otherTokens s t q ∧ t.mem = s.mem ∧ (y.tl = false → sameOutside s t)
          ∧ (y.tl = true → ∀ e ∈ (t.core s.w.core).l1, e.kind ≠ 1 ∧ e.kind ≠ 2))
        ∧ (∀ j, s.w.failedJob q = some j → s.w.owedError = none →
            exec x s = .next (trapAt x (s.setW ((s.w.clearFail j).setTok q (usedToken y)))
              { cause := .dataerr, addr := j.addr, lanes := j.failed }))
      (s.clear (.waitq h d tok) = true →
        (y.st = .empty → givesScalar (.waitq h d tok) s d.toNat RWord.none)
        ∧ (y.st = .pending → s.w.jobs.filter (fun j => j.tok == q) = [] → waitsFor (.waitq h d tok) s (.waitq q))
        ∧ (y.st = .ready → taken (.waitq h d tok)))
      ∧ (s.clear (.pollq h d tok) = true →
        (y.st ≠ .ready → givesScalar (.pollq h d tok) s d.toNat RWord.none)
        ∧ (y.st = .ready → taken (.pollq h d tok))))
  ∧ (∀ (h : Hdr) (d : BitVec 8) (tok : BitVec 4) (s : State), s.plain → s.w.failedJob tok.toNat = none →
      let q := tok.toNat
      let y := s.w.tok q
      let gives (x : Instr) : Prop :=
        ∃ t, exec x s = .next t ∧ advanced x s t ∧ t.mem = s.mem ∧ otherTokens s t q
          ∧ scalarOnly s t d.toNat (if y.st = .ready then ⟨y.value, y.valid⟩ else RWord.none)
          ∧ (t.w.tok q).st = (if y.st = .ready then .empty else y.st)
          ∧ (t.w.tok q).value = y.value ∧ (t.w.tok q).valid = y.valid
      (s.clear (.waitq h d tok) = true → y.st ≠ .pending → gives (.waitq h d tok))
      ∧ (s.clear (.pollq h d tok) = true → gives (.pollq h d tok)))

/-- TRACE, its next form and TREND (R330 to R334): TRACE with an invalid base or count nullifies its lanes; a pending
token traps TOKBUSY, ill-formed arguments RAYARG; each acting lane gets its ray, or in the next form its ray with tmax
lowered, and the token is pending; TREND ends the rays of its lanes and says which had one. That the nullifying of TRACE comes
before its TOKBUSY is the model's order (log 62, DEDUCED). -/
def Obligations.RayInstructions : Prop :=
  ∀ (h : Hdr) (tok : BitVec 4) (d a b : BitVec 8) (s : State), s.plain →
    let q := tok.toNat
    let m := s.w.inLanes h.guard
    let busy : TrapInfo := { cause := .tokbusy, addr := BitVec.ofNat 64 q }
    let sent (x : Instr) (act : Word) (ray : Nat → Option Ray) : Prop :=
      ∃ t, exec x s = .next t ∧ advanced x s t ∧ otherTokens s t q ∧ sameS s.w t.w ∧ sameSpecials s.w t.w
        ∧ lanesNulled s t d.toNat 2 (m &&& ~~~act) ∧ t.mem = s.mem
        ∧ (act = 0 → (t.w.tok q).st = .ready ∧ (t.w.tok q).value = 0 ∧ (t.w.tok q).valid = true ∧ t.w.jobs = s.w.jobs)
        ∧ (act ≠ 0 → (t.w.tok q).st = .pending
            ∧ t.w.jobs = s.w.jobs ++ [⟨s.nextId, true, q, d.toNat, 2, act, act, 0, 0, 0⟩]
            ∧ ∀ l, l < 32 → Tab.find t.w.rays l =
                if act.getLsbD l = true ∧ (ray l).isSome = true then ray l else Tab.find s.w.rays l)
    (s.clear (.trace h tok d a b) = true →
      let x : Instr := .trace h tok d a b
      let base := s.w.rdPair b.toNat
      let c := s.w.rdS (b.toNat + 2)
      let depth := c.data.toNat % 16
      let lp := c.data.toNat / 2 ^ 16
      let ws (l : Nat) : List RWord := s.w.rayWords a.toNat 8 l
      let act := laneMask (fun l => m.getLsbD l && (ws l).all (·.valid))
      let word (l k : Nat) : Word := (VReg.lane (s.w.rdV (a.toNat + k)) l).data
      ((base.valid && c.valid) = false → ∃ t, exec x s = .next t ∧ advanced x s t ∧ sameOutside s t ∧ sameS s.w t.w
          ∧ sameSpecials s.w t.w ∧ sameUnits s.w t.w ∧ lanesNulled s t d.toNat 2 m)
      ∧ ((base.valid && c.valid) = true →
        ((s.w.tok q).st = .pending → trapsWith x s busy)
        ∧ ((s.w.tok q).st ≠ .pending →
          (c.data.toNat / 2 ^ 4 % 2 ^ 12 ≠ 0 ∨ depth = 0 ∨ 10 < depth ∨ lp = 0 ∨ base.bits.toNat % 512 ≠ 448 →
            trapsWith x s { cause := .rayarg })
          ∧ (c.data.toNat / 2 ^ 4 % 2 ^ 12 = 0 → 0 < depth → depth ≤ 10 → lp ≠ 0 → base.bits.toNat % 512 = 448 →
            (s.hierarchyOk base.bits.toNat depth = false → trapsWith x s (rangeFault act base.bits.toNat))
            ∧ (s.hierarchyOk base.bits.toNat depth = true →
              (s.w.tracing &&& act ≠ 0 → waitsFor x s .busy)
              ∧ (s.w.tracing &&& act = 0 → sent x act (fun l => some
                  ⟨[word l 0, word l 1, word l 2], [word l 3, word l 4, word l 5], word l 6, word l 7, base.bits.toNat,
                    depth, lp, [(0, word l 6)]⟩)))))))
    ∧ (s.clear (.traceNext h tok d a) = true →
      let x : Instr := .traceNext h tok d a
      let w (l : Nat) : RWord := VReg.lane (s.w.rdV a.toNat) l
      let act := laneMask (fun l => m.getLsbD l && (w l).valid)
      ((s.w.tok q).st = .pending → trapsWith x s busy)
      ∧ ((s.w.tok q).st ≠ .pending →
        (s.w.tracing &&& act ≠ 0 → waitsFor x s .busy)
        ∧ (s.w.tracing &&& act = 0 → sent x act (fun l => (Tab.find s.w.rays l).map (fun r =>
            { r with tmax := BitVec.ofNat 32 (minMaxF .f32 false r.tmax.toNat (w l).data.toNat) })))))
    ∧ (s.clear (.trend h d) = true →
      (s.w.tracing &&& m ≠ 0 → waitsFor (.trend h d) s .busy)
      ∧ (s.w.tracing &&& m = 0 → ∃ t, exec (.trend h d) s = .next t ∧ advanced (.trend h d) s t ∧ sameOutside s t
          ∧ sameS s.w t.w ∧ sameSpecials s.w t.w ∧ t.w.q = s.w.q ∧ t.w.jobs = s.w.jobs
          ∧ ∀ l, l < 32 →
            (m.getLsbD l = true → Tab.has t.w.rays l = false
              ∧ VReg.lane (t.w.rdV d.toNat) l = if Tab.has s.w.rays l = true then ⟨1, true⟩ else RWord.none)
            ∧ (m.getLsbD l = false → Tab.find t.w.rays l = Tab.find s.w.rays l
              ∧ VReg.lane (t.w.rdV d.toNat) l = VReg.lane (s.w.rdV d.toNat) l)
            ∧ ∀ k, k ≠ d.toNat → VReg.lane (t.w.rdV k) l = VReg.lane (s.w.rdV k) l))

/-- GEMIT and GDONE (R319 to R321): outside shading, or after GDONE, they trap GRIDSTATE; GEMIT waits while its grid
holds no reservation and none is free, and else keeps the eight words of each acting lane whose words are all valid;
GDONE closes the wave's part of its grid. Where the grid has been dropped (R335), GEMIT keeps nothing and GDONE closes only
the wave itself. -/
def Obligations.GridInstructions : Prop :=
  ∀ (h : Hdr) (a : BitVec 8) (s : State), s.plain →
    let cl := s.w.core / 64
    let c := s.cluster cl
    let m := s.w.inLanes h.guard
    let words (l : Nat) : List RWord := s.w.rayWords a.toNat 8 l
    (s.clear (.gemit h a) = true →
      (s.w.grid? = none ∨ s.w.gdone = true → trapsWith (.gemit h a) s { cause := .gridstate })
      ∧ (∀ n, s.w.grid? = some n → s.w.gdone = false → s.grid? cl n = none → movesTo (.gemit h a) s (s.w.pcNow + 12))
      ∧ (∀ n g, s.w.grid? = some n → s.w.gdone = false → Tab.find c.grids n = some g → g.gang = s.w.id.gang →
        (g.reserved = false → Config.nGrid ≤ c.reservedGrids → waitsFor (.gemit h a) s .gemit)
        ∧ (g.reserved = true ∨ c.reservedGrids < Config.nGrid → ∃ t g', exec (.gemit h a) s = .next t
            ∧ advanced (.gemit h a) s t ∧ sameRegs s t ∧ sameUnits s.w t.w ∧ t.mem = s.mem
            ∧ Tab.find (t.cluster cl).grids n = some g' ∧ g'.reserved = true ∧ g'.closed = g.closed
            ∧ ∀ k, Tab.find g'.recs k =
                if k / 32 = s.w.id.wave ∧ m.getLsbD (k % 32) = true ∧ (words (k % 32)).all (·.valid) = true then
                  some ((words (k % 32)).map (·.data))
                else if g.reserved = true then Tab.find g.recs k else none)))
    ∧ (s.clear (.gdone h) = true →
      (s.w.grid? = none ∨ s.w.gdone = true → trapsWith (.gdone h) s { cause := .gridstate })
      ∧ (∀ n, s.w.grid? = some n → s.w.gdone = false → s.grid? cl n = none →
          ∃ t, exec (.gdone h) s = .next t ∧ advanced (.gdone h) s t ∧ sameOutside s t ∧ sameRegs s t ∧ t.w.gdone = true)
      ∧ (∀ n g, s.w.grid? = some n → s.w.gdone = false → Tab.find c.grids n = some g → g.gang = s.w.id.gang →
          ∃ t, exec (.gdone h) s = .next t ∧ advanced (.gdone h) s t ∧ sameRegs s t ∧ t.w.gdone = true ∧ t.mem = s.mem
            ∧ Tab.find (t.cluster cl).grids n = some { g with closed := g.closed ++ [s.w.id.wave] }))

/-! Arrival barriers, tickets and the containment tree. -/

/-- The barrier instructions (R381 to R387): counts out of range trap ABARG and a barrier of another group ABSTATE; a free
barrier is claimed with balances and phase 0 and the error that it holds;
ABINIT arms with the amounts added to the balances, and a phase whose balances are both 0 is complete; its reset and
free forms clear and return it; ABARR takes the arrivals off, or records ABRANGE's cause 3; ABWAIT waits while the
phase stands and no error is recorded, and then writes the status word. -/
def Obligations.BarrierInstructions : Prop :=
  ∀ (h : Hdr) (n : BitVec 4) (o p : Operand) (d : BitVec 8) (s : State), s.plain →
    let g := s.w.id.gang
    let j := s.w.id.group
    let y := s.rdW o
    let z := s.rdW p
    let argErr : TrapInfo := { cause := .abarg, addr := n.setWidth 64 }
    let stateErr : TrapInfo := { cause := .abstate, addr := n.setWidth 64 }
    let after (k : Nat) : ABar := (s.bar? g k n.toNat).getD
      ⟨g, k, false, (s.barErr g k n.toNat).isSome, (s.barErr g k n.toNat).getD 0, 0, 0, 0⟩
    let event (x : Instr) (k : Nat) (b : ABar) : Prop :=
      ∃ t, exec x s = .next t ∧ advanced x s t ∧ sameRegs s t ∧ t.mem = s.mem ∧ t.bar? g k n.toNat = some b
    (s.clear (.abinit h n o p) = true →
      let x : Instr := .abinit h n o p
      ((y.valid && z.valid) = false → movesTo x s (s.w.pcNow + 12))
      ∧ ((y.valid && z.valid) = true →
        (2 ^ 23 ≤ y.bits.toNat ∨ 127 < z.bits.toNat → trapsWith x s argErr)
        ∧ (y.bits.toNat < 2 ^ 23 → z.bits.toNat ≤ 127 →
          (s.barForeign g j n.toNat = true → trapsWith x s stateErr)
          ∧ (s.barForeign g j n.toNat = false → s.barHome g j ≠ .gone →
            let b := after j
            let nb := b.pend + y.bits.toNat
            let na := b.arr + z.bits.toNat
            (nb ≤ 2 ^ 23 - 1 → -(2 ^ 23 - 1) ≤ nb → -127 ≤ na → na ≤ 127 →
              (nb = 0 → na = 0 → event x j { b with pend := 0, arr := 0, armed := false, phase := (b.phase + 1) % 16 })
              ∧ (nb ≠ 0 ∨ na ≠ 0 → event x j { b with pend := nb, arr := na, armed := true }))
            ∧ (2 ^ 23 - 1 < nb → b.ef = false → event x j { b with ef := true, ecause := 2 })))))
    ∧ (s.clear (.abinitReset h n) = true →
      (s.barOwn n.toNat = false → trapsWith (.abinitReset h n) s stateErr)
      ∧ (s.barOwn n.toNat = true →
          event (.abinitReset h n) j { after j with pend := 0, arr := 0, ef := false, ecause := 0, armed := false }))
    ∧ (s.clear (.abinitFree h n) = true →
      (s.barOwn n.toNat = false → trapsWith (.abinitFree h n) s stateErr)
      ∧ (s.barOwn n.toNat = true → ∃ t, exec (.abinitFree h n) s = .next t ∧ advanced (.abinitFree h n) s t
          ∧ sameRegs s t ∧ t.mem = s.mem ∧ Tab.find (t.core s.w.core).bars n.toNat = none
          ∧ ∀ k, k ≠ n.toNat → Tab.find (t.core s.w.core).bars k = Tab.find (s.core s.w.core).bars k))
    ∧ (s.clear (.abarr h n o p) = true →
      let x : Instr := .abarr h n o p
      let k := y.bits.toNat
      ((y.valid && z.valid) = false → movesTo x s (s.w.pcNow + 12))
      ∧ ((y.valid && z.valid) = true →
        (s.w.place.ngroup ≤ k ∨ z.bits.toNat = 0 ∨ 127 < z.bits.toNat → trapsWith x s argErr)
        ∧ (k < s.w.place.ngroup → 0 < z.bits.toNat → z.bits.toNat ≤ 127 →
            (s.core s.w.core).upd = [] → s.releaseIds .gang = [] →
          (s.barForeign g k n.toNat = true → trapsWith x s stateErr)
          ∧ (s.barForeign g k n.toNat = false → s.barHome g k ≠ .gone →
            let b := after k
            let na := b.arr - z.bits.toNat
            b.pend ≤ 2 ^ 23 - 1 → -(2 ^ 23 - 1) ≤ b.pend → na ≤ 127 →
              (na < -127 → b.ef = false → event x k { b with ef := true, ecause := 3 })
              ∧ (-127 ≤ na →
                (b.armed = true → b.pend = 0 → na = 0 →
                  event x k { b with arr := 0, armed := false, phase := (b.phase + 1) % 16 })
                ∧ (b.armed = false ∨ b.pend ≠ 0 ∨ na ≠ 0 → event x k { b with arr := na }))))))
    ∧ (s.clear (.abwait h n d p) = true →
      let x : Instr := .abwait h n d p
      (z.valid = false → givesScalar x s d.toNat RWord.none)
      ∧ (z.valid = true →
        (s.barOwn n.toNat = false → trapsWith x s stateErr)
        ∧ (∀ b, s.bar? g j n.toNat = some b → s.barOwn n.toNat = true →
          (b.phase = z.bits.toNat % 16 → b.ef = false → waitsFor x s (.abwait n.toNat (z.bits.toNat % 16)))
          ∧ (b.phase ≠ z.bits.toNat % 16 ∨ b.ef = true → ∃ t, exec x s = .next t ∧ advanced x s t ∧ t.mem = s.mem
              ∧ scalarOnly s t d.toNat
                  ⟨BitVec.ofNat 32 ((if b.ef = true then 128 else 0) + 16 * b.ecause + b.phase), !b.ef⟩
              ∧ (b.ef = false → s.w.belay = false → ∀ e ∈ (t.core s.w.core).l1, e.kind ≠ 1)))))

/-- TKWAIT and TKADV (R388 to R390): an invalid operand gives 0, invalid; a misaligned or unmapped word traps. TKWAIT of
a word with no resident page gives 0, invalid; a word at or past the value, modulo 2^32, is written to sD after an
acquire, and any other makes the stream wait; it reaches its line once, and waits at its home slice for a shoot-down and the merges that it
has brought (R170, R349); the core keeps no copy of the word's line that is older than what has been read (R207). A
word of another node is asked for, awaited, judged when it has been answered and asked for again, and a request that fails is the
DATAERR of the TKWAIT (R424; that it is raised there is the model's reading, log 183). With nothing of the stream unperformed, TKADV adds to a local word on a
fit page modulo 2^32 as one event, sD takes the old word, and no other byte of device memory changes while no change
count is to step. -/
def Obligations.Tickets : Prop :=
  ∀ (h : Hdr) (d a : BitVec 8) (v : Operand) (sc : Scope) (s : State), s.plain →
    let va := s.w.rdPair a.toNat
    let y := s.rdW v
    let p := s.w.place.part
    (let x : Instr := .tkwait h d a v sc
     s.clear x = true →
      ((va.valid && y.valid) = false → givesScalar x s d.toNat RWord.none)
      ∧ ((va.valid && y.valid) = true →
        (∀ i, s.ticketAcc a false = .inr i → trapsWith x s i)
        ∧ (∀ acc, s.ticketAcc a false = .inl acc → (s.w.reached = [] → (s.sendReached [acc]).blockers false [acc] = []) →
          let reached (w : Nat) : Prop := (w + 2 ^ 32 - y.bits.toNat) % 2 ^ 32 < 2 ^ 31
          let hold (u : State) : Prop := exec x s = .next (holdAt u (.tkwait va.bits.toNat y.bits.toNat))
          let ends (w : Nat) : Prop := ∃ t, exec x s = .next t ∧ advanced x s t
            ∧ scalarOnly s t d.toNat ⟨BitVec.ofNat 32 w, true⟩
            ∧ (Scope.wide sc = true → s.w.belay = false → ∀ e ∈ (t.core s.w.core).l1, e.kind ≠ 1)
            ∧ (∀ ia ∈ acc.localIas, s.w.belay = false → ∀ e ∈ (t.core s.w.core).l1, e.ia ≠ ia / 128 * 128)
          (acc.remoteIas = [] →
            let u := (s.sendReached [acc]).reachTicket acc
            (u.2.any (u.1.lineWaits p) = true → exec x s = .next (holdAt u.1 (.merges u.2)))
            ∧ (u.2.any (u.1.lineWaits p) = false →
              let r := u.1.ticketRead acc
              (r.2 = none → ∃ t, exec x s = .next t ∧ advanced x s t ∧ scalarOnly s t d.toNat RWord.none)
              ∧ (∀ w, r.2 = some (w, false) → (reached w → ends w) ∧ (¬ reached w → hold r.1))
              ∧ (∀ w t i, r.2 = some (w, true) → r.1.ticketBad acc = .trap t i → s.w.owedError = none →
                  exec x s = .next (trapAt x t i))))
          ∧ (acc.remoteIas ≠ [] → acc.localIas = [] →
            let q := s.ticketAsk x va.bits.toNat y.bits.toNat
            (q = .unasked → hold (s.askTicket x acc))
            ∧ (q = .asked → hold s)
            ∧ (∀ e, q = .failed e → s.w.owedError = none →
                exec x s = .next (trapAt x (s.setW { s.w with errs := s.w.errs.filter (fun y => !(y == e)) })
                  { cause := e.cause, addr := e.addr, lanes := 1 }))
            ∧ (∀ w, q = .answered → (s.ticketRead acc).2 = some (w, false) →
                (reached w → ends w) ∧ (¬ reached w → hold ((s.ticketRead acc).1.askTicket x acc)))))))
    ∧ (let x : Instr := .tkadv h d a v sc
       s.clear x = true →
        ((va.valid && y.valid) = false → givesScalar x s d.toNat RWord.none)
        ∧ ((va.valid && y.valid) = true →
          (∀ i, s.ticketAcc a true = .inr i → trapsWith x s i)
          ∧ (∀ acc ia l, s.ticketAcc a true = .inl acc → acc.remoteIas = [] → (acc.span.headD (0, 0)).1 = ia →
            (∀ e ∈ s.w.errs, e.due = false) → s.unperformed p s.w.id = [] → (∀ z ∈ s.pendingAccs p, z.isMerge = false) → s.still → s.remoteErr true sc = none → (s.part p).held ia = false →
            (s.xlate p ia).2 = .leaf l → (Walk.leaf l).reason true = 0 → s.ecc = [] → s.sram = [] →
            (s.part p).ctk = 0 → s.mem.wf = true →
            let at_ := l.frame + ia % 4096
            let old := leNat (Mem.readN s.mem at_ 4)
            ∃ t, exec x s = .next t ∧ advanced x s t ∧ scalarOnly s t d.toNat ⟨BitVec.ofNat 32 old, true⟩
              ∧ ∀ pa, Mem.read t.mem pa =
                  if at_ ≤ pa ∧ pa < at_ + 4 then
                    (leBytes 4 ((old + y.bits.toNat % 2 ^ 32) % 2 ^ 32)).getD (pa - at_) 0
                  else Mem.read s.mem pa)))

/-- CTREAD and CTSETTLE (R370, R374, R375): an invalid operand nullifies them and an out-of-range node traps CTARG;
CTREAD puts into flight the 48-bit count of the node, invalid where the node is refused or saturated; CTSETTLE of an
own node passes up what is pending beneath it, and of any other node does nothing. That the count is fixed in the step that issues CTREAD
(log 25, DEDUCED) and that CTSETTLE passes everything up in its own step (log 74, DESIGN CHOICE) are the model's choices. -/
def Obligations.TreeReads : Prop :=
  ∀ (h : Hdr) (d n : BitVec 8) (s : State), s.plain →
    let y := s.w.rdS n.toNat
    let m := y.data.toNat
    let p := s.w.place.part
    let k := (s.part p).ctk
    let out : Prop := k = 0 ∨ 2 ^ k ≤ m
    (s.clear (.ctread h d n) = true →
      let x : Instr := .ctread h d n
      let gives (v : Nat) (ok : Bool) : Prop :=
        ∃ t e, exec x s = .next t ∧ t.w.flight = s.w.flight ++ [e] ∧ e.dests = writes x ∧ advanced x s t ∧ sameRegs s t
          ∧ t.mem = s.mem ∧ e.bad = 0 ∧ e.waits = []
          ∧ e.res = [VReg.splat ⟨BitVec.ofNat 32 v, ok⟩, VReg.splat ⟨BitVec.ofNat 32 (v / 2 ^ 32), ok⟩]
      (y.valid = false → ∃ t, exec x s = .next t ∧ advanced x s t ∧ sameOutside s t ∧ sameV s.w t.w
          ∧ ∀ r, t.w.rdS r = if (r = d.toNat ∨ r = d.toNat + 1) ∧ r ≠ 0 then RWord.none else s.w.rdS r)
      ∧ (y.valid = true → out → trapsWith x s (ctArg m))
      ∧ (y.valid = true → k ≠ 0 → m < 2 ^ k → s.fencedIds false = [] →
        (s.refused m = true → gives 0 false)
        ∧ (s.refused m = false → s.nodeSat p m = true → gives (2 ^ 48 - 1) false)
        ∧ (s.refused m = false → s.nodeSat p m = false → gives (s.nodeCount p m) true)))
    ∧ (s.clear (.ctsettle h n) = true →
      let x : Instr := .ctsettle h n
      (y.valid = false → movesTo x s (s.w.pcNow + 12))
      ∧ (y.valid = true → out → trapsWith x s (ctArg m))
      ∧ (y.valid = true → k ≠ 0 → m < 2 ^ k →
        (s.refused m = true → movesTo x s (s.w.pcNow + 12))
        ∧ (s.refused m = false → (s.core s.w.core).upd = [] → s.releaseIds .system = [] →
            completes x s (s.settle p m))))

/-- CTNEW, CTENR, CTLEAVE, CTREPAR and CTFREE (R370 to R373, R377, R378): an invalid operand gives 0, invalid, an
out-of-range one traps CTARG, and a refusal gives its reason, invalid; CTNEW gives the lowest unused node; CTENR and
CTLEAVE post a request, wait, and give its answer; CTREPAR moves the node, CTFREE frees it, both after a settle. That the
RANGEFAULT of CTENR and CTLEAVE names no lane (log 72, DESIGN CHOICE), the order of the operands that CTARG judges (log 71), and that
CTREPAR and CTFREE pass up in their own step what is pending (log 74, DESIGN CHOICE) are the model's choices. -/
def Obligations.TreeUpdates : Prop :=
  ∀ (h : Hdr) (d n b : BitVec 8) (o : Operand) (s : State), s.plain →
    let p := s.w.place.part
    let k := (s.part p).ctk
    let y := s.w.rdS n.toNat
    let m := y.data.toNat
    let z := s.rdW o
    let q := z.bits.toNat
    let refuse (x : Instr) (why : Nat) : Prop := givesScalar x s d.toNat ⟨BitVec.ofNat 32 why, false⟩
    let ok (x : Instr) (u : State) (v : Word) : Prop := completes x s (u.setW (u.w.wrS d.toNat ⟨v, true⟩))
    let fits (a : Nat) : Prop := k ≠ 0 ∧ a < 2 ^ k
    (s.clear (.ctnew h d o) = true →
      let x : Instr := .ctnew h d o
      let unused (i : Nat) : Prop := 0 < i ∧ i < 2 ^ k ∧ s.nodeUsed p i = false
      (z.valid = false → givesScalar x s d.toNat RWord.none)
      ∧ (z.valid = true → ¬ fits q → trapsWith x s (ctArg q))
      ∧ (z.valid = true → fits q →
        (q ≠ 0 → s.refused q = true → refuse x 1)
        ∧ (q = 0 ∨ s.refused q = false →
          ((∀ i, ¬ unused i) → refuse x 2)
          ∧ (∀ i, unused i → (∀ i', i' < i → ¬ unused i') →
              let u := (((s.setUsed p i true).setOwner p i s.w.place.ctx).setParent p i q).setChildren p i 0
              let u := if q = 0 then u else u.setChildren p q (u.nodeChildren p q + 1)
              ok x (u.structBump p (i :: u.chain p i)) (BitVec.ofNat 32 i)))))
    ∧ (∀ leave : Bool,
      let x : Instr := if leave then .ctleave h d n b else .ctenr h d n b
      s.clear x = true →
      let va := s.w.rdPair b.toNat
      let c := s.w.rdS (b.toNat + 2)
      let reqs := (s.part p).ctreqs
      (∀ r, reqs.find? (fun r => r.wave == s.w.id) = some r →
        (r.answer = none → waitsFor x s .answer)
        ∧ (∀ a, r.answer = some a → ∃ t, exec x s = .next t ∧ advanced x s t ∧ t.mem = s.mem
            ∧ scalarOnly s t d.toNat (if a = 0 then ⟨1, true⟩ else ⟨BitVec.ofNat 32 a, false⟩)
            ∧ (t.part p).ctreqs = reqs.filter (fun r => r.wave != s.w.id)))
      ∧ (reqs.find? (fun r => r.wave == s.w.id) = none →
        ((y.valid && va.valid && c.valid) = false → givesScalar x s d.toNat RWord.none)
        ∧ ((y.valid && va.valid && c.valid) = true →
          (¬ fits m → trapsWith x s (ctArg m))
          ∧ (fits m → c.data.toNat = 0 ∨ 2 ^ 20 < c.data.toNat → trapsWith x s (ctArg c.data.toNat))
          ∧ (fits m → c.data.toNat ≠ 0 → c.data.toNat ≤ 2 ^ 20 →
            let span := s.oneRange s.w.place.ctx va.bits.toNat (4096 * c.data.toNat)
            (span = none → trapsWith x s { cause := .rangefault, addr := va.bits })
            ∧ (∀ ia, span = some ia →
              (s.refused m = true → refuse x 1)
              ∧ (s.refused m = false →
                exec x s = .next (holdAt (s.ctPost leave m (ia / 4096 * 4096) c.data.toNat) .answer)))))))
    ∧ (s.clear (.ctrepar h d n o) = true →
      let x : Instr := .ctrepar h d n o
      ((y.valid && z.valid) = false → givesScalar x s d.toNat RWord.none)
      ∧ ((y.valid && z.valid) = true →
        (¬ fits m → trapsWith x s (ctArg m))
        ∧ (fits m → ¬ fits q → trapsWith x s (ctArg q))
        ∧ (fits m → fits q →
          (s.refused m = true ∨ (q ≠ 0 ∧ s.refused q = true) → refuse x 1)
          ∧ (s.refused m = false → q = 0 ∨ s.refused q = false →
            (q = m ∨ (q ≠ 0 ∧ m ∈ s.chain p q) → refuse x 3)
            ∧ (q ≠ m → q = 0 ∨ m ∉ s.chain p q →
              let u := s.settle p m
              let old := u.nodeParent p m
              let t := u.setParent p m q
              let t := if old = 0 then t else t.setChildren p old (t.nodeChildren p old - 1)
              let t := if q = 0 then t else t.setChildren p q (t.nodeChildren p q + 1)
              ok x (t.structBump p (u.chain p m ++ t.chain p m)) 1)))))
    ∧ (s.clear (.ctfree h d n) = true →
      let x : Instr := .ctfree h d n
      (y.valid = false → givesScalar x s d.toNat RWord.none)
      ∧ (y.valid = true →
        (¬ fits m → trapsWith x s (ctArg m))
        ∧ (fits m →
          (s.refused m = true → refuse x 1)
          ∧ (s.refused m = false → s.nodeChildren p m ≠ 0 ∨ s.nodePages p m ≠ 0 → refuse x 4)
          ∧ (s.refused m = false → s.nodeChildren p m = 0 → s.nodePages p m = 0 →
            let u := (s.settle p m).rollStep p m
            let u := u.structBump p (u.chain p m)
            let q := u.nodeParent p m
            let u := if q = 0 then u else u.setChildren p q (u.nodeChildren p q - 1)
            ok x ((u.setUsed p m false).setParent p m 0) 1))))

/-! The register pool and recruited helpers. -/

/-- REGREL, REGCLM and REGQRY in their forms (R98 to R102): a count that is 0, no multiple of 4 or above 256 traps
POOLARG, for REGREL also one above the wave's; an invalid count register nullifies; REGREL lowers the count, the
registers at and above it are gone and are free from the next cycle; REGCLM of no more than the count goes on, and else
enters a claim and waits; REGQRY gives the count, the registers that were free after this cycle's grant pass, or the
claims. -/
def Obligations.PoolInstructions : Prop :=
  ∀ (h : Hdr) (n : BitVec 9) (a d : BitVec 8) (what : QryWhat) (s : State), s.plain →
    let c := s.w.c
    let core := s.w.core
    let y := s.w.rdS a.toNat
    let bad (k : Nat) : Prop := k = 0 ∨ k % 4 ≠ 0 ∨ 256 < k
    let arg (k : Nat) : TrapInfo := { cause := .poolarg, addr := BitVec.ofNat 64 k }
    let release (x : Instr) (k : Nat) : Prop :=
      (bad k ∨ c < k → trapsWith x s (arg k))
      ∧ (¬ bad k → k ≤ c → ∃ t, exec x s = .next t ∧ advanced x s t ∧ t.w.c = k ∧ sameS s.w t.w ∧ sameSpecials s.w t.w
          ∧ t.w.q = s.w.q ∧ t.w.jobs = s.w.jobs ∧ t.mem = s.mem ∧ (t.core core).hold = (s.core core).hold + (c - k)
          ∧ ∀ m l, l < 32 → VReg.lane (t.w.rdV m) l = if m < k then VReg.lane (s.w.rdV m) l else RWord.none)
    let claim (x : Instr) (k : Nat) : Prop :=
      (bad k → trapsWith x s (arg k))
      ∧ (¬ bad k → k ≤ c → movesTo x s (s.w.pcNow + 12))
      ∧ (¬ bad k → c < k →
        (((s.core core).claims ++ (s.core core).dead).any (fun e => e.wave == s.w.id) = true → waitsFor x s (.regclm k))
        ∧ (((s.core core).claims ++ (s.core core).dead).any (fun e => e.wave == s.w.id) = false → ∃ t e, exec x s = .next t ∧ sameRegs s t
            ∧ t.w.pcNow = s.w.pcNow ∧ t.w.wait = .regclm k ∧ t.w.c = c ∧ (t.core core).claims = (s.core core).claims ++ [e]
            ∧ e.wave = s.w.id ∧ e.slot = s.w.slot ∧ e.n = k ∧ e.need = k - c))
    (s.clear (.regrel h n) = true → release (.regrel h n) n.toNat)
    ∧ (s.clear (.regrelS h a) = true →
      (y.valid = false → movesTo (.regrelS h a) s (s.w.pcNow + 12))
      ∧ (y.valid = true → release (.regrelS h a) y.data.toNat))
    ∧ (s.clear (.regclm h n) = true → claim (.regclm h n) n.toNat)
    ∧ (s.clear (.regclmS h a) = true →
      (y.valid = false → movesTo (.regclmS h a) s (s.w.pcNow + 12))
      ∧ (y.valid = true → claim (.regclmS h a) y.data.toNat))
    ∧ (s.clear (.regqry h d what) = true →
        givesScalar (.regqry h d what) s d.toNat ⟨BitVec.ofNat 32 (match what with
          | .own => c
          | .free => 2048 - (s.core core).poolUsed
          | .claims => (s.core core).claims.length), true⟩)

/-- RECRUIT (R151 to R153): an invalid number gives 0, invalid; it is refused with 0 where it asks for none, a team
exists, the launch names no helper entry, or EXEC holds other than one lane; else, where the wave's own idle lanes
serve it, those lanes run from the helper entry with the recruiter's snapshot, and sD takes the mask of the helpers. Memory changes
only by the wave's update-only lines, which are sent. -/
def Obligations.RecruitMakesATeam : Prop :=
  ∀ (h : Hdr) (d : BitVec 8) (o : Operand) (any : Bool) (s : State), s.plain →
    let x : Instr := .recruit h d o any
    s.clear x = true →
    let y := s.rdW o
    let want := Nat.min y.bits.toNat 32
    (y.valid = false → givesScalar x s d.toNat RWord.none)
    ∧ (y.valid = true →
      (want = 0 ∨ s.w.team ≠ none ∨ s.w.place.helper = none ∨ (∀ r, lanesOf s.w.execM ≠ [r]) →
        givesScalar x s d.toNat ⟨0, true⟩)
      ∧ (∀ r entry, want ≠ 0 → s.w.team = none → s.w.place.helper = some entry → lanesOf s.w.execM = [r] →
        (∀ e ∈ s.w.flight, ∀ q ∈ e.dests, q ∉ snapRegs) → s.w.snapJobs = [] →
        let idle := (lanesOf s.w.place.present).filter (fun l => l != r)
        let own := idle.take want
        let n := own.length
        any = false ∨ n = want ∨ s.lendersFor = [] →
          (n = 0 → ∃ t, exec x s = .next t ∧ advanced x s t ∧ scalarOnly s t d.toNat ⟨0, true⟩ ∧ t.w.team = none)
          ∧ (n ≠ 0 → ∃ t tm p, exec x s = .next t ∧ advanced x s t ∧ scalarOnly s t d.toNat ⟨lowLanes n, true⟩
              ∧ ((s.core s.w.core).upd = [] → t.mem = s.mem) ∧ t.w.team = some tm ∧ tm.lane = r ∧ tm.hcount = n ∧ tm.completed = 0 ∧ tm.faults = []
              ∧ tm.targets = [] ∧ tm.parts = [p] ∧ p.lender = none ∧ p.running = true ∧ p.pc = entry ∧ p.exec = p.lanes
              ∧ lanesOf p.lanes = own ∧ p.s = [] ∧ p.hbase = 0
              ∧ (∀ m, m < 32 → tm.snapS.getD m RWord.none = s.w.rdS m)
              ∧ (∀ m, m < 32 → tm.snapV.getD m RWord.none =
                  if m < s.w.c then VReg.lane (s.w.rdV m) r else RWord.none))))

/-- HJOIN and HREL (R155, R156, R158): with no team HJOIN gives 0 and HREL does nothing; HJOIN waits while a part runs,
raises HELPERFAULT for an unreported fault, and else gives the mask of the completed helpers and ends the team, writing
no lane but the recruiter's; HREL lets no part issue any more, and ends every part once nothing that it has issued is
unfinished. -/
def Obligations.JoiningAndReleasingATeam : Prop :=
  ∀ (h : Hdr) (d : BitVec 8) (s : State), s.plain →
    (s.clear (.hjoin h d) = true →
      let x : Instr := .hjoin h d
      (s.w.team = none → givesScalar x s d.toNat ⟨0, true⟩)
      ∧ (∀ tm, s.w.team = some tm →
        (tm.parts.any (fun p => p.running) = true → waitsFor x s .busy)
        ∧ (tm.parts.any (fun p => p.running) = false →
          (∀ i, tm.fault = some i → s.w.owedError = none → exec x s = .next (s.markReported.trapNow (wordOf x) i))
          ∧ (tm.fault = none → ∃ t, exec x s = .next t ∧ advanced x s t ∧ t.w.team = none
              ∧ ((s.core s.w.core).upd = [] → t.mem = s.mem)
              ∧ sameSpecials s.w t.w
              ∧ (∀ m, t.w.rdS m = if m = d.toNat ∧ m ≠ 0 then ⟨tm.completed, true⟩ else s.w.rdS m)
              ∧ (∀ m l, l < 32 → l ≠ tm.lane → VReg.lane (t.w.rdV m) l = VReg.lane (s.w.rdV m) l)
              ∧ (tm.targets = [] → sameV s.w t.w)
              ∧ (∀ g, tm.targets = [g] → typeWords g.ty = 1 → g.reg < s.w.c → tm.lane < 32 →
                  VReg.lane (t.w.rdV g.reg) tm.lane =
                    valWord (tm.foldTarget g (s.w.rdVL 1 g.reg tm.lane)) 0)))))
    ∧ (s.clear (.hrel h) = true →
      let x : Instr := .hrel h
      (s.w.team = none → movesTo x s (s.w.pcNow + 12))
      ∧ (∀ tm, s.w.team = some tm →
        (s.teamAtBoundary s.w = false → ∃ t tm', exec x s = .next t ∧ t.w.pcNow = s.w.pcNow ∧ t.w.wait = .busy
            ∧ sameRegs s t ∧ t.mem = s.mem ∧ t.w.team = some tm'
            ∧ ∀ p ∈ tm'.parts, p.running = true → p.stopping = true)
        ∧ (s.teamAtBoundary s.w = true → ∃ t tm', exec x s = .next t ∧ advanced x s t ∧ t.mem = s.mem ∧ t.w.team = some tm'
            ∧ tm'.parts.length = tm.parts.length ∧ ∀ p ∈ tm'.parts, p.running = false ∧ p.exec = 0)))

/-- HGET, HRED and HEXIT (R153 to R155, R157): HGET copies a snapshot word, an invalid one as a nullified result; HRED
joins each acting helper's value to its partial, and traps HREDARG for a target that is taken otherwise; HEXIT, once
everything performed, ends its part, and its EXEC lanes have completed. -/
def Obligations.HelperInstructions : Prop :=
  ∀ (h : Hdr) (d a : Operand) (r : BitVec 8) (op : RedOp) (ty : ElemType) (rnd : Rnd) (s : State) (tm : Team) (k : Nat)
    (p : HPart), s.plain → s.w.team = some tm → s.w.sel = some k → tm.parts[k]? = some p →
    (s.clear (.hget h d a) = true →
      let y : RWord := match a with
        | .v n => tm.snapV.getD n.toNat RWord.none
        | .s n => tm.snapS.getD n.toNat RWord.none
        | _ => RWord.none
      laneEffect (.hget h d a) s h.guard d 1 (fun _ =>
        ⟨if y.valid then ⟨y.data.setWidth 64, true⟩ else Val.none, none, false⟩))
    ∧ (s.clear (.hred h r a op ty rnd) = true →
      let x : Instr := .hred h r a op ty rnd
      let y (l : Nat) : Val := s.rdOp ty (typeWords ty) a l
      let act := laneMask (fun l => (s.w.inLanes h.guard).getLsbD l && (y l).valid)
      let g : HTarget := ⟨r.toNat, op, ty, rnd⟩
      let taken : Prop := (∃ e ∈ tm.targets, e.reg = r.toNat ∧ e ≠ g)
        ∨ (4 ≤ tm.targets.length ∧ ∀ e ∈ tm.targets, e.reg ≠ r.toNat)
      (∀ e e', e ∈ tm.targets → e' ∈ tm.targets → e.reg = e'.reg → e = e') →
      (act = 0 → movesTo x s (s.w.pcNow + 12))
      ∧ (act ≠ 0 → taken → trapsWith x s { cause := .hredarg, lanes := act })
      ∧ (act ≠ 0 → ¬ taken → ∃ t tm', exec x s = .next t ∧ advanced x s t ∧ sameRegs s t ∧ sameOutside s t
          ∧ t.w.team = some tm' ∧ g ∈ tm'.targets ∧ (∀ e ∈ tm.targets, e ∈ tm'.targets)
          ∧ tm'.partials = (lanesOf act).foldl (fun ps l =>
              match s.w.helperIdx l with
              | some i => addPartial op ty rnd i r.toNat (y l) ps
              | none => ps) tm.partials
          ∧ (∀ l i, act.getLsbD l = true → s.w.helperIdx l = some i →
              (∀ l', act.getLsbD l' = true → s.w.helperIdx l' = some i → l' = l) →
              tm.partials.any (fun e => e.h == i && e.reg == r.toNat) = false →
              tm'.partials.find? (fun e => e.h == i && e.reg == r.toNat) = some ⟨i, r.toNat, y l⟩)))
    ∧ (s.clear (.hexit h) = true → (s.core s.w.core).upd = [] →
      let x : Instr := .hexit h
      (∀ i is, s.exitWaits s.nextId = i :: is → waitsFor x s (.remote (i :: is)))
      ∧ (s.exitWaits s.nextId = [] → s.w.flight.all (fun e => e.bad == 0) = true → ∃ t tm' p', exec x s = .next t
          ∧ t.mem = s.mem ∧ t.w.team = some tm' ∧ tm'.completed = tm.completed ||| s.w.execHelpers
          ∧ tm'.parts[k]? = some p' ∧ p'.running = false ∧ p'.exec = 0
          ∧ ∀ i, i ≠ k → tm'.parts[i]? = tm.parts[i]?))

/-! Traps and handler mode. -/

/-- The order in front of every instruction (R64, R66, R25, R96): a stream that cannot run has no step; a word that its
stream does not admit traps ILLEGAL; one that touches an open window LOOKAHEAD; and, with nothing it depends on
unfinished, one that names a vector register at or above the allocation count REGBOUND. A matrix opcode in a wave, a
handler instruction outside handler mode, a helper instruction outside a helper part, what R151 does not list inside
one, and what a belay stream may not issue are not admitted (R149, R151, R212, R402). -/
def Obligations.ChecksInFrontOfAnInstruction : Prop :=
  ∀ (x : Instr) (s : State), (hdrOf x).isSome = true →
    (s.w.runs = false → exec x s = .fault .noStream)
    ∧ (s.plain → s.w.runs = true →
      (s.w.admits x = false → trapsWith x s { cause := .illegal })
      ∧ (s.w.admits x = true →
        (∀ v, s.w.lookaheadHit x = some v → trapsWith x s { cause := .lookahead, addr := v.pc.setWidth 64 })
        ∧ (∀ n, s.w.lookaheadHit x = none → s.w.due x = [] → s.w.full x = false → s.w.dueOther x = [] →
            s.w.jobHits x = [] → s.w.overBound x = some n →
            trapsWith x s { cause := .regbound, addr := BitVec.ofNat 64 n }))
      ∧ ((matrixOp x = true ∧ s.w.belay = false) ∨ (handlerOnly x = true ∧ s.w.handler = false)
          ∨ (helperOnly x = true ∧ s.w.sel = none) ∨ (helperOp x = false ∧ s.w.sel ≠ none)
          ∨ (belayOp x = false ∧ s.w.belay = true) → trapsWith x s { cause := .illegal }))

/-- Taking a trap (R394 to R397, R400): where the context's vector entry is enabled, XPC, XHPC, XCAUSE, XADDR, XLANE and
the word are written, the unfinished entries become the replay queue, the windows close, the mode is handler and the
PC 0; registers, EXEC, CXM, SEED, tokens and memory stay, and nothing outside the stream changes, where the entry holds no
uncorrectable error, which posts its record (R419). That a result of a belay stream, which holds no replay queue (R216), stays for its
own DATAERR where it has met an error, unless the trap reports it, is the model's choice (log 159, DESIGN CHOICE; log 171 beside it). -/
def Obligations.TrapEntry : Prop :=
  ∀ (s : State) (word : BitVec 96) (i : TrapInfo), s.w.sel = none → s.w.handler = false →
    (s.vector s.w.place.ctx).1 = true → (∀ e ∈ s.w.inflight, e.slow = false ∧ (s.w.belay = true → e.bad ≠ 0)) →
    let t := s.trapNow word i
    t.w.handler = true ∧ t.w.pc = 0 ∧ t.w.stopped = s.w.stopped
      ∧ t.w.xpc = s.w.pc ∧ t.w.xhpc = i.hpc.getD s.w.pc ∧ t.w.xaddr = i.addr ∧ t.w.xlane = i.lanes
      ∧ t.w.xword = i.word.getD word
      ∧ t.w.xcause.extractLsb' 0 8 = BitVec.ofNat 8 i.cause.code ∧ t.w.xcause.extractLsb' 8 8 = BitVec.ofNat 8 i.sub
      ∧ t.w.xcause.extractLsb' 16 5 = BitVec.ofNat 5 i.hidx ∧ t.w.xcause.extractLsb' 21 11 = 0
      ∧ (s.w.belay = false → t.w.replay = s.w.inflight.filter (fun e => !e.dests.isEmpty))
      ∧ (s.w.belay = true → t.w.replay = [] ∧ t.w.inflight =
          (s.w.inflight.filter (fun e => e.st != .failed)).map (fun e => { e with st := .landed }))
      ∧ (s.w.belay = false → t.w.inflight = []) ∧ t.w.windows = []
      ∧ t.w.v = s.w.v ∧ t.w.s = s.w.s ∧ t.w.exec = s.w.exec ∧ t.w.cxm = s.w.cxm ∧ t.w.seed = s.w.seed
      ∧ t.w.xsave = s.w.xsave ∧ t.w.q = s.w.q ∧ t.w.c = s.w.c ∧ t.w.jobs = s.w.jobs ∧ t.mem = s.mem
      ∧ (s.ecc = [] → sameOutside s t)

/-- Traps that no handler takes (R397, R399): in handler mode the outer frame stays, NEST is set and ICAUSE written;
with the vector entry disabled the frame is written; either way the stream is stopped, cannot run, and one event
record is posted to firmware, after that of an uncorrectable error in the vector entry (R419). -/
def Obligations.UntakenTrapStopsTheStream : Prop :=
  ∀ (s : State) (word : BitVec 96) (i : TrapInfo), s.w.sel = none →
    let t := s.trapNow word i
    let p := s.w.place.part
    let stops : Prop := t.w.stopped = true ∧ t.w.runs = false ∧ t.mem = s.mem ∧ t.w.wait = .none
      ∧ ∃ rs r, (t.part p).eventQ = (s.part p).eventQ ++ rs ++ [r] ∧ r.length = 64 ∧ (p < 256 → r.getD 3 0 = 5)
        ∧ (s.w.handler = true ∨ s.ecc = [] → rs = [])
    (s.w.handler = true → stops ∧ t.w.handler = true
      ∧ t.w.xcause.getLsbD 31 = true ∧ t.w.xcause.extractLsb' 24 7 = BitVec.ofNat 7 i.cause.code
      ∧ t.w.xcause.extractLsb' 0 24 = s.w.xcause.extractLsb' 0 24
      ∧ t.w.xpc = s.w.xpc ∧ t.w.xhpc = s.w.xhpc ∧ t.w.xaddr = s.w.xaddr ∧ t.w.xlane = s.w.xlane ∧ t.w.xword = s.w.xword
      ∧ t.w.replay = s.w.replay ∧ t.w.inflight = s.w.inflight ∧ t.w.pc = s.w.pc)
    ∧ (s.w.handler = false → (s.vector s.w.place.ctx).1 = false → stops ∧ t.w.handler = false ∧ t.w.xpc = s.w.pc
        ∧ t.w.xcause = causeWord i)

/-- TRAP and the return that skips it (R405): TRAP raises SWTRAP with SUB its code, in front of itself, where no older result has
met an error (R193); in handler mode
that stops the stream; a belay stream admits it, and helper code traps ILLEGAL; TRET skip resumes 12 bytes on. -/
def Obligations.SoftwareTrap : Prop :=
  ∀ (h : Hdr) (code : BitVec 8) (s : State), s.plain →
    (s.clear (.trap h code) = true → s.w.owedError = none →
      ∃ t, exec (.trap h code) s = .next t
        ∧ (s.w.handler = true → t.w.stopped = true ∧ t.w.handler = true ∧ t.w.xpc = s.w.xpc)
        ∧ (s.w.handler = false →
          t.w.xpc = s.w.pc ∧ t.w.xcause.extractLsb' 0 8 = 25 ∧ t.w.xcause.extractLsb' 8 8 = code
          ∧ ((s.vector s.w.place.ctx).1 = true → t.w.handler = true ∧ t.w.pc = 0)))
    ∧ (legal (.trap h code) = true → s.w.sel = none → s.w.admits (.trap h code) = true)
    ∧ (s.w.runs = true → s.w.sel ≠ none → trapsWith (.trap h code) s { cause := .illegal })
    ∧ (s.clear (.tretSkip h) = true →
        ∃ t, exec (.tretSkip h) s = .next t ∧ t.w.handler = false ∧ t.w.pc = s.w.xpc + 12)

/-- TRET in its forms (R404): the mode is normal, the PC is XPC or the instruction after it, the replay queue is empty,
waiting and failed entries are in flight again, in order, and a landed entry writes its results in its lanes. That the windows which
the handler has opened count on and that its own entries in flight are kept is the model's reading (log 81, DEDUCED). -/
def Obligations.TrapReturn : Prop :=
  ∀ (h : Hdr) (s : State), s.plain →
    let left := s.w.replay.filter (fun e => e.st != .landed)
    let back (x : Instr) (pc : Word) : Prop :=
      ∃ t, exec x s = .next t ∧ t.w.handler = false ∧ t.w.pcNow = pc ∧ t.w.replay = []
        ∧ t.w.inflight = left ++ s.w.inflight.map (fun e => if e.st == .landed then { e with st := .waiting } else e)
        ∧ t.w.windows = tickWindows s.w.windows ∧ sameOutside s t ∧ t.w.q = s.w.q ∧ t.w.c = s.w.c ∧ t.w.jobs = s.w.jobs ∧ sameSpecials s.w t.w
        ∧ (left = s.w.replay → sameV s.w t.w ∧ sameS s.w t.w)
        ∧ (∀ e n r, s.w.replay = [e] → e.st = .landed → e.dests = [.v n] → e.res = [r] →
            ∀ m l, l < 32 → VReg.lane (t.w.rdV m) l =
              if m = n ∧ e.wlanes.getLsbD l = true then VReg.lane r l else VReg.lane (s.w.rdV m) l)
        ∧ (∀ e n r, s.w.replay = [e] → e.st = .landed → e.dests = [.s n] → e.res = [r] →
            ∀ m, t.w.rdS m = if m = n ∧ n ≠ 0 ∧ e.wlanes.getLsbD 0 = true then r.getD 0 RWord.none else s.w.rdS m)
    (s.clear (.tret h) = true → back (.tret h) s.w.xpc)
    ∧ (s.clear (.tretSkip h) = true → back (.tretSkip h) (s.w.xpc + 12))

/-- RQRD, RQWR, RQDEL, CXRD and CXWR (R401, R403, R406): an invalid index nullifies the first three and one past the
queue traps RQARG; RQRD reads a field in all present lanes, RQWR writes one of a failed entry, RQDEL writes 0, invalid,
to the destinations in the entry's lanes and takes the entry out; CXRD and CXWR reach the tokens, the count and the
claim. That RQRD writes the present lanes only, where R403 speaks of all 32 (log 78, DEDUCED), and that RQWR of the lanes takes
those it removes out of the written lanes (log 79) are the model's choices. -/
def Obligations.HandlerInstructions : Prop :=
  ∀ (h : Hdr) (d : BitVec 8) (o e v : Operand) (field item : BitVec 8) (s : State), s.plain →
    let y := s.rdW e
    let n := y.bits.toNat
    let f := field.toNat
    let z := s.rdW v
    let arg (k : Nat) : TrapInfo := { cause := .rqarg, addr := BitVec.ofNat 64 k }
    let outside (x : Instr) : Prop := y.valid = true → s.w.replay.length ≤ n → trapsWith x s (arg n)
    let gives (x : Instr) (r : VReg) : Prop :=
      (∀ k, o = .s k → givesScalar x s k.toNat (VReg.lane r 0))
      ∧ (∀ k, o = .v k → ∃ t, exec x s = .next t ∧ advanced x s t ∧ sameOutside s t ∧ sameStream s.w t.w ∧ sameS s.w t.w
          ∧ sameSpecials s.w t.w ∧ ∀ m l, l < 32 → VReg.lane (t.w.rdV m) l =
            if m = k.toNat ∧ s.w.place.present.getLsbD l = true then VReg.lane r l else VReg.lane (s.w.rdV m) l)
    let quiet (x : Instr) (t : State) : Prop := exec x s = .next t ∧ advanced x s t ∧ sameOutside s t ∧ t.w.q = s.w.q
    (s.clear (.rqrd h o e field) = true →
      let x : Instr := .rqrd h o e field
      outside x
      ∧ (y.valid = false → (∀ k, o = .s k → givesScalar x s k.toNat RWord.none)
          ∧ (∀ k, o = .v k → movesTo x s (s.w.pcNow + 12)))
      ∧ (∀ en, y.valid = true → s.w.replay[n]? = some en →
        (f < 3 → gives x (VReg.splat ⟨BitVec.ofNat 32 (en.word.toNat / 2 ^ (32 * f)), true⟩))
        ∧ (f = 3 → gives x (VReg.splat ⟨en.pc, true⟩)) ∧ (f = 4 → gives x (VReg.splat ⟨BitVec.ofNat 32 en.st.code, true⟩))
        ∧ (f = 5 → gives x (VReg.splat ⟨en.lanes, true⟩))
        ∧ (6 ≤ f → f < 8 → gives x (en.field (en.addr.getD (f - 6) VReg.start)))
        ∧ (8 ≤ f → f < 12 → gives x (en.field (en.data.getD (f - 8) VReg.start)))
        ∧ (12 ≤ f → gives x (en.field (if en.st = .landed then en.res.getD (f - 12) VReg.start else VReg.start)))))
    ∧ (s.clear (.rqwr h e v field) = true →
      let x : Instr := .rqwr h e v field
      outside x ∧ (y.valid = false → movesTo x s (s.w.pcNow + 12))
      ∧ (∀ en, y.valid = true → s.w.replay[n]? = some en →
        (en.st ≠ .failed → trapsWith x s (arg n))
        ∧ (en.st = .failed →
          (f = 5 → z.valid = false → movesTo x s (s.w.pcNow + 12))
          ∧ (6 ≤ f ∨ z.valid = true → ∃ t en', quiet x t ∧ sameRegs s t ∧ t.w.replay = s.w.replay.set n en'
              ∧ en'.word = en.word ∧ en'.st = en.st ∧ en'.dests = en.dests ∧ en'.pc = en.pc
              ∧ (f = 5 → en'.lanes = en.lanes &&& z.bits.setWidth 32 ∧ en'.addr = en.addr ∧ en'.data = en.data
                  ∧ en'.wlanes = en.wlanes &&& ~~~(en.lanes &&& ~~~z.bits.setWidth 32))
              ∧ (6 ≤ f → en'.lanes = en.lanes)
              ∧ (∀ k, v = .v k → 6 ≤ f → f < 8 → en'.data = en.data
                  ∧ ∀ l, l < 32 → VReg.lane (en'.addr.getD (f - 6) VReg.start) l = VReg.lane (s.w.rdV k.toNat) l)
              ∧ (∀ k, v = .v k → 8 ≤ f → en'.addr = en.addr
                  ∧ ∀ l, l < 32 → VReg.lane (en'.data.getD (f - 8) VReg.start) l = VReg.lane (s.w.rdV k.toNat) l)))))
    ∧ (s.clear (.rqdel h e) = true →
      let x : Instr := .rqdel h e
      outside x ∧ (y.valid = false → movesTo x s (s.w.pcNow + 12))
      ∧ (∀ en, y.valid = true → s.w.replay[n]? = some en → ∃ t, quiet x t
          ∧ t.w.replay = s.w.replay.take n ++ s.w.replay.drop (n + 1) ∧ sameSpecials s.w t.w
          ∧ (∀ m l, l < 32 → VReg.lane (t.w.rdV m) l =
              if Reg.v m ∈ en.dests ∧ en.lanes.getLsbD l = true then RWord.none else VReg.lane (s.w.rdV m) l)
          ∧ (∀ m, t.w.rdS m =
              if Reg.s m ∈ en.dests ∧ m ≠ 0 ∧ en.lanes.getLsbD 0 = true then RWord.none else s.w.rdS m)))
    ∧ (s.clear (.cxrd h d item) = true →
      let x : Instr := .cxrd h d item
      let i := item.toNat
      (i < 16 → givesScalar x s d.toNat ⟨(s.w.tok i).value, (s.w.tok i).valid⟩)
      ∧ (16 ≤ i → i < 32 → givesScalar x s d.toNat ⟨BitVec.ofNat 32 (match (s.w.tok (i - 16)).st with
          | .empty => 0
          | .pending => 1
          | .ready => 2), true⟩)
      ∧ (i = 32 → givesScalar x s d.toNat ⟨BitVec.ofNat 32 s.w.c, true⟩)
      ∧ (i = 33 → givesScalar x s d.toNat ⟨BitVec.ofNat 32
          (match (s.core s.w.core).claims.find? (fun k => k.wave == s.w.id) with
            | some k => k.n
            | none => 0), true⟩))
    ∧ (s.clear (.cxwr h v item) = true →
      let x : Instr := .cxwr h v item
      let q := item.toNat
      ((s.w.tok q).st = .pending → trapsWith x s (arg q))
      ∧ ((s.w.tok q).st ≠ .pending → ∃ t, exec x s = .next t ∧ advanced x s t ∧ sameOutside s t ∧ sameRegs s t
          ∧ otherTokens s t q ∧ t.w.tok q = ⟨.ready, z.valid, z.bits.setWidth 32, false, false⟩))

/-! Events of the memory system, the queues, the placement, the units and the system. -/

/-- The events of the memory side (R202, R345 to R350, R361, R366, R373, R418, R419, R424): records go to their rings
where these have room, answers and acknowledgements close what they answer, shoot-downs run one at a time, a replay reads busy until
each of its retries has performed or parked again, and an event with nothing to act on changes nothing. A held access waits for the merges of its line (R170), and a write of firmware to a register
waits behind one of its writes to device memory that is held (R350). That records and CTACK wait for Noon in Eclipse (log 98, DESIGN
CHOICE), that an answer changes what the other requests of its leaves remember (log 142, DEDUCED), that a ring of K = 0 holds its
records (log 120) and that a shoot-down of no page does nothing (log 146) are the model's choices. -/
def Obligations.MemorySideEvents : Prop :=
  ∀ (s : State) (p n line : Nat) (rseq : BitVec 32) (val : BitVec 64) (w : WaveId) (bytes : List Byte),
    let x := s.part p
    let full (wr rd k : Nat) : Prop := k = 0 ∨ (wr + 2 ^ 32 - rd) % 2 ^ 32 = 2 ^ k
    (s.stream? w = none → exec (.loadDataReturn w n bytes) s = .next s)
    ∧ (∀ e, s.stream? w = some s.w → s.w.live = true → s.w.id = w → s.w.sel = none → s.w.team = none →
        s.remotes.filter (fun r => r.wave == w && r.entry == some n) = [] →
        s.w.inflight.find? (fun e => e.id == n) = some e → e.waits = [] → e.st = .waiting → e.bad = 0 →
        exec (.loadDataReturn w n bytes) s =
          .next (s.setW { landEntry s.w e with inflight := s.w.inflight.filter (fun y => y.id != n) }))
    ∧ (s.stores.find? (fun h => h.acc.id == n) = none →
        exec (.storePerform n) s =
          .next { s with remotes := s.remotes.filter (fun r => !(r.id == n && r.entry.isNone)) })
    ∧ (∀ h, s.stores.find? (fun h => h.acc.id == n) = some h →
        let due := s.mergeDue h.part (h.acc.ia / 128) h.acc.id
        ((s.part h.part).held h.acc.ia = true ∨ (s.part h.part).power ≠ .noon ∨ due ≠ [] →
          exec (.storePerform n) s = .next s)
        ∧ ((s.part h.part).held h.acc.ia = false → (s.part h.part).power = .noon → due = [] →
          ∃ t, exec (.storePerform n) s = .next t ∧ t.stores = s.stores.filter (fun y => y.acc.id != n)))
    ∧ (∃ t, exec (.updateLineSend n line) s = .next t ∧ ∀ u ∈ (t.core n).upd, u.ia / 128 ≠ line)
    ∧ (x.parkWait = [] → exec (.parkAccess p) s = .next s)
    ∧ (∀ a as, x.parkWait = a :: as → x.held a.ia = false →
        (x.parked.filter (fun e => s.mtuOf p e.ia == s.mtuOf p a.ia)).length < Config.parkRoom →
        exec (.parkAccess p) s =
          .next (((s.setPart p { x with parkWait := (a :: as).filter (fun e => e.id != a.id) }).retry p a).replaySettled p))
    ∧ (x.faultQ = [] ∨ x.power = .eclipse ∨ full x.frw x.frr x.frk → exec (.faultRecordPost p) s = .next s)
    ∧ (∀ r rs, x.faultQ = r :: rs → x.power ≠ .eclipse → ¬ full x.frw x.frr x.frk → ∃ t, exec (.faultRecordPost p) s = .next t
        ∧ t.mem = Mem.writeN s.mem (x.frbase + 32 * (x.frw % 2 ^ x.frk)) r
        ∧ t.part p = { x with faultQ := rs, frw := (x.frw + 1) % 2 ^ 32 })
    ∧ (x.eventQ = [] ∨ x.power = .eclipse ∨ full x.evw x.evr x.evk → exec (.eventRecordPost p) s = .next s)
    ∧ (∀ r rs, x.eventQ = r :: rs → x.power ≠ .eclipse → ¬ full x.evw x.evr x.evk → ∃ t, exec (.eventRecordPost p) s = .next t
        ∧ t.mem = Mem.writeN s.mem (x.evbase + 64 * (x.evw % 2 ^ x.evk)) r
        ∧ t.part p = { x with eventQ := rs, evw := (x.evw + 1) % 2 ^ 32 })
    ∧ (s.dev.herq = [] ∨ full s.dev.herw s.dev.herr s.dev.herk → exec .hostErrorRecordPost s = .next s)
    ∧ (∀ r rs, s.dev.herq = r :: rs → ¬ full s.dev.herw s.dev.herr s.dev.herk → ∃ t, exec .hostErrorRecordPost s = .next t
        ∧ t.mem = s.mem ∧ t.dev.herq = rs ∧ t.dev.herw = (s.dev.herw + 1) % 2 ^ 32
        ∧ t.dev.hostMem = Mem.writeN s.dev.hostMem (s.dev.herbase + 32 * (s.dev.herw % 2 ^ s.dev.herk)) r)
    ∧ (s.fwOwes = true → ∀ e ∈ [Instr.pgack p rseq, .shootDown p n, .ctack p val, .ctkWrite p n],
        exec e s = .next { s with dev := { s.dev with held := s.dev.held ++ [e] } })
    ∧ (s.fwOwes = false → x.pgreqs.find? (fun r => r.rseq == rseq.toNat) = none → exec (.pgack p rseq) s = .next s)
    ∧ (∀ r, s.fwOwes = false → x.pgreqs.find? (fun r => r.rseq == rseq.toNat) = some r → ∃ t, exec (.pgack p rseq) s = .next t
        ∧ (t.part p).pgreqs = x.pgreqs.filter (fun y => y.rseq != rseq.toNat) ∧ t.mem = s.mem)
    ∧ (x.shoots ≠ [] → x.rplyIds ≠ [] → exec (.rply p) s = .next s)
    ∧ (x.rplyIds = [] → s.fwOwes = true →
        exec (.rply p) s = .next { s with dev := { s.dev with held := s.dev.held ++ [.rply p] } })
    ∧ (x.shoots ≠ [] → x.rplyIds = [] → x.parked ≠ [] → s.fwOwes = false →
        exec (.rply p) s = .next (s.setPart p { x with rplybusy := true, rplyIds := x.parked.map (·.id) }))
    ∧ (x.shoots = [] → x.rplyIds = [] → s.fwOwes = false → ∃ t, exec (.rply p) s = .next t ∧ (t.part p).rplyIds = []
        ∧ ((t.part p).rplybusy = true ↔ (t.part p).rplyHeld ≠ [])
        ∧ (x.parked = [] → x.rplyHeld = [] → (t.part p).rplybusy = false)
        ∧ ∀ i ∈ (t.part p).rplyHeld, (∃ a ∈ (t.part p).parkWait, a.id = i) ∨ ∃ h ∈ t.stores, h.part = p ∧ h.acc.id = i)
    ∧ (s.fwOwes = false → x.sdbusy = true ∨ n = 0 → exec (.shootDown p n) s = .next s)
    ∧ (s.fwOwes = false → x.sdbusy = false → n ≠ 0 → ∃ t, exec (.shootDown p n) s = .next t ∧ (t.part p).sdbusy = true
        ∧ (t.part p).shoots = x.shoots ++ [⟨x.sdia / 4096, n, true⟩])
    ∧ (x.shoots = [] → exec (.shootDownComplete p) s = .next s)
    ∧ (∀ d ds, x.shoots = d :: ds → ∃ t, exec (.shootDownComplete p) s = .next t ∧ (t.part p).shoots = ds
        ∧ (d.byFw = true → (t.part p).sdbusy = false) ∧ (d.byFw = false → (t.part p).sdbusy = x.sdbusy))
    ∧ ((∀ e ∈ x.l2, e.line = line → e.dirty = false) → exec (.l2WriteBack p line) s = .next s)
    ∧ (∃ t, exec (.l2WriteBack p line) s = .next t ∧ ∀ e ∈ (t.part p).l2, e.line = line → e.dirty = false)
    ∧ (s.remotes.find? (fun r => r.id == n) = none → exec (.remoteAccessTimeout n) s = .next s)
    ∧ (∀ r, s.remotes.find? (fun r => r.id == n) = some r → ∃ t y, exec (.remoteAccessTimeout n) s = .next t
        ∧ t.remotes = s.remotes.filter (fun y => y.id != n) ∧ t.dev.herq = s.dev.herq ++ [y] ∧ y.length = 32
        ∧ y.getD 0 0 = 8 ∧ t.mem = s.mem)
    ∧ (x.power = .eclipse → exec (.ctack p val) s = .next { s with dev := { s.dev with held := s.dev.held ++ [.ctack p val] } })
    ∧ (x.power ≠ .eclipse → s.fwOwes = false →
       let seq := val.toNat / 2 ^ 8 % 2 ^ 24
       (2 < val.toNat % 2 ^ 8 → exec (.ctack p val) s = .next s)
       ∧ (x.ctreqs.find? (fun r => r.seq == seq && r.answer.isNone) = none → exec (.ctack p val) s = .next s)
       ∧ (∀ r, val.toNat % 2 ^ 8 ≤ 2 → x.ctreqs.find? (fun r => r.seq == seq && r.answer.isNone) = some r →
          ∃ t, exec (.ctack p val) s = .next t
          ∧ (t.part p).ctreqs = x.ctreqs.map (fun y =>
              if y.seq == seq then { y with answer := some (val.toNat % 2 ^ 8) }
              else y.follow r (val.toNat % 2 ^ 8) (s.reqLeaves p y) (s.reqLeaves p r))))
    ∧ (s.fwOwes = false →
      (4 ≤ n → n ≤ 24 → exec (.ctkWrite p n) s = .next (s.setPart p { x with ctk := n }))
      ∧ (n = 0 → ∃ t, exec (.ctkWrite p n) s = .next t ∧ (t.part p).ctk = 0 ∧ (t.part p).rollup = [])
      ∧ (0 < n → n < 4 ∨ 24 < n → n < 32 → exec (.ctkWrite p n) s = .next s))
    ∧ (let k := Tab.get 0 x.rollup n
       let u := s.setPart p { x with rollup := Tab.erase x.rollup n }
       let q := u.nodeParent p n
       (q = 0 ∨ k = 0 → exec (.rollUpStep p n) s = .next u)
       ∧ (q ≠ 0 → k ≠ 0 → exec (.rollUpStep p n) s = .next ((u.addCount p q k).addPend p q k)))

/-- The events of the queues (R249 to R255, R350, R357 to R359, R420): outside Noon a doorbell is latched, or held by its agent
while the 256 entries of the notify queue are taken, and the exit to Noon starts either way; else WIDX is judged against the ring (the
partition that a doorbell names is the model's `queuePart`); QRFR waits behind a held write of firmware to device memory; a command that is not ready, or
whose partition runs a shoot-down or holds merges back, does not start, a reserved one or one of a bad context is refused,
a NOP and a TLSIG complete at once, TLWAITC once the counter is reached, GRAPH and DRAW run or are refused, and a kernel
boundary ends a node once its gangs are gone. That QRFR to a partition in Eclipse waits for Noon (log 98, DESIGN CHOICE), which copies
a command's acquire discards (log 140), that a command starts only for a queue that has a slot (log 83), that it waits for any
shoot-down and any pending merge of its partition (log 141), that a doorbell beyond 256 latched writes is held (log 147), that a bad
doorbell stops the queue at once, FRIDX at RIDX, also while a command runs (log 180, DESIGN CHOICE), and that a K outside 4 to 20 is used as
it stands (log 178, DESIGN CHOICE) are the model's choices. -/
def Obligations.QueueEvents : Prop :=
  ∀ (s : State) (q p node : Nat) (widx : Word),
    (let p := s.queuePart q
     ((s.part p).power ≠ .noon → (s.part p).notifyQ.length < 256 → exec (.doorbellWrite q widx) s =
        .next (s.setPart p { (s.part p) with notifyQ := (s.part p).notifyQ ++ [.doorbell q widx], waking := true }))
      ∧ ((s.part p).power ≠ .noon → 256 ≤ (s.part p).notifyQ.length → exec (.doorbellWrite q widx) s =
        .next { s.setPart p { (s.part p) with waking := true } with
          dev := { s.dev with held := s.dev.held ++ [.doorbellWrite q widx] } })
      ∧ ((s.part p).power = .noon → ∃ t, exec (.doorbellWrite q widx) s = .next t ∧ (t.queue q).widx = widx
          ∧ (let b := (s.readBlock p q).queue q
             (b.status = 0 → 2 ^ b.k < (widx - b.ridx).toNat → (t.queue q).status = 2 ∧ (t.queue q).fridx = b.ridx)
             ∧ (b.status = 0 → (widx - b.ridx).toNat ≤ 2 ^ b.k → (t.queue q).status = 0))))
    ∧ ((s.part p).power = .eclipse ∨ s.fwOwes = true →
        exec (.qrfr p q) s = .next { s with dev := { s.dev with held := s.dev.held ++ [.qrfr p q] } })
    ∧ ((s.part p).power ≠ .eclipse → s.fwOwes = false → ∃ t, exec (.qrfr p q) s = .next t ∧ (t.queue q).known = true ∧ (t.queue q).part = p)
    ∧ (let x := s.queue q
       let start : Prop := x.ready = true ∧ s.slotOf q ≠ none ∧ s.unitsWait x.part = false
       let r := s.command q
       let y := { x with hdr := fieldAt r.2 0 4, recIa := fieldAt r.2 24 8 }
       let u := (r.1.setQueue q y).acquireAll x.part
       let kind := fieldAt r.2 0 4 / 2 ^ 28
       let bad : Prop := cmdReserved r.2 = true ∨ u.contextOk y = false
       (¬ start → ∀ e ∈ [Instr.queueNop q, .graph q, .draw q, .tlsig q], exec e s = .next s)
       ∧ (¬ start → x.cmd = none → exec (.tlwaitc q) s = .next s)
       ∧ (start →
         (kind = 0 → ¬ bad → ∃ t, exec (.queueNop q) s = .next t ∧ (t.queue q).ridx = x.ridx + 1 ∧ (t.queue q).cmd = none
            ∧ (t.queue q).status = x.status)
         ∧ (∀ k e, (k, e) ∈ [(0, Instr.queueNop q), (1, .graph q), (2, .draw q), (3, .tlsig q)] → kind = k → bad →
            ∃ t, exec e s = .next t ∧ (t.queue q).status = 1 ∧ (t.queue q).fridx = x.ridx)
         ∧ (kind = 3 → ¬ bad → u.queueEngOk y (fieldAt r.2 16 2) = true →
            exec (.tlsig q) s = .next ((u.raiseTl (fieldAt r.2 16 2) (fieldAt r.2 8 8)).cmdDone q 0))
         ∧ (kind = 4 → ¬ bad → u.queueEngOk y (fieldAt r.2 16 2) = true →
            let v := u.setQueue q { y with cmd := some (.tlwait (fieldAt r.2 16 2) (fieldAt r.2 8 8)) }
            (fieldAt r.2 8 8 ≤ (s.eng (fieldAt r.2 16 2)).tl → exec (.tlwaitc q) s = .next ((v.acquireAll x.part).cmdDone q 0))
            ∧ ((s.eng (fieldAt r.2 16 2)).tl < fieldAt r.2 8 8 → exec (.tlwaitc q) s = .next v))
         ∧ (kind = 1 → ¬ bad → ∀ t, State.graphRun q u y r.2 = some t → exec (.graph q) s = .next t)
         ∧ (kind = 2 → ¬ bad → ∀ t, State.drawRun q u y r.2 = some t → exec (.draw q) s = .next t)))
    ∧ ((s.queue q).cmd = none → exec (.kernelBoundary q node) s = .next s)
    ∧ (∀ t ns st y, (s.queue q).cmd = some (.graph t ns st) → ns[node]? = some y →
      (y.left = 0 → exec (.kernelBoundary q node) s = .next s)
      ∧ (y.left ≠ 0 →
        let r := s.kernelOver q (some node)
        (r.2 = false → exec (.kernelBoundary q node) s = .next r.1)
        ∧ (r.2 = true → exec (.kernelBoundary q node) s = .next (r.1.nodeEnd q node y.succ))))

/-- The events of cores, slots and placement (R27, R28, R31, R34, R101, R145, R256 to R268): temperature with its
hysteresis, droop, admission, releases, the head, yield requests, overruns, rotation, placement, eviction, retirement,
the barrier's re-evaluation and the grant of a claim. A gang that leaves stops its MMAE where that has been left alone (R246). That a
write which clears EN takes the queue out of its slot at once (log 163, DESIGN CHOICE; logs 162 and 165 beside it), that an eviction un-chooses a gang of which a wave goes on before the parts
are home, and one for whose image no page is left (log 138), that a leaving gang stays as it is while PSTOP is 1 (log 187, DESIGN CHOICE),
and that YREQ clears where a queue is mapped or leaves (log 139) are
the model's choices. -/
def Obligations.SlotAndPlacementEvents : Prop :=
  ∀ (s : State) (core n p g j : Nat) (temp : BitVec 8) (val : BitVec 32) (id : WaveId),
    let c := s.core core
    let x := s.qslot n
    let o := s.ownerOf (n / 8)
    let y := s.part o
    (let l := s.part (s.ownerOf (sliceOf core))
     exec (.tempUpdate core temp) s = .next (s.setCore core { c with
       temp := temp, hot := if l.hott ≤ temp.toNat then true else if temp.toNat + l.hyst ≤ l.hott then false else c.hot }))
    ∧ exec (.droopSet core) s = .next (s.setCore core { c with droop := true, quiet := 0 })
    ∧ (65536 ≤ c.quiet → exec (.droopClear core) s = .next (s.setCore core { c with droop := false }))
    ∧ (c.quiet < 65536 → exec (.droopClear core) s = .next s)
    ∧ (let q := val.toNat % 2 ^ 16
       let guar := val.getLsbD 30
       let z := { x with admerr := false, guar := guar, queue := q }
       s.fwOwes = false →
       (x.en = true → val.getLsbD 31 = true → exec (.admission n val) s = .next (s.setQslot n { x with admerr := false }))
       ∧ (x.en = true → val.getLsbD 31 = false → ∃ t, exec (.admission n val) s = .next t ∧ (t.qslot n).en = false
            ∧ (t.qslot n).mapped = none)
       ∧ (x.en = false → val.getLsbD 31 = false → exec (.admission n val) s = .next (s.setQslot n z))
       ∧ (x.en = false → val.getLsbD 31 = true →
         (guar = false → exec (.admission n val) s = .next (s.setQslot n { z with en := true }))
         ∧ (guar = true → s.admits n z = false → exec (.admission n val) s = .next (s.setQslot n { z with admerr := true }))
         ∧ (guar = true → s.admits n z = true → ∃ t, exec (.admission n val) s = .next t ∧ (t.qslot n).en = true
            ∧ (t.qslot n).mapped = some q ∧ (t.qslot n).dl = (y.scyc + x.period) % 2 ^ 64
            ∧ (t.qslot n).rem = if (t.qslot n).head = true then x.budget - 1 else x.budget)))
    ∧ (let due : Prop := x.en = true ∧ x.guar = true ∧ x.dl = y.scyc
       (¬ due → exec (.slotRelease n) s = .next s)
       ∧ (due → ∃ t, exec (.slotRelease n) s = .next t ∧ (t.qslot n).dl = (x.dl + x.period) % 2 ^ 64 ∧ (t.qslot n).rem = x.budget
          ∧ (t.qslot n).ovr = false ∧ (t.qslot n).yreq = (if x.ylead < x.budget then false else x.yreq)))
    ∧ ((s.part p).power = .eclipse → exec (.headCycle p) s = .next s)
    ∧ ((s.part p).power ≠ .eclipse → ∃ t, exec (.headCycle p) s = .next t ∧ t.mem = s.mem ∧ ∀ k ∈ s.slotsOf p,
        (t.qslot k).work = s.slotWork k ∧ (t.qslot k).head = (s.headSlot p == some k)
        ∧ (t.qslot k).rem = if s.headSlot p = some k ∧ (s.qslot k).guar = true then (s.qslot k).rem - 1 else (s.qslot k).rem)
    ∧ (let ask : Prop := x.en = true ∧ x.guar = true ∧ x.rem ≤ x.ylead
       (ask → exec (.yieldRequest n) s = .next (s.setQslot n { x with yreq := true }))
       ∧ (¬ ask → exec (.yieldRequest n) s = .next s))
    ∧ (x.xcyc = none → exec (.overrunCheck n) s = .next s)
    ∧ (∀ k, x.xcyc = some k →
        let late : Prop := x.en = true ∧ x.guar = true ∧ y.scyc = (k + x.grace + 1) % 2 ^ 64 ∧ s.lateWaves n ≠ 0
        (¬ late → exec (.overrunCheck n) s = .next s)
        ∧ (late → ∃ t r, exec (.overrunCheck n) s = .next t ∧ (t.qslot n).ovr = true ∧ (t.part o).eventQ = y.eventQ ++ [r]))
    ∧ (let out : Prop := x.en = true ∧ x.guar = false ∧ x.mapped ≠ none ∧ (y.scyc + 2 ^ 64 - x.dl) % 2 ^ 64 < 2 ^ 63 ∧ y.rr ≠ []
       (out → exec (.sliceExpiry n) s = .next (s.setQslot n { x with yreq := true }))
       ∧ (¬ out → exec (.sliceExpiry n) s = .next s))
    ∧ (y.rr = [] ∨ x.en = false ∨ x.guar = true ∨ x.mapped ≠ none → exec (.bestEffortMapping n) s = .next s)
    ∧ (∀ q qs, y.rr = q :: qs → x.en = true → x.guar = false → x.mapped = none →
        exec (.bestEffortMapping n) s = .next ((s.setPart o { y with rr := qs }).setQslot n
          { x with mapped := some q, dl := (y.scyc + y.pslice) % 2 ^ 64, yreq := false }))
    ∧ (x.mapped = none ∨ x.guar = true → exec (.queueLeavesSlot n) s = .next s)
    ∧ (∀ q, x.mapped = some q → x.guar = false → s.hasWork q = false → ∃ t, exec (.queueLeavesSlot n) s = .next t
        ∧ (t.qslot n).mapped = none ∧ (t.qslot n).yreq = false)
    ∧ ((s.part p).pstop = true → exec (.gangPlacement p) s = .next s)
    ∧ (∀ e w z, (s.part p).pstop = false →
        (s.placeOrder p).findSome? (fun e => (s.windowOf p e.2 (fun _ => [])).map (fun w => (e, w))) = some (e, w) →
        s.gang? e.2 = some z → exec (.gangPlacement p) s = .next ((s.placeGang e.2 e.1 z w).makeRoom p))
    ∧ (s.gang? g = none → exec (.eviction g) s = .next s)
    ∧ (∀ z, s.gang? g = some z →
      let size := ((s.gangImage g z).length + 4095) / 4096
      let pages := s.findPages z.launch.part size
      (z.leaving = false →
        (s.evictable g z = false → z.chosen = false → exec (.eviction g) s = .next s)
        ∧ (s.evictable g z = false → z.chosen = true → exec (.eviction g) s = .next (s.setGang g { z with chosen := false }))
        ∧ (s.evictable g z = true → z.chosen = false → pages = none → exec (.eviction g) s = .next s)
        ∧ (s.evictable g z = true → z.chosen = true ∨ pages ≠ none →
          (s.partsHome g = false → exec (.eviction g) s = .next ((s.setGang g { z with chosen := true }).closeGang g))
          ∧ (s.partsHome g = true → exec (.eviction g) s =
              .next (((s.setGang g { z with chosen := true, leaving := true }).stopMmae g).evictNow g))))
      ∧ (z.leaving = true → (s.part z.launch.part).pstop = true → exec (.eviction g) s = .next s)
      ∧ (z.leaving = true → (s.part z.launch.part).pstop = false →
        let u := s.stopMmae g
        (z.stops = none → u = s)
        ∧ ∀ y, u.gang? g = some y →
          let size := ((u.gangImage g y).length + 4095) / 4096
          let pages := u.findPages y.launch.part size
          (y.matrixDone = false → exec (.eviction g) s = .next u)
          ∧ (y.matrixDone = true → pages = none →
              exec (.eviction g) s = .next (u.setGang g { y with chosen := false, leaving := false }))
          ∧ (∀ a, y.matrixDone = true → pages = some a → ∃ t z', exec (.eviction g) s = .next t ∧ t.gang? g = some z'
              ∧ z'.st = .evicted ∧ z'.chosen = false ∧ z'.leaving = false ∧ z'.image = some (a, size))))
    ∧ (s.stream? id = none → exec (.waveRetire id) s = .next s)
    ∧ (∀ w, s.stream? id = some w →
      (w.halted = false → exec (.waveRetire id) s = .next s)
      ∧ (s.w.live = true → s.w.id = id → s.w.halted = true → s.w.landed = true →
          s.w.q.all (fun t => t.2.st != .pending) = true → s.undecided id = false → s.w.core ≠ noCore →
          ∃ t, exec (.waveRetire id) s = .next t ∧ t.w.live = false ∧ t.mem = s.mem))
    ∧ (∀ z, s.grp? g j = some z →
      (s.barFull g j z.joined = false → exec (.barReevaluate g j) s = .next s)
      ∧ (s.barFull g j z.joined = true → ∃ t, exec (.barReevaluate g j) s = .next t
          ∧ t.grp? g j = some { z with gen := z.gen + 1, joined := [] }))
    ∧ (c.claims = [] → c.dead = [] → exec (.grantPass core) s = .next s)
    ∧ (∀ k, c.claims = [k] → c.dead = [] → s.w.live = true → k.wave = s.w.id → k.need ≤ s.grantFree core →
        ∃ t, exec (.grantPass core) s = .next t ∧ t.w.c = k.n ∧ (t.core core).claims = [] ∧ t.mem = s.mem
          ∧ (t.core core).poolUsed = c.poolUsed + k.need)

/-- The events of the units (R221, R229, R278 to R283, R295, R299 to R310, R314 to R320, R332, R420): with nothing to do
they change nothing; a tile leaves the run queue, a command its copy queue, an engine request becomes a record and then
raises its timeline, a matrix instruction leaves its slot, an MMERGE passes its ticket on, a grid is launched, resolved
or dropped, and a bad ray gives its reason; a WIDX write waits behind a held write of firmware to device memory (R350). That an engine of a
partition in Eclipse, whose memory holds its accesses (R423), does nothing at all, neither refusing a request nor raising TL (log 98, DESIGN
CHOICE), that the MMAE of a gang that is leaving stays in its slot (log 55), that a WIDX write
beyond 256 latched ones is held (log 147) and that fills and grids wait for any shoot-down and any pending merge of their partition
(log 141) are the model's choices. -/
def Obligations.UnitEvents : Prop :=
  ∀ (s : State) (cl e g j n : Nat) (val : Word) (id : WaveId),
    let c := s.cluster cl
    let x := s.eng e
    let p := s.engPart e
    let stay : Prop := c.wanted = [] ∧ ∀ b ∈ c.bins, s.flushDue cl b.2 = false
    (c.intake = [] → stay → ∃ t, exec (.ncallIntake cl) s = .next t ∧ t.cluster cl = c ∧ t.mem = s.mem)
    ∧ (∀ y, c.intake = [y] → y.taken = false → c.stalled = false → y.core % 64 = c.turn % 64 → stay →
        y.lanes.any (fun l => !c.settled y l.2.1) = true → ∃ t, exec (.ncallIntake cl) s = .next t ∧ t.mem = s.mem
          ∧ (t.cluster cl).intake = [{ y with taken := true }] ∧ (t.cluster cl).turn = (c.turn % 64 + 1) % 64)
    ∧ (s.wantsFill cl = none → exec (.weightFill cl) s = .next s)
    ∧ (∀ y h, s.wantsFill cl = some (y, h) → (s.fillSet cl y.part y.ctx h).2 = .ready →
        exec (.weightFill cl) s = .next (s.fillSet cl y.part y.ctx h).1)
    ∧ (∀ b y, b < 8 → Tab.find c.bins b = some y → y.aged (s.rcyc cl) = true →
        (∀ b' y', b' ≠ b → Tab.find c.bins b' = some y' → s.flushDue cl y' = false) →
        ∃ t, exec (.binAgeFlush cl) s = .next t ∧ t.cluster cl = { c.flush b with wanted := [] } ∧ t.mem = s.mem)
    ∧ (c.runq = [] → exec (.tileComplete cl) s = .next s)
    ∧ (∀ t ts, c.runq = t :: ts → c.sealOrder = [] → ∃ u, exec (.tileComplete cl) s = .next u
        ∧ (u.cluster cl).runq = ts ∧ (u.cluster cl).bins = c.bins ∧ u.mem = s.mem)
    ∧ (∀ z y k ks, s.gang? g = some z → z.groups[j]? = some y → y.copyq = k :: ks →
      (k.done = true → exec (.copyExecute g j) s = .next s)
      ∧ (k.done = false → k.go = none → exec (.copyExecute g j) s = .next s)
      ∧ (k.done = false → k.go = some false → z.st = .resident → ∃ t, exec (.copyExecute g j) s = .next t
          ∧ t.grp? g j = some { y with copyq := ks } ∧ t.mem = s.mem)
      ∧ (k.done = false → k.go = some true → z.st = .resident → k.form = 0 → (s.outstanding z.launch.part k.waits) = [] →
          z.blocked ⟨k.seq, j, k.spans z.launch, none, none⟩ = false →
          exec (.copyExecute g j) s = .next ((s.copyMove z.launch.part (.copyEng g j (z.coreOf j)) z.launch.ctx k
            k.src (copyBytes k.op k.cnt)).copyEnds z.launch.part g j))
      ∧ (k.done = false ∨ s.outstanding z.launch.part k.waits ≠ [] → exec (.copyComplete g j) s = .next s)
      ∧ (k.done = true → s.outstanding z.launch.part k.waits = [] → ∃ t, exec (.copyComplete g j) s = .next t
          ∧ t.grp? g j = some { y with copyq := ks } ∧ t.mem = s.mem))
    ∧ (s.fwOwes = true → exec (.widxWrite e val) s = .next { s with dev := { s.dev with held := s.dev.held ++ [.widxWrite e val] } })
    ∧ (s.fwOwes = false → (s.part p).power ≠ .noon ∨ (s.part p).notifyQ ≠ [] → (s.part p).notifyQ.length < 256 →
        exec (.widxWrite e val) s =
          .next (s.setPart p { (s.part p) with notifyQ := (s.part p).notifyQ ++ [.widx e val], waking := true }))
    ∧ (s.fwOwes = false → (s.part p).power ≠ .noon → 256 ≤ (s.part p).notifyQ.length → exec (.widxWrite e val) s =
        .next { s.setPart p { (s.part p) with waking := true } with
          dev := { s.dev with held := s.dev.held ++ [.widxWrite e val] } })
    ∧ (s.fwOwes = false → (s.part p).power = .noon → (s.part p).notifyQ = [] →
        (x.stop = true → exec (.widxWrite e val) s = .next s)
        ∧ (x.stop = false → (val.toNat + 2 ^ 32 - x.ridx.toNat) % 2 ^ 32 ≤ 2 ^ x.rk →
            exec (.widxWrite e val) s = .next (s.setEng e { x with widx := val }))
        ∧ (x.stop = false → 2 ^ x.rk < (val.toNat + 2 ^ 32 - x.ridx.toNat) % 2 ^ 32 → ∃ t r,
            exec (.widxWrite e val) s = .next t ∧ t.eng e = { x with widx := val, stop := true }
              ∧ (t.part p).eventQ = (s.part p).eventQ ++ [r]))
    ∧ (∀ k ev op, (k, ev, op) ∈ [(0, Instr.engineCopy e, State.opCopy), (1, .convert e, State.opConvert),
          (2, .checksumCopy e, State.opSum), (3, .cairnLoad e, State.opCairn), (4, .dedupCopy e, State.opDedup)] →
        (x.req = none → x.en = false ∨ x.stop = true ∨ x.ridx = x.widx → exec ev s = .next s)
        ∧ ((s.part p).power = .eclipse → exec ev s = .next s)
        ∧ (∀ bs, x.req = some bs → (reqOf bs).opn = k → s.outstanding p x.waits = [] → (s.part p).power ≠ .eclipse →
          (∀ st, (reqOf bs).refuse = some st → exec ev s = .next (s.engDone e (reqOf bs) ⟨st, 0, 0, 0⟩ []))
          ∧ ((reqOf bs).refuse = none → exec ev s = .next ((op s p e (reqOf bs)).engEnds p e))))
    ∧ (∀ bs, x.req = some bs → (reqOf bs).opn = 0 → s.outstanding p x.waits = [] → (s.part p).power ≠ .eclipse →
        (reqOf bs).refuse = none → zeros (reqOf bs).own = true → outside (reqOf bs).src (reqOf bs).len = false →
        outside (reqOf bs).dst (reqOf bs).len = false →
        (s.readIas p e (reqOf bs).src (reqOf bs).len).unfit = [] → (s.readIas p e (reqOf bs).src (reqOf bs).len).stop = none →
        ∃ t d, exec (.engineCopy e) s = .next t ∧ (t.eng e).req = none ∧ (t.eng e).cur = some d ∧ d.status = 0
          ∧ d.done = (reqOf bs).len)
    ∧ (x.cur = none ∨ (s.part p).power = .eclipse → exec (.requestComplete e) s = .next s)
    ∧ (∀ d, x.cur = some d → s.outstanding p x.waits = [] → (s.part p).power ≠ .eclipse → d.crec = false →
        ∃ t, exec (.requestComplete e) s = .next t
        ∧ (t.eng e).cur = none ∧ (t.eng e).tl = Nat.max x.tl (x.num % 2 ^ 64) ∧ t.mem = s.mem
        ∧ ∀ k ∈ (t.eng e).watch, (t.eng e).tl < k.v)
    ∧ (∀ z, s.gang? g = some z →
      (∀ b k, z.belay = some b → b.flight[n]? = some k →
        (z.st ≠ .resident → exec (.matrixComplete g n) s = .next s)
        ∧ (z.st = .resident → z.leaving = false → k.todo = [] → exec (.matrixComplete g n) s =
            .next (s.setGang g { z with belay := some { b.leave k.set with flight := dropAt b.flight n } }))
        ∧ (z.leaving = true → isMmae k.op = true → b.flight = [k] → exec (.matrixComplete g n) s = .next s))
      ∧ (∀ b, z.belay = some b → b.flight[n]? = none → exec (.matrixComplete g n) s = .next s)
      ∧ (∀ y m, z.groups[j]? = some y → y.merges[n]? = some m →
        (z.st ≠ .resident ∨ y.mt.getD m.mtk 0 ≠ m.ticket → exec (.mmergeApply g j n) s = .next s)
        ∧ (m.src < z.groups.length → z.st = .resident → y.mt.getD m.mtk 0 = m.ticket →
            m.ops.any (fun o => z.blocked o) = false → ∃ t y', exec (.mmergeApply g j n) s = .next t
              ∧ t.grp? g j = some y' ∧ y'.mt = y.mt.set m.mtk ((m.ticket + 1) % 2 ^ 16) ∧ y'.merges = dropAt y.merges n
              ∧ y'.wb = y.wb ∧ y'.ab = y.ab ∧ t.mem = s.mem)))
    ∧ (c.draws = [] → exec (.diceRegion cl) s = .next s ∧ exec (.gridLaunch cl) s = .next s)
    ∧ (∀ d, c.draws = [d] →
      (d.boundGang = none → exec (.diceRegion cl) s = .next (s.boundNext cl d))
      ∧ (∀ r rs nu nw, d.regions = r :: rs → r.grid = some (nu, nw) → s.gemitBlocked d.queue = false →
          ∃ t, exec (.gridLaunch cl) s = .next t ∧ t.mem = s.mem
            ∧ Tab.find (t.cluster cl).grids c.nextGrid = some ⟨s.nextGang, d.queue, d.ctx, nu, nw, d.gseq, false, [], []⟩
            ∧ (t.cluster cl).draws = [{ d with regions := rs, gseq := (d.gseq + 1) % 2 ^ 24 }]
            ∧ (t.queue d.queue).pending = (s.queue d.queue).pending ++ [s.nextGang]))
    ∧ (c.grids.find? (fun e => s.gridComplete e.2) = none → exec (.gridResolve cl) s = .next s)
    ∧ (∀ k y, c.grids.find? (fun e => s.gridComplete e.2) = some (k, y) → y.reserved = false → (∀ m, s.unitsWait m = false) →
        exec (.gridResolve cl) s = .next { s.setCluster cl { c with grids := Tab.erase c.grids k } with
          sram := s.sram.filter (fun b => !b.inGrid cl k (fun _ => true)) })
    ∧ (s.stream? id = none → exec (.traceResult id n) s = .next s)
    ∧ (∀ k r, s.w.live = true → s.w.id = id → n < 32 →
        s.w.jobs.find? (fun k => k.isTrace && k.todo.getLsbD n) = some k → Tab.find s.w.rays n = some r → r.bad = true →
        ∃ t, exec (.traceResult id n) s = .next t ∧ Tab.has t.w.rays n = false ∧ t.mem = s.mem
          ∧ VReg.lane (Tab.get VReg.start t.w.v k.first) n = RWord.none
          ∧ VReg.lane (Tab.get VReg.start t.w.v (k.first + 1)) n = ⟨2, true⟩)

/-- The events of the system (R28, R169, R174, R270, R391, R413 to R417, R420 to R427): notify writes outside Noon, a host or fabric
write to the doorbell aperture among them, wait for the wake-up, which applies them; power goes down only from an idle Noon; resets leave
what they reset at its reset value and no stream or gang of a reset partition or torn-down context; PMAP moves slices or reports an error;
host and fabric accesses perform or are held; a byte of BAR0 reads its register, or 0 where none stands, and takes a write of it, latched as
it is while its partition sleeps; a partition reset performs or discards the latched writes of bytes (R422); a word of BAR4 is a doorbell and stands at DBBASE + 4q; the host's writes perform in order and its reads
after them (R414), latched ones in their places; a write of firmware to a register waits behind a held one to device memory (R350); the
Lantern counts, hears, boots, measures and reports. The model's choices: BAR0 and BAR4 as forms of HOST_BAR2_ACCESS; the layout of the reset
message's header; key 257 for manifests (log 13, PRESUMED) and SHAKE256 (log 14, PRESUMED); accesses from outside held for Noon or a
shoot-down (log 102, DEDUCED) and firmware's writes to an Eclipse partition's memory (log 98, DESIGN CHOICE); a notify write beyond 256
(log 147, DEDUCED); the place of a BAR2 write among the latched ones (log 167, DEDUCED); 16 ms as up to arrival + 16 (log 108, DEDUCED); the
belay core's CCYC (log 168, DEDUCED); BAR4 without an aperture or a fit page (log 184, DESIGN CHOICE); PSLICE whole (log 101); a stopped
pair's watchdog (log 106); what a reset leaves (logs 96, 97), what a teardown drops (log 114), how beacons are counted (log 148), and that
latched writes hold up later ones (log 151). -/
def Obligations.SystemEvents : Prop :=
  ∀ (s : State) (p n off : Nat) (pm : BitVec 32) (bytes sig manifest : List Byte),
    let x := s.part p
    let d := s.dev
    let dev (y : Dev) : State := { s with dev := y }
    let nb := Tab.get ⟨false, 0, 0, false⟩ d.neigh n
    (∀ k, x.power ≠ .noon → x.notifyQ.length < 256 → exec (.notifyWrite p k) s =
        .next (s.setPart p { x with notifyQ := x.notifyQ ++ [k], waking := true }))
    ∧ (∀ k, x.power ≠ .noon → 256 ≤ x.notifyQ.length → exec (.notifyWrite p k) s =
        .next { s.setPart p { x with waking := true } with dev := { d with held := d.held ++ [.notifyWrite p k] } })
    ∧ (x.power = .noon → x.notifyQ = [] → ∀ q v t y,
        ((s.part (s.queuePart q)).power = .noon → exec (.notifyWrite p (.doorbell q v)) s = exec (.doorbellWrite q v) s)
        ∧ (s.fwOwes = false → exec (.notifyWrite p (.reg t y)) s = exec (.firmwareRegisterWrite t y) s)
        ∧ exec (.notifyWrite p (.mem off bytes)) s = .next (s.bellsFirst (s.agentWrite p .host 0 (s.bar2Cells p off bytes)).1)
        ∧ exec (.notifyWrite p (.fab off bytes)) s = .next (s.bellsFirst (s.fabWrite p off bytes))
        ∧ (s.fwOwes = false → (s.part (s.engPart q)).power = .noon → (s.part (s.engPart q)).notifyQ = [] →
            exec (.notifyWrite p (.widx q v)) s = exec (.widxWrite q v) s))
    ∧ (x.notifyQ = [] → exec (.wakeToNoon p) s =
        .next (s.setPart p { x with power := .noon, waking := false, idle := 0, notifyQ := [] }))
    ∧ (x.power ≠ .noon ∨ x.idle < 1024 ∨ x.waking = true ∨ s.idleNow p = false → exec (.powerStateEntry p) s = .next s)
    ∧ (x.power = .noon → 1024 ≤ x.idle → x.waking = false → s.idleNow p = true → ∃ t, exec (.powerStateEntry p) s = .next t
        ∧ (t.part p).power = powerFor x.ltol.toNat ((s.slotsOf p).any (fun n => (s.qslot n).en && (s.qslot n).guar)))
    ∧ (x.notifyQ = [] ∨ (x.dbbase = 0 ∧ ∀ k ∈ x.notifyQ, Notify.isMem k = true) →
        ∃ t, exec (.partitionReset p) s = .next t ∧ (t.part p).power = .noon ∧ (t.part p).prst = false
        ∧ (t.part p).notifyQ = [] ∧ (t.part p).parked = [] ∧ (t.part p).parkWait = [] ∧ (t.part p).ptrs = []
        ∧ (∀ h ∈ t.stores, h.part ≠ p) ∧ (t.part p).scyc = 0 ∧ (t.part p).ptroot = 0 ∧ (t.part p).hott = 95
        ∧ (t.part p).hyst = 5 ∧ (t.part p).drpen = true ∧ (t.part p).pslice = 100000 ∧ (t.part p).mtu = []
        ∧ (∀ w ∈ t.streams, w.place.part ≠ p) ∧ (∀ g ∈ t.gangs, g.2.launch.part ≠ p) ∧ (∀ q ∈ t.queues, q.2.part ≠ p))
    ∧ (∃ t, exec (.coreReset n) s = .next t
        ∧ t.core n = { Core.reset with ccBase := Tab.get 0 s.clock (sliceOf n) } ∧ t.ccyc n = 0 ∧ t.mem = s.mem)
    ∧ (∃ t, exec (.clusterReset n) s = .next t ∧ t.mem = s.mem ∧ t.rcyc n = 0
        ∧ t.cluster n = { Cluster.reset with belayGang := (s.cluster n).belayGang, belayBase := Tab.get 0 s.clock (n / 2),
                                             rcBase := Tab.get 0 s.clock (n / 2), nextGrid := (s.cluster n).nextGrid })
    ∧ ((∀ k, (s.part k).notifyQ = []) → ∃ t, exec .deviceReset s = .next t ∧ t.dev.accepted = d.accepted ∧ t.stores = []
        ∧ t.remotes = [] ∧ t.dev.fw = d.fw ∧ t.dev.hostMem = d.hostMem
        ∧ t.dev.ms = d.ms ∧ t.dev.beacon = d.beacon ∧ t.cairn = s.cairn)
    ∧ (s.fwOwes = true →
        exec (.pmapWrite pm) s = .next (dev { d with held := d.held ++ [.pmapWrite pm] })
        ∧ ∀ tgt (v : BitVec 64), (∀ o bs, tgt ≠ .memory o bs) → exec (.firmwareRegisterWrite tgt v) s =
            .next (dev { d with held := d.held ++ [.firmwareRegisterWrite tgt v] }))
    ∧ (s.fwOwes = false → s.pmapOk pm.toNat = false → exec (.pmapWrite pm) s = .next (dev { d with pmapErr := true }))
    ∧ (s.fwOwes = false → s.pmapOk pm.toNat = true → ∃ t, exec (.pmapWrite pm) s = .next t ∧ t.dev.pmapErr = false
        ∧ ∀ k, k < 8 → t.ownerOf k = pmapOf pm.toNat k)
    ∧ (let ia := (x.hwbase + off) % 2 ^ 48
       (n = 0 ∨ 2 ^ 36 < off + n → exec (.hostBar2Access p off (.read n)) s = .next s)
       ∧ (bytes = [] ∨ 2 ^ 36 < off + bytes.length → exec (.hostBar2Access p off (.write bytes)) s = .next s)
       ∧ (n ≠ 0 → off + n ≤ 2 ^ 36 →
         let e : Instr := .hostBar2Access p off (.read n)
         let u := s.reachExt p e ia n
         (s.hostBusy = true ∨ x.power = .eclipse → exec e s = .next (dev { d with held := d.held ++ [e] }))
         ∧ (s.hostBusy = false → x.power ≠ .eclipse →
           (u.2.any (u.1.lineWaits p) = true → exec e s = .next (u.1.holdReached e u.2))
           ∧ (u.2.any (u.1.lineWaits p) = false →
             ∃ t bs, exec e s = .next t ∧ t.dev.hostReads = d.hostReads ++ [bs] ∧ bs.length = n)))
       ∧ (bytes ≠ [] → off + bytes.length ≤ 2 ^ 36 →
         let e : Instr := .hostBar2Access p off (.write bytes)
         let heldOn : State := dev { d with held := d.held ++ [e] }
         let bell : Prop := x.power ≠ .noon ∧ x.inAperture ia bytes.length = true
         (s.hostWaits [p] = true → ¬ bell → exec e s = .next heldOn)
         ∧ (s.hostWaits [p] = true → bell → exec e s = .next (heldOn.setPart p { x with waking := true }))
         ∧ (s.hostWaits [p] = false → bell →
           (x.notifyQ.length < 256 → exec e s =
             .next (s.setPart p { x with notifyQ := x.notifyQ ++ [.mem off bytes], waking := true }))
           ∧ (256 ≤ x.notifyQ.length → exec e s = .next (heldOn.setPart p { x with waking := true })))
         ∧ (s.hostWaits [p] = false → ¬ bell → x.power = .eclipse ∨ x.notifyQ ≠ [] →
           (x.notifyQ.length < 256 → exec e s = .next (s.setPart p { x with notifyQ := x.notifyQ ++ [.mem off bytes] }))
           ∧ (256 ≤ x.notifyQ.length → exec e s = .next heldOn))
         ∧ (s.hostWaits [p] = false → ¬ bell → x.power ≠ .eclipse → x.notifyQ = [] →
           (s.extHeld p ia bytes.length = true → exec e s = .next heldOn)
           ∧ (s.extHeld p ia bytes.length = false →
               exec e s = .next (s.bellsFirst (s.agentWrite p .host 0 (s.bar2Cells p off bytes)).1)))))
    ∧ (∀ a ∈ [HostAccess.winRead n, .bellRead n], s.hostBusy = true ∨ (a = .bellRead n ∧ s.bellBusy off n = true) →
          exec (.hostBar2Access p off a) s = .next (dev { d with held := d.held ++ [.hostBar2Access p off a] }))
    ∧ (s.hostBusy = false → s.bellBusy off n = false →
        ∃ t bs, exec (.hostBar2Access p off (.bellRead n)) s = .next t ∧ t.dev.hostReads = d.hostReads ++ [bs] ∧ bs.length = n)
    ∧ (∀ a,
        (s.hostWaits (winParts off a.length) = true → exec (.hostBar2Access p off (.winWrite a)) s =
          .next ((dev { d with held := d.held ++ [.hostBar2Access p off (.winWrite a)] }).startWake (winParts off a.length)))
        ∧ (s.hostWaits (s.bellParts off a.length) = true → exec (.hostBar2Access p off (.bellWrite a)) s =
          .next ((dev { d with held := d.held ++ [.hostBar2Access p off (.bellWrite a)] }).startWake (s.bellParts off a.length))))
    ∧ (s.hostBusy = false →
        (∃ t bs, exec (.hostBar2Access p off (.winRead n)) s = .next t ∧ t.dev.hostReads = d.hostReads ++ [bs] ∧ bs.length = n
          ∧ t.mem = s.mem ∧ ∀ k, k < n →
            (s.winAt (off + k) = none → bs.getD k 1 = 0)
            ∧ (∀ r v, s.winAt (off + k) = some r → s.readTarget r.1 = some v → bs.getD k 0 = BitVec.ofNat 8 (v / 256 ^ r.2))
            ∧ (∀ q b, s.winAt (off + k) = some (.part q .qrfr, b) → 2 ≤ b → bs.getD k 1 = 0)
            ∧ (∀ q b, s.winAt (off + k) = some (.part q .ctack, b) → 7 ≤ b → bs.getD k 1 = 0))
        ∧ ((∀ k, k < bytes.length → s.winAt (off + k) = none) → (∀ k ∈ winParts off bytes.length, (s.part k).power = .noon) →
            exec (.hostBar2Access p off (.winWrite bytes)) s = .next s)
        ∧ (p < 8 → x.power ≠ .noon → bytes ≠ [] → 0x1000000 + 0x400000 * p ≤ off →
            off + bytes.length ≤ 0x1000000 + 0x400000 * (p + 1) → exec (.hostBar2Access n off (.winWrite bytes)) s =
              .next (s.setPart p { x with notifyQ := [.win off bytes], waking := true }))
        ∧ (p < 8 → x.power = .noon → bytes.length = 8 → x.pslice < 2 ^ 64 →
            exec (.hostBar2Access n (0x1000088 + 0x400000 * p) (.winWrite bytes)) s =
              .next (s.setPart p { x with pslice := leNat bytes }))
        ∧ (off % 4 = 0 → off < 262144 → bytes.length = 4 →
          let q := off / 4
          let v := BitVec.ofNat 32 (leNat bytes)
          let k := s.queuePart q
          let y := s.part k
          let ia := (y.dbbase + 4 * q) % 2 ^ 48
          (y.power ≠ .noon → exec (.hostBar2Access p off (.bellWrite bytes)) s =
            .next (s.setPart k { y with notifyQ := [.bell q v], waking := true }))
          ∧ (y.power = .noon → y.dbbase = 0 →
              exec (.hostBar2Access p off (.bellWrite bytes)) s = exec (.doorbellWrite q v) s)
          ∧ (∀ l, y.power = .noon → y.dbbase ≠ 0 → y.held ia = false → (∀ c, (s.core c).upd = []) →
              (∀ a ∈ s.pendingAccs k, a.isMerge = false) → s.quietL2 k → y.ctk = 0 → s.mem.wf = true →
              (s.xlate k ia).2 = .leaf l → (Walk.leaf l).reason true = 0 →
              ∃ u : State, exec (.hostBar2Access p off (.bellWrite bytes)) s = .next (u.ring q v)
                ∧ ∀ pa, Mem.read u.mem pa =
                    if l.frame + ia % 4096 ≤ pa ∧ pa < l.frame + ia % 4096 + 4 then
                      bytes.getD (pa - (l.frame + ia % 4096)) 0
                    else Mem.read s.mem pa)))
    ∧ x.readReg .pstate = some (match x.power with | .noon => 0 | .dusk => 1 | .umbra => 2 | .eclipse => 3)
    ∧ x.readReg .pctl = some ((if x.prst = true then 2 ^ 31 else 0) + if x.pstop = true then 2 ^ 30 else 0)
    ∧ (∀ v : BitVec 64, s.fwOwes = false → v.getLsbD 31 = true → ∃ t, exec (.firmwareRegisterWrite (.part p .pctl) v) s = .next t
        ∧ t.inbox = .partitionReset p :: s.inbox ∧ (t.part p).prst = true ∧ (t.part p).pstop = v.getLsbD 30)
    ∧ (∀ node ia a, x.import node ia (FabAccess.size a).1 (FabAccess.size a).2 = none →
        exec (.incomingRemoteAccess p node ia a) s = .next (dev { d with fabricReads := d.fabricReads ++ [none] }))
    ∧ (∀ node ia ia', n ≠ 0 → x.power = .noon → x.import node ia n false = some ia' →
        let e : Instr := .incomingRemoteAccess p node ia (.read n)
        let u := s.reachExt p e ia' n
        (u.2.any (u.1.lineWaits p) = true → exec e s = .next (u.1.holdReached e u.2))
        ∧ (u.2.any (u.1.lineWaits p) = false → ∃ t bs, exec e s = .next t ∧ bs.length = n
            ∧ t.dev.fabricReads = d.fabricReads ++ [some bs]))
    ∧ (∀ node ia ia', bytes ≠ [] → x.power ≠ .noon → x.import node ia bytes.length true = some ia' →
        x.inAperture ia' bytes.length = true → x.notifyQ.length < 256 →
        exec (.incomingRemoteAccess p node ia (.write bytes)) s =
          .next (s.setPart p { x with notifyQ := x.notifyQ ++ [.fab ia' bytes], waking := true }))
    ∧ (∀ node ia ia', bytes ≠ [] → x.power = .noon → x.import node ia bytes.length true = some ia' →
        s.extHeld p ia' bytes.length = false → x.inAperture ia' bytes.length = false ∨ x.notifyQ = [] →
        let r := s.agentWrite p .fabric 0
          ((List.range bytes.length).zip bytes |>.map (fun q => ((ia' + q.1) % 2 ^ 48, q.2)))
        ∃ t, exec (.incomingRemoteAccess p node ia (.write bytes)) s = .next t ∧ t.mem = r.1.mem
          ∧ (r.2 = [] → t.dev.fabricReads = d.fabricReads ++ [some []] ∧ t.dev.fabWrites = d.fabWrites)
          ∧ (r.2 ≠ [] → t.dev.fabricReads = d.fabricReads ∧ t.dev.fabWrites = d.fabWrites ++ [(p, r.2)]))
    ∧ (∃ t, exec (.contextTeardown n) s = .next t ∧ (∀ w ∈ t.streams, w.place.ctx ≠ n) ∧ (∀ g ∈ t.gangs, g.2.launch.ctx ≠ n)
        ∧ (∀ q ∈ t.queues, q.2.ctx ≠ n))
    ∧ (∀ v : BitVec 64,
        (s.fwOwes = false → exec (.firmwareRegisterWrite (.part p .pslice) v) s = .next (s.setPart p { x with pslice := v.toNat })
          ∧ exec (.firmwareRegisterWrite (.dev .nodeId) v) s = .next (dev { d with nodeId := v.toNat % 256 }))
        ∧ (off + bytes.length ≤ 16 * Config.channelBytes →
          let sleeps (k : Nat) : Prop := (s.part (s.ownerOf (channelOf (off + k) / 2))).power = .eclipse
          ((∀ k, k < bytes.length → ¬ sleeps k) →
            (let u : State := { s with mem := Mem.writeN s.mem off bytes }
             exec (.firmwareRegisterWrite (.memory off bytes) v) s = .next u.learnLeaves ∧ u.learnLeaves.mem = u.mem
             ∧ ((∀ p, (s.part p).ctreqs = []) → u.learnLeaves = u)))
          ∧ ((∃ k, k < bytes.length ∧ sleeps k) → exec (.firmwareRegisterWrite (.memory off bytes) v) s =
              .next (dev { d with held := d.held ++ [.firmwareRegisterWrite (.memory off bytes) v] }))))
    ∧ exec .beaconSend s = .next { dev { d with
          ms := d.ms + 1, beacon := d.beacon + 1, kick := d.kick + 1
          neigh := d.neigh.map (fun e => (e.1, { e.2 with heard := false }))
          accepted := d.accepted.filter (fun e => decide (d.ms + 1 ≤ e.2 + 16)) } with
        inbox := s.inbox ++ (d.neigh.filter (fun e => !e.2.heard)).map (fun e => .beaconMissed e.1)
          ++ if d.wdt ≠ 0 ∧ d.fw ≠ .minimal ∧ d.wdt ≤ d.kick + 1 then [.watchdogExpiry] else [] }
    ∧ exec (.beaconReceived n off) s = .next (dev { d with
        neigh := Tab.set d.neigh n { nb with missed := 0, last := off, heard := true } })
    ∧ (let y := { d with neigh := Tab.set d.neigh n { nb with missed := nb.missed + 1 } }
       (nb.missed ≠ 2 → exec (.beaconMissed n) s = .next (dev y))
       ∧ (nb.missed = 2 → ∃ t m, exec (.beaconMissed n) s = .next t ∧ t.dev = { y with sentResets := d.sentResets ++ [(n, m)] }
          ∧ m.take 10 = leBytes 1 n ++ leBytes 1 d.nodeId ++ leBytes 8 nb.last
          ∧ m = m.take 64 ++ Config.signature (m.take 64)))
    ∧ (∀ node last nonce,
        (d.accepts node n last nonce sig = false → exec (.resetMessage node n last nonce sig) s = .next s)
        ∧ (d.accepts node n last nonce sig = true →
          let y := { d with accepted := d.accepted.filter (fun e => e.1 != n) ++ [(n, d.ms)] }
          (y.quorum = false → exec (.resetMessage node n last nonce sig) s = .next (dev y))
          ∧ (y.quorum = true → exec (.resetMessage node n last nonce sig) s = exec .deviceReset (dev y))))
    ∧ (∀ dram, ∃ t, exec (.correctedErrorReport n dram) s = .next t ∧ t.mem = s.mem
        ∧ (t.dev.herq = d.herq ∨ ∃ r, t.dev.herq = d.herq ++ [r] ∧ r.length = 32 ∧ r.getD 0 0 = if dram then 2 else 1))
    ∧ (d.fw ≠ .running → exec .lockstepMismatch s = .next s)
    ∧ (d.fw = .running → ∃ t r, exec .lockstepMismatch s = .next t ∧ t.dev.fw = .stopped ∧ t.dev.ready = false
        ∧ t.dev.herq = d.herq ++ [r] ∧ r.getD 0 0 = 6)
    ∧ (d.wdt = 0 ∨ d.fw = .minimal → exec .watchdogExpiry s = .next s)
    ∧ (d.wdt ≠ 0 → d.fw ≠ .minimal → ∃ t r, exec .watchdogExpiry s = .next t ∧ t.dev.ready = false ∧ t.dev.fw = d.fw
        ∧ t.dev.herq = d.herq ++ [r] ∧ r.getD 0 0 = 7)
    ∧ (d.fw = .running ∨ d.fw = .stopped → exec .fwctlRestart s = .next (dev { d with fw := .running, ready := false }))
    ∧ (d.fw = .failed → exec .fwctlRestart s = .next s)
    ∧ (d.fw = .minimal → exec .fwctlRestart s = .next (dev { d with fw := .failed, fails := 0, ready := false }))
    ∧ (d.fw = .minimal ∨ d.fw = .stopped → exec (.boot bytes sig n) s = .next s)
    ∧ (d.fw = .running ∨ d.fw = .failed →
        (bootStage bytes sig n = 0 → exec (.boot bytes sig n) s =
          .next (dev { d with fw := .running, ready := false, fwDigest := shake256 bytes }))
        ∧ (bootStage bytes sig n ≠ 0 → ∃ t, exec (.boot bytes sig n) s = .next t ∧ t.dev.fails = d.fails + 1
            ∧ t.dev.fw = if d.fails + 1 < 3 then .failed else .minimal))
    ∧ (Config.signatureOk 257 (manifest ++ sig) = false → exec (.cairnInstall off bytes manifest sig) s = .next s)
    ∧ (Config.signatureOk 257 (manifest ++ sig) = true → off + bytes.length ≤ 2 ^ 40 →
        ∃ t, exec (.cairnInstall off bytes manifest sig) s = .next t ∧ t.cairn = Mem.writeN s.cairn off bytes
          ∧ t.mem = s.mem ∧ shake256 manifest ∈ t.dev.manifests)
    ∧ exec (.pmeasExtend p bytes) s = .next (s.setPart p { x with pmeas := shake256 (x.pmeas ++ padTo 64 bytes) })
    ∧ (∃ b, exec (.attestationReport p bytes) s = .next (dev { d with reports := d.reports ++ [b ++ Config.signature b] })
        ∧ b.take 32 = padTo 32 bytes)
    ∧ (d.fw = .running → exec .firmwareReady s = .next (dev { d with ready := true, fails := 0 }))
    ∧ (d.fw ≠ .running → exec .firmwareReady s = .next s)

/-! The machine as a whole. -/

/-- A step (R61 to R66, R404): the next event happens; else the stream at the head of the turn, where it can run,
ends a helper part that issues no more, issues a failed entry again, or executes exactly the instruction that the 12 bytes at
its PC decode to, beside which only its front end moves and an uncorrectable error that the fetch meets posts its record (R419); bytes of
no instruction trap ILLEGAL and a PC outside the region
traps PCRANGE; a fetch that a shoot-down holds, or a merge that a recall brings, waits; and with no turn left the clocks count.
That a PC with fewer than 12 bytes left in its region is outside it (log 131, DESIGN CHOICE), that a step executes the bytes that memory
holds at that moment (log 22, DEDUCED; R63 lets bytes of changed code be old or new) and that the events of the inbox come
before the streams (logs 19, 23) are the model's choices, as is what a fetch with an error goes on with (log 188). -/
def Obligations.StepRunsTheDecodedInstruction : Prop :=
  ∀ (s : State),
    (∀ e es, s.inbox = e :: es → step s = exec e { s with inbox := es })
    ∧ (s.inbox = [] → s.turn = [] → step s = .next s.cycle)
    ∧ (∀ id part ts, s.inbox = [] → s.turn = (id, part) :: ts →
      let u := { s with turn := ts }
      (u.select id part = none → step s = .next u)
      ∧ (∀ t, u.select id part = some t →
        (t.w.partStops = true → step s = .next t.closePart)
        ∧ (∀ e, t.w.partStops = false → t.w.failedEntry = some e → step s = .next (t.reissue e))
        ∧ (t.w.partStops = false → t.w.failedEntry = none →
          let r := t.region
          let pc := t.w.pcNow.toNat
          let held (k : Nat) : Bool := t.readHeld t.w.place.part (r.1 + pc + k)
          (pc % 4 ≠ 0 ∨ r.2 < pc + 12 → step s = .next t.pcRange)
          ∧ (pc % 4 = 0 → pc + 12 ≤ r.2 → held 0 = true ∨ held 11 = true → step s = .next t)
          ∧ (∀ bs : List Byte, pc % 4 = 0 → pc + 12 ≤ r.2 → held 0 = false → held 11 = false → bs.length = 12 →
              (∀ k, k < 12 → t.peek t.w.place.part (r.1 + pc + k) = some (bs.getD k 0)) →
            let v := t.fetchNote
            (t.ecc = [] → t.sram = [] → v = t) ∧ v.w = t.w ∧ v.mem = t.mem
            ∧ (∀ x rest, decode bs = .ok (x, rest) →
              (∀ u, exec x v = .next u → ∃ a, step s = .next (u.setW (u.w.setAhead a)))
              ∧ (∀ f, exec x v = .fault f → step s = .fault f) ∧ (∀ f, exec x v = .refused f → step s = .refused f))
            ∧ (∀ e, decode bs = .error e → step s = .next (v.illegalWord bs))))))

/-- The words of the manual's worked encodings decode to the instructions they are given for. -/
def Obligations.SpecWordsDecode : Prop :=
  let h : Hdr := ⟨⟨false, false, 0⟩, 0, false, false⟩
  decodeWord 0x430018020130908590000000 =
      .ok (.ffma ⟨⟨⟨true, true, 9⟩, 0, true, false⟩, .v 6, .v 2, .v 4, .f32, .rz⟩)
    ∧ decodeWord 0xE00000000000000000000004 = .ok (.regrel h 4)
    ∧ decodeWord 0xC10411090000000000000000 = .ok (.wpin h 4 (.s 9))
    ∧ decodeWord 0xA10001050000000000000003 = .ok (.gset h 3 (.s 5))
    ∧ decodeWord 0xF11000000000000000000000 = .ok (.tretSkip h)
    ∧ decodeWord 0xF00000000000000000000005 = .ok (.trap h 5)
    ∧ decodeWord 0xD4040104C040000040000000 = .ok (.tkadv h 0 4 (.i 1) .device)
    ∧ decodeWord 0x830C25004000000001014008 = .ok (.sts ⟨h, false, .i 9, .s 0, .s 0, .b32, .dflt, 0x1014008⟩)
    ∧ decodeWord 0x710414030000000000020000 = .ok (.ballot ⟨h, .s 5, .v 3, .v 0, .b32, .rne⟩ (.x 0))
    ∧ decodeWord 0xB004411445C0000100001000 = .ok (.mma ⟨h, 8, 0, true, 0⟩ 16 20 23)
    ∧ decodeWord 0xC60000080000000000000000 = .ok (.gemit h 8)

/-- Decoding inverts encoding: a well-formed instruction has a word, unless it is an event, and the word, and its 12
bytes, decode to that instruction with every operand and field as it was. -/
def Obligations.DecodeEncodeRoundTrip : Prop :=
  ∀ (x : Instr), x.wf = true →
    ((hdrOf x).isSome = true → ∃ w, encode x = some w)
    ∧ ∀ w, encode x = some w → decodeWord w = .ok x ∧ decode (wordBytes w) = .ok (x, [])

/-- Each word has one meaning and each instruction one word (R48, R60, R64): what decodes is well-formed and encodes
to the same word, so no bit of a word is ignored. -/
def Obligations.EveryBitOfAWordIsRead : Prop :=
  ∀ (w : BitVec 96) (x : Instr), decodeWord w = .ok x → x.wf = true ∧ encode x = some w

/-- Every step, of an instruction or an event, keeps device memory, Cairn and the Lantern's host memory in their
canonical form. -/
def Obligations.EveryStepKeepsMemoryForm : Prop :=
  ∀ (s t : State), s.memOk = true → step s = .next t → t.memOk = true

/-- The machine at reset: the memories are in canonical form and read 0 everywhere, no stream exists, every power state
is Noon, and the registers whose reset values the rules give hold them (R29, R256, R260, R303, R417). The byte an
unwritten address reads as, the PMAP of the boot configuration and the other values are the model's choice. -/
def Obligations.ResetState : Prop :=
  let s := State.reset
  s.memOk = true ∧ (∀ a, Mem.read s.mem a = 0) ∧ s.streams = [] ∧ s.dev.wdt = 1000
    ∧ ∀ n, (s.part n).hott = 95 ∧ (s.part n).hyst = 5 ∧ (s.part n).drpen = true ∧ (s.part n).pslice = 100000
        ∧ (s.part n).power = .noon ∧ (s.part n).ptroot = 0 ∧ (s.part n).scyc = 0 ∧ (s.qslot n).en = false
        ∧ (s.eng n).en = false ∧ (s.core n).hot = false ∧ (s.core n).droop = false

/-- PLCTL (R29): after a partition reset with no notify write latched HOTT is 95, HYST 5 and DRPEN 1; a firmware write
stores HOTT clamped to 60..105, HYST with 0 as 1, and DRPEN, and changes nothing else; the stored values count from each core's next TEMP update. -/
def Obligations.PlctlRegister : Prop :=
  ∀ (s : State) (p core : Nat) (v : BitVec 64) (temp : BitVec 8),
    let x := s.part p
    (x.notifyQ = [] → ∃ t, exec (.partitionReset p) s = .next t ∧ (t.part p).hott = 95 ∧ (t.part p).hyst = 5
      ∧ (t.part p).drpen = true)
    ∧ (s.fwOwes = false → ∃ t, exec (.firmwareRegisterWrite (.part p .plctl) v) s = .next t
        ∧ t = s.setPart p { x with hott := (t.part p).hott, hyst := (t.part p).hyst, drpen := (t.part p).drpen }
        ∧ (let f := v.toNat % 2 ^ 8
           (t.part p).hott = if f < 60 then 60 else if 105 < f then 105 else f)
        ∧ (let f := v.toNat / 2 ^ 8 % 2 ^ 4
           (t.part p).hyst = if f = 0 then 1 else f)
        ∧ (t.part p).drpen = v.getLsbD 12)
    ∧ (∃ t, exec (.tempUpdate core temp) s = .next t ∧ (t.core core).temp = temp
        ∧ (let y := s.part (s.ownerOf (sliceOf core))
           (t.core core).hot = if y.hott ≤ temp.toNat then true
             else if temp.toNat + y.hyst ≤ y.hott then false else (s.core core).hot)
        ∧ t.parts = s.parts)
end

