-- ==== Sys2Proof/Laws/Mem.lean ====
section
/-! SUPPORT. The laws of memory in canonical form and of tables: a read after a write, other addresses, and that every
operation keeps the form. -/

namespace Sys2Proof.Machine

theorem Mem.wfFrom_mono {m : Mem} {a b : Nat} (h : Mem.wfFrom b m = true) (hab : a ≤ b) : Mem.wfFrom a m = true := by
  cases m with
  | nil => rfl
  | cons c t => simp only [Mem.wfFrom, Bool.and_eq_true, decide_eq_true_eq] at h ⊢; exact ⟨⟨by omega, h.1.2⟩, h.2⟩

theorem Mem.read_below {m : Mem} {n a : Nat} (h : Mem.wfFrom n m = true) (ha : a < n) : Mem.read m a = Mem.dflt := by
  cases m with
  | nil => rfl
  | cons c t =>
    simp only [Mem.wfFrom, Bool.and_eq_true, decide_eq_true_eq] at h
    have h1 : c.1 ≠ a := by omega
    have h2 : a < c.1 := by omega
    simp [Mem.read, h1, h2]

theorem Mem.write_wfFrom {m : Mem} {n a : Nat} (x : Byte) (h : Mem.wfFrom n m = true) (hn : n ≤ a) :
    Mem.wfFrom n (Mem.write m a x) = true := by
  induction m generalizing n with
  | nil => by_cases hx : x = Mem.dflt <;> simp [Mem.write, Mem.wfFrom, hx, hn]
  | cons c t ih =>
    simp only [Mem.wfFrom, Bool.and_eq_true, decide_eq_true_eq] at h
    obtain ⟨⟨h1, h2⟩, h3⟩ := h
    by_cases hk : c.1 = a
    · by_cases hx : x = Mem.dflt
      · simpa [Mem.write, hk, hx] using Mem.wfFrom_mono h3 (by omega)
      · simp [Mem.write, hk, hx, Mem.wfFrom, hn]; simpa [hk] using h3
    · by_cases hl : a < c.1
      · by_cases hx : x = Mem.dflt
        · simp [Mem.write, hk, hl, hx, Mem.wfFrom, h1, h2, h3]
        · simp [Mem.write, hk, hl, hx, Mem.wfFrom, hn, h2, h3]
      · simp [Mem.write, hk, hl, Mem.wfFrom, h1, h2]; exact ih h3 (by omega)

theorem Mem.write_wf {m : Mem} (a : Nat) (x : Byte) (h : m.wf = true) : (m.write a x).wf = true :=
  Mem.write_wfFrom x h (Nat.zero_le a)

theorem Mem.writeN_wf {m : Mem} (a : Nat) (bs : List Byte) (h : m.wf = true) : (m.writeN a bs).wf = true := by
  induction bs generalizing m a with
  | nil => exact h
  | cons b t ih => exact ih (a + 1) (Mem.write_wf a b h)

theorem Mem.read_write_same (m : Mem) (a : Nat) (x : Byte) (n : Nat) (h : Mem.wfFrom n m = true) :
    (m.write a x).read a = x := by
  induction m generalizing n with
  | nil => by_cases hx : x = Mem.dflt <;> simp [Mem.write, Mem.read, hx]
  | cons c t ih =>
    simp only [Mem.wfFrom, Bool.and_eq_true, decide_eq_true_eq] at h
    obtain ⟨⟨h1, h2⟩, h3⟩ := h
    by_cases hk : c.1 = a
    · by_cases hx : x = Mem.dflt
      · simp only [Mem.write, hk, hx, if_true]; exact Mem.read_below h3 (by omega)
      · simp [Mem.write, hk, hx, Mem.read]
    · by_cases hl : a < c.1
      · by_cases hx : x = Mem.dflt <;> simp [Mem.write, Mem.read, hk, hl, hx]
      · simp [Mem.write, Mem.read, hk, hl]; exact ih _ h3

theorem Mem.read_write_other (m : Mem) (a b : Nat) (x : Byte) (n : Nat) (h : Mem.wfFrom n m = true) (hb : b ≠ a) :
    (m.write a x).read b = m.read b := by
  induction m generalizing n with
  | nil =>
    have hb' : a ≠ b := fun e => hb e.symm
    by_cases hx : x = Mem.dflt <;> simp [Mem.write, Mem.read, hx, hb']
  | cons c t ih =>
    simp only [Mem.wfFrom, Bool.and_eq_true, decide_eq_true_eq] at h
    obtain ⟨⟨h1, h2⟩, h3⟩ := h
    have hb' : a ≠ b := fun e => hb e.symm
    by_cases hk : c.1 = a
    · by_cases hx : x = Mem.dflt
      · by_cases hlt : b < c.1
        · simp only [Mem.write, Mem.read, hk, hx, if_true, hb', if_false, hk ▸ hlt]
          exact Mem.read_below h3 (by omega)
        · simp [Mem.write, Mem.read, hk, hx, hb', hk ▸ hlt]
      · simp [Mem.write, Mem.read, hk, hx, hb']
    · by_cases hl : a < c.1
      · by_cases hx : x = Mem.dflt
        · simp [Mem.write, Mem.read, hk, hl, hx]
        · by_cases hba : b < a
          · have h5 : c.1 ≠ b := by omega
            have h6 : b < c.1 := by omega
            simp [Mem.write, Mem.read, hk, hl, hx, hb', hba, h5, h6]
          · simp [Mem.write, Mem.read, hk, hl, hx, hb', hba]
      · simp only [Mem.write, Mem.read, hk, hl, if_false]
        rw [ih _ h3]

/-- What a write leaves of every address, in one lemma. -/
theorem Mem.read_write (m : Mem) (a b : Nat) (x : Byte) (h : m.wf = true) :
    (m.write a x).read b = if b = a then x else m.read b := by
  by_cases hb : b = a
  · subst hb; simpa using Mem.read_write_same m b x 0 h
  · simpa [hb] using Mem.read_write_other m a b x 0 h hb

/-- What a write of several bytes leaves of every address. -/
theorem Mem.read_writeN (m : Mem) (a b : Nat) (bs : List Byte) (h : m.wf = true) :
    (m.writeN a bs).read b = if a ≤ b then (bs[b - a]?).getD (m.read b) else m.read b := by
  induction bs generalizing m a with
  | nil => simp [Mem.writeN]
  | cons x t ih =>
    simp only [Mem.writeN]
    rw [ih _ _ (Mem.write_wf a x h), Mem.read_write m a b x h]
    by_cases h1 : b = a
    · subst h1; simp
    · by_cases h2 : a + 1 ≤ b
      · have h3 : a ≤ b := by omega
        have h4 : b - a = (b - (a + 1)) + 1 := by omega
        simp [h1, h2, h3, h4]
      · have h3 : ¬ a ≤ b := by omega
        simp [h1, h2, h3]

theorem Mem.readN_length (m : Mem) (a n : Nat) : (m.readN a n).length = n := by
  induction n generalizing a with
  | zero => rfl
  | succ n ih => simp [Mem.readN, ih]

/-- A filter keeps the canonical form. -/
theorem Mem.filter_wfFrom {m : Mem} {n : Nat} (p : Host.Cell → Bool) (h : Mem.wfFrom n m = true) :
    Mem.wfFrom n (m.filter p) = true := by
  induction m generalizing n with
  | nil => rfl
  | cons c t ih =>
    simp only [Mem.wfFrom, Bool.and_eq_true, decide_eq_true_eq] at h
    by_cases hp : p c = true
    · simp only [List.filter_cons, hp, if_true, Mem.wfFrom, Bool.and_eq_true, decide_eq_true_eq]
      exact ⟨h.1, ih h.2⟩
    · simp only [List.filter_cons, hp]
      exact ih (Mem.wfFrom_mono h.2 (by omega))

theorem Mem.cells_wfFrom (n a : Nat) (bs : List Byte) (h : n ≤ a) : Mem.wfFrom n (Mem.cells a bs) = true := by
  induction bs generalizing n a with
  | nil => rfl
  | cons b t ih =>
    by_cases hb : b = Mem.dflt
    · simpa [Mem.cells, hb] using ih n (a + 1) (by omega)
    · simp [Mem.cells, hb, Mem.wfFrom, h]; exact ih (a + 1) (a + 1) (Nat.le_refl _)

theorem Mem.cells_bound (a : Nat) (bs : List Byte) : ∀ c ∈ Mem.cells a bs, a ≤ c.1 ∧ c.1 < a + bs.length := by
  induction bs generalizing a with
  | nil => intro c hc; simp [Mem.cells] at hc
  | cons b t ih =>
    intro c hc
    by_cases hb : b = Mem.dflt
    · simp only [Mem.cells, hb, if_true] at hc
      have := ih (a + 1) c hc; simp only [List.length_cons]; omega
    · simp only [Mem.cells, hb, if_false, List.mem_cons] at hc
      rcases hc with rfl | hc
      · simp
      · have := ih (a + 1) c hc; simp only [List.length_cons]; omega

/-- Two memories in canonical form, one below the other, make one. -/
theorem Mem.append_wfFrom {m r : Mem} {n k : Nat} (hm : Mem.wfFrom n m = true) (hr : Mem.wfFrom k r = true)
    (hb : ∀ c ∈ m, c.1 < k) (hn : n ≤ k) : Mem.wfFrom n (m ++ r) = true := by
  induction m generalizing n with
  | nil => exact Mem.wfFrom_mono hr hn
  | cons c t ih =>
    simp only [Mem.wfFrom, Bool.and_eq_true, decide_eq_true_eq] at hm
    have hc : c.1 < k := hb c (List.mem_cons_self ..)
    simp only [List.cons_append, Mem.wfFrom, Bool.and_eq_true, decide_eq_true_eq]
    exact ⟨hm.1, ih hm.2 (fun d hd => hb d (List.mem_cons_of_mem _ hd)) (by omega)⟩

/-- What a filter from an address upward keeps starts there. -/
theorem Mem.above_wfFrom {m : Mem} {n k : Nat} (h : Mem.wfFrom n m = true) :
    Mem.wfFrom k (m.filter (fun c => decide (k ≤ c.1))) = true := by
  induction m generalizing n k with
  | nil => rfl
  | cons c t ih =>
    simp only [Mem.wfFrom, Bool.and_eq_true, decide_eq_true_eq] at h
    by_cases hk : k ≤ c.1
    · simp only [List.filter_cons, hk, decide_true, if_true, Mem.wfFrom, Bool.and_eq_true, decide_eq_true_eq]
      exact ⟨⟨trivial, h.1.2⟩, Mem.filter_wfFrom _ h.2⟩
    · simp only [List.filter_cons, hk, decide_false]
      exact ih h.2

theorem Mem.splice_wf {m : Mem} (a : Nat) (bs : List Byte) (h : m.wf = true) : (m.splice a bs).wf = true := by
  unfold Mem.splice Mem.wf
  rw [List.append_assoc]
  refine Mem.append_wfFrom (k := a) (Mem.filter_wfFrom _ h) ?_ ?_ (Nat.zero_le a)
  · refine Mem.append_wfFrom (k := a + bs.length) (Mem.cells_wfFrom a a bs (Nat.le_refl a)) ?_ ?_ (Nat.le_add_right ..)
    · exact Mem.above_wfFrom (n := 0) h
    · exact fun c hc => (Mem.cells_bound a bs c hc).2
  · intro c hc; simpa using (List.mem_filter.1 hc).2

/-! Tables. -/

@[simp] theorem Tab.get_set_same {α : Type} (d : α) (t : Tab α) (n : Nat) (x : α) : Tab.get d (Tab.set t n x) n = x := by
  induction t with
  | nil => simp [Tab.set, Tab.get]
  | cons c r ih => by_cases h : c.1 = n <;> simp [Tab.set, Tab.get, h, ih]

theorem Tab.get_set_other {α : Type} (d : α) (t : Tab α) {n k : Nat} (x : α) (h : k ≠ n) :
    Tab.get d (Tab.set t n x) k = Tab.get d t k := by
  induction t with
  | nil => have h' : n ≠ k := fun e => h e.symm; simp [Tab.set, Tab.get, h']
  | cons c r ih =>
    by_cases hc : c.1 = n
    · have h' : n ≠ k := fun e => h e.symm; simp [Tab.set, Tab.get, hc, h']
    · simp only [Tab.set, hc, if_false, Tab.get, ih]

/-- What setting a key leaves of every key. -/
theorem Tab.get_set {α : Type} (d : α) (t : Tab α) (n k : Nat) (x : α) :
    Tab.get d (Tab.set t n x) k = if k = n then x else Tab.get d t k := by
  by_cases h : k = n
  · subst h; simp
  · simp [h, Tab.get_set_other d t x h]

/-! Byte order. -/

theorem leBytes_length (n x : Nat) : (leBytes n x).length = n := by
  induction n generalizing x with
  | zero => rfl
  | succ n ih => simp [leBytes, ih]

/-- A number that fits comes back from its bytes (R5). -/
theorem leNat_leBytes (n x : Nat) (h : x < 256 ^ n) : leNat (leBytes n x) = x := by
  induction n generalizing x with
  | zero => simp [leBytes, leNat]; omega
  | succ n ih =>
    have h2 : x / 256 < 256 ^ n := by
      apply Nat.div_lt_of_lt_mul; rw [Nat.pow_succ] at h; omega
    simp only [leBytes, leNat, ih _ h2, BitVec.toNat_ofNat]
    omega

end Sys2Proof.Machine
end

