-- ==== Sys2Proof/Laws/Regs.lean ====
section
/-! SUPPORT. The laws of the registers of the executing stream or helper part: a read after a write, and what each
named update leaves. -/

namespace Sys2Proof.Machine

/-! The executing part. -/

theorem Wave.cur_setCur (w : Wave) (p q : HPart) (h : w.cur = some q) : (w.setCur p).cur = some p := by
  unfold Wave.cur at h
  unfold Wave.setCur Wave.cur
  cases hs : w.sel with
  | none => simp [hs] at h
  | some k =>
    cases ht : w.team with
    | none => simp [hs, ht] at h
    | some t =>
      simp only [hs, ht] at h ⊢
      have hk : k < t.parts.length := by
        rcases Nat.lt_or_ge k t.parts.length with h1 | h1
        · exact h1
        · rw [List.getElem?_eq_none h1] at h; simp at h
      simp [hk]

theorem Wave.setCur_none (w : Wave) (p : HPart) (h : w.sel = none) : w.setCur p = w := by
  unfold Wave.setCur; rw [h]

/-- Replacing the executing part changes the team only. -/
theorem Wave.setCur_eq (w : Wave) (p : HPart) : w.setCur p = { w with team := (w.setCur p).team } := by
  obtain ⟨⟩ := w
  rename_i team sel _ _ _ _ _ _ _ _
  cases sel <;> cases team <;> rfl

/-- With no part selected the stream's own registers are meant. -/
theorem Wave.cur_none (w : Wave) (h : w.sel = none) : w.cur = none := by unfold Wave.cur; rw [h]

/-! Lanes and masks. -/

theorem VReg.lane_merge (m : Word) (a b : VReg) (l : Nat) (h : l < 32) :
    VReg.lane (VReg.merge m a b) l = if m.getLsbD l then VReg.lane b l else VReg.lane a l := by
  have h2 : laneList[l]? = some l := by
    have : laneList = List.range 32 := by decide
    rw [this, List.getElem?_range h]
  unfold VReg.lane VReg.merge
  simp only [List.getD_eq_getElem?_getD, List.getElem?_map, h2, Option.map_some, Option.getD_some]
  rfl

theorem VReg.lane_merge_out (m : Word) (a b : VReg) (l : Nat) (h : 32 ≤ l) :
    VReg.lane (VReg.merge m a b) l = RWord.none := by
  have h2 : laneList[l]? = none := by
    have : laneList = List.range 32 := by decide
    rw [this]; exact List.getElem?_eq_none (by simpa using h)
  unfold VReg.lane VReg.merge
  simp [List.getD_eq_getElem?_getD, h2]

/-! Scalar registers. -/

@[simp] theorem Wave.rdS_zero (w : Wave) : w.rdS 0 = RWord.zero := by simp [Wave.rdS]
@[simp] theorem Wave.wrS_zero (w : Wave) (x : RWord) : w.wrS 0 x = w := by simp [Wave.wrS]

/-- What a scalar write leaves in every scalar register. -/
theorem Wave.rdS_wrS (w : Wave) (n m : Nat) (x : RWord) :
    (w.wrS n x).rdS m = if m = n ∧ n ≠ 0 then x else w.rdS m := by
  by_cases hn : n = 0
  · subst hn; simp
  · by_cases hm : m = 0
    · subst hm; have : ¬ (0 = n) := fun e => hn e.symm; simp [this]
    · unfold Wave.wrS
      simp only [hn, if_false]
      cases hc : w.cur with
      | some p =>
        simp only [Wave.rdS, hm, if_false, Wave.cur_setCur w _ p hc, hc, Tab.get_set]
        simp [hn]
      | none =>
        have h2 : Wave.cur { w with s := Tab.set w.s n x } = none := hc
        simp only [Wave.rdS, hm, if_false, h2, hc, Tab.get_set]
        simp [hn]

/-- A scalar write changes the scalar registers of the stream, or its team, only. -/
theorem Wave.wrS_eq (w : Wave) (n : Nat) (x : RWord) :
    w.wrS n x = { w with s := (w.wrS n x).s, team := (w.wrS n x).team } := by
  unfold Wave.wrS
  split
  · rfl
  · split
    · rw [Wave.setCur_eq]
    · rfl

/-- What a scalar write leaves of the executing part. -/
theorem Wave.cur_wrS (w : Wave) (n : Nat) (x : RWord) :
    (w.wrS n x).cur = (w.cur).map (fun p => if n = 0 then p else { p with s := Tab.set p.s n x }) := by
  unfold Wave.wrS
  by_cases hn : n = 0
  · simp [hn]
  · simp only [hn, if_false]
    cases hc : w.cur with
    | some p => simp [Wave.cur_setCur w _ p hc]
    | none => exact hc

/-! Vector registers. -/

/-- What a vector write leaves in every lane of every vector register. -/
theorem Wave.rdV_wrV (w : Wave) (n m l : Nat) (k : Word) (x : VReg) (hl : l < 32) :
    VReg.lane ((w.wrV n k x).rdV m) l =
      if m = n ∧ k.getLsbD l = true then VReg.lane x l else VReg.lane (w.rdV m) l := by
  unfold Wave.wrV
  cases hc : w.cur with
  | none =>
    have h2 : Wave.cur { w with v := Tab.set w.v n (VReg.merge k (Tab.get VReg.start w.v n) x) } = none := hc
    simp only [Wave.rdV, h2, hc, Tab.get_set]
    by_cases h : m = n
    · subst h; simp [VReg.lane_merge _ _ _ _ hl]
    · simp [h]
  | some p =>
    cases hp : p.lender with
    | none =>
      have h2 : Wave.cur { w with v := Tab.set w.v n (VReg.merge k (Tab.get VReg.start w.v n) x) } = some p := hc
      simp only [hp, Option.isSome_none, Bool.false_eq_true, if_false, Wave.rdV, h2, hc, Tab.get_set]
      by_cases h : m = n
      · subst h; simp [VReg.lane_merge _ _ _ _ hl]
      · simp [h]
    | some q =>
      simp only [hp, Option.isSome_some, if_true, Wave.rdV, Wave.cur_setCur w _ p hc, hc, Tab.get_set]
      by_cases h : m = n
      · subst h; simp [VReg.lane_merge _ _ _ _ hl]
      · simp [h]

/-- What a vector write leaves of the executing part. -/
theorem Wave.cur_wrV (w : Wave) (n : Nat) (k : Word) (x : VReg) :
    (w.wrV n k x).cur = (w.cur).map (fun p =>
      if p.lender.isSome then { p with v := Tab.set p.v n (VReg.merge k (Tab.get VReg.start p.v n) x) } else p) := by
  unfold Wave.wrV
  cases hc : w.cur with
  | none => exact hc
  | some p =>
    by_cases hp : p.lender.isSome = true
    · simp [hp, Wave.cur_setCur w _ p hc]
    · simp only [hp, Option.map_some]
      exact hc

/-- A vector write changes the vector registers of the stream, or its team, only. -/
theorem Wave.wrV_eq (w : Wave) (n : Nat) (k : Word) (x : VReg) :
    w.wrV n k x = { w with v := (w.wrV n k x).v, team := (w.wrV n k x).team } := by
  unfold Wave.wrV
  split
  · split
    · rw [Wave.setCur_eq]
    · rfl
  · rfl

/-- A vector write leaves every scalar register. -/
@[simp] theorem Wave.rdS_wrV (w : Wave) (n m : Nat) (k : Word) (x : VReg) : (w.wrV n k x).rdS m = w.rdS m := by
  unfold Wave.rdS
  by_cases hm : m = 0
  · simp [hm]
  · simp only [hm, if_false, Wave.cur_wrV]
    cases hc : w.cur with
    | none => simp only [Option.map_none]; rw [Wave.wrV_eq]
    | some p => by_cases hp : p.lender.isSome = true <;> simp [hp]

/-- A scalar write leaves every vector register. -/
@[simp] theorem Wave.rdV_wrS (w : Wave) (n m : Nat) (x : RWord) : (w.wrS n x).rdV m = w.rdV m := by
  unfold Wave.rdV
  rw [Wave.cur_wrS]
  cases hc : w.cur with
  | none => simp only [Option.map_none]; rw [Wave.wrS_eq]
  | some p =>
    by_cases hn : n = 0
    · simp [hn]
    · simp only [Option.map_some, hn, if_false]; rw [Wave.wrS_eq]

end Sys2Proof.Machine
end

