-- ==== Sys2Proof/Laws/Frames.lean ====
section
/-! SUPPORT. What each named update of a stream or helper part leaves of what the executing part reads. -/

namespace Sys2Proof.Machine

theorem Wave.setExec_eq (w : Wave) (m : Word) :
    w.setExec m = { w with exec := (w.setExec m).exec, team := (w.setExec m).team } := by
  unfold Wave.setExec; split
  · rw [Wave.setCur_eq]
  · rfl

theorem Wave.cur_setExec (w : Wave) (m : Word) : (w.setExec m).cur = (w.cur).map (fun p => { p with exec := m &&& p.lanes &&& ~~~p.faulted }) := by
  unfold Wave.setExec
  cases hc : w.cur with
  | some p => simp [Wave.cur_setCur w _ p hc]
  | none => exact hc

@[simp] theorem Wave.rdS_setExec (w : Wave) (m : Word) (k : Nat) : (w.setExec m).rdS k = w.rdS k := by
  unfold Wave.rdS
  rw [Wave.cur_setExec]
  cases hc : w.cur with
  | none => simp only [Option.map_none]; rw [Wave.setExec_eq]
  | some p => simp only [Option.map_some]

@[simp] theorem Wave.rdV_setExec (w : Wave) (m : Word) (k : Nat) : (w.setExec m).rdV k = w.rdV k := by
  unfold Wave.rdV
  rw [Wave.cur_setExec]
  cases hc : w.cur with
  | none => simp only [Option.map_none]; rw [Wave.setExec_eq]
  | some p => simp only [Option.map_some]; rw [Wave.setExec_eq]

@[simp] theorem Wave.seedOf_setExec (w : Wave) (m : Word) (l : Nat) : (w.setExec m).seedOf l = w.seedOf l := by
  unfold Wave.seedOf
  rw [Wave.cur_setExec]
  cases hc : w.cur with
  | none => simp only [Option.map_none]; rw [Wave.setExec_eq]
  | some p => rfl

@[simp] theorem Wave.pcNow_setExec (w : Wave) (m : Word) : (w.setExec m).pcNow = w.pcNow := by
  unfold Wave.pcNow
  rw [Wave.cur_setExec]
  cases hc : w.cur with
  | none => simp only [Option.map_none]; rw [Wave.setExec_eq]
  | some p => rfl

@[simp] theorem Wave.prevPc_setExec (w : Wave) (m : Word) : (w.setExec m).prevPc = w.prevPc := by
  unfold Wave.prevPc
  rw [Wave.cur_setExec]
  cases hc : w.cur with
  | none => simp only [Option.map_none]; rw [Wave.setExec_eq]
  | some p => rfl

@[simp] theorem Wave.wins_setExec (w : Wave) (m : Word) : (w.setExec m).wins = w.wins := by
  unfold Wave.wins
  rw [Wave.cur_setExec]
  cases hc : w.cur with
  | none => simp only [Option.map_none]; rw [Wave.setExec_eq]
  | some p => rfl

@[simp] theorem Wave.flight_setExec (w : Wave) (m : Word) : (w.setExec m).flight = w.flight := by
  unfold Wave.flight
  rw [Wave.cur_setExec]
  cases hc : w.cur with
  | none => simp only [Option.map_none]; rw [Wave.setExec_eq]
  | some p => rfl


theorem Wave.setSeeds_eq (w : Wave) (x : List Word) :
    w.setSeeds x = { w with seed := (w.setSeeds x).seed, team := (w.setSeeds x).team } := by
  unfold Wave.setSeeds; split
  · rw [Wave.setCur_eq]
  · rfl

theorem Wave.cur_setSeeds (w : Wave) (x : List Word) : (w.setSeeds x).cur = (w.cur).map (fun p => { p with seed := x }) := by
  unfold Wave.setSeeds
  cases hc : w.cur with
  | some p => simp [Wave.cur_setCur w _ p hc]
  | none => exact hc

@[simp] theorem Wave.rdS_setSeeds (w : Wave) (x : List Word) (k : Nat) : (w.setSeeds x).rdS k = w.rdS k := by
  unfold Wave.rdS
  rw [Wave.cur_setSeeds]
  cases hc : w.cur with
  | none => simp only [Option.map_none]; rw [Wave.setSeeds_eq]
  | some p => simp only [Option.map_some]

@[simp] theorem Wave.rdV_setSeeds (w : Wave) (x : List Word) (k : Nat) : (w.setSeeds x).rdV k = w.rdV k := by
  unfold Wave.rdV
  rw [Wave.cur_setSeeds]
  cases hc : w.cur with
  | none => simp only [Option.map_none]; rw [Wave.setSeeds_eq]
  | some p => simp only [Option.map_some]; rw [Wave.setSeeds_eq]

@[simp] theorem Wave.execM_setSeeds (w : Wave) (x : List Word) : (w.setSeeds x).execM = w.execM := by
  unfold Wave.execM
  rw [Wave.cur_setSeeds]
  cases hc : w.cur with
  | none => simp only [Option.map_none]; rw [Wave.setSeeds_eq]
  | some p => rfl

@[simp] theorem Wave.pcNow_setSeeds (w : Wave) (x : List Word) : (w.setSeeds x).pcNow = w.pcNow := by
  unfold Wave.pcNow
  rw [Wave.cur_setSeeds]
  cases hc : w.cur with
  | none => simp only [Option.map_none]; rw [Wave.setSeeds_eq]
  | some p => rfl

@[simp] theorem Wave.prevPc_setSeeds (w : Wave) (x : List Word) : (w.setSeeds x).prevPc = w.prevPc := by
  unfold Wave.prevPc
  rw [Wave.cur_setSeeds]
  cases hc : w.cur with
  | none => simp only [Option.map_none]; rw [Wave.setSeeds_eq]
  | some p => rfl

@[simp] theorem Wave.wins_setSeeds (w : Wave) (x : List Word) : (w.setSeeds x).wins = w.wins := by
  unfold Wave.wins
  rw [Wave.cur_setSeeds]
  cases hc : w.cur with
  | none => simp only [Option.map_none]; rw [Wave.setSeeds_eq]
  | some p => rfl

@[simp] theorem Wave.flight_setSeeds (w : Wave) (x : List Word) : (w.setSeeds x).flight = w.flight := by
  unfold Wave.flight
  rw [Wave.cur_setSeeds]
  cases hc : w.cur with
  | none => simp only [Option.map_none]; rw [Wave.setSeeds_eq]
  | some p => rfl


theorem Wave.setWins_eq (w : Wave) (x : List Window) :
    w.setWins x = { w with windows := (w.setWins x).windows, team := (w.setWins x).team } := by
  unfold Wave.setWins; split
  · rw [Wave.setCur_eq]
  · rfl

theorem Wave.cur_setWins (w : Wave) (x : List Window) : (w.setWins x).cur = (w.cur).map (fun p => { p with windows := x }) := by
  unfold Wave.setWins
  cases hc : w.cur with
  | some p => simp [Wave.cur_setCur w _ p hc]
  | none => exact hc

@[simp] theorem Wave.rdS_setWins (w : Wave) (x : List Window) (k : Nat) : (w.setWins x).rdS k = w.rdS k := by
  unfold Wave.rdS
  rw [Wave.cur_setWins]
  cases hc : w.cur with
  | none => simp only [Option.map_none]; rw [Wave.setWins_eq]
  | some p => simp only [Option.map_some]

@[simp] theorem Wave.rdV_setWins (w : Wave) (x : List Window) (k : Nat) : (w.setWins x).rdV k = w.rdV k := by
  unfold Wave.rdV
  rw [Wave.cur_setWins]
  cases hc : w.cur with
  | none => simp only [Option.map_none]; rw [Wave.setWins_eq]
  | some p => simp only [Option.map_some]; rw [Wave.setWins_eq]

@[simp] theorem Wave.execM_setWins (w : Wave) (x : List Window) : (w.setWins x).execM = w.execM := by
  unfold Wave.execM
  rw [Wave.cur_setWins]
  cases hc : w.cur with
  | none => simp only [Option.map_none]; rw [Wave.setWins_eq]
  | some p => rfl

@[simp] theorem Wave.seedOf_setWins (w : Wave) (x : List Window) (l : Nat) : (w.setWins x).seedOf l = w.seedOf l := by
  unfold Wave.seedOf
  rw [Wave.cur_setWins]
  cases hc : w.cur with
  | none => simp only [Option.map_none]; rw [Wave.setWins_eq]
  | some p => rfl

@[simp] theorem Wave.pcNow_setWins (w : Wave) (x : List Window) : (w.setWins x).pcNow = w.pcNow := by
  unfold Wave.pcNow
  rw [Wave.cur_setWins]
  cases hc : w.cur with
  | none => simp only [Option.map_none]; rw [Wave.setWins_eq]
  | some p => rfl

@[simp] theorem Wave.prevPc_setWins (w : Wave) (x : List Window) : (w.setWins x).prevPc = w.prevPc := by
  unfold Wave.prevPc
  rw [Wave.cur_setWins]
  cases hc : w.cur with
  | none => simp only [Option.map_none]; rw [Wave.setWins_eq]
  | some p => rfl

@[simp] theorem Wave.flight_setWins (w : Wave) (x : List Window) : (w.setWins x).flight = w.flight := by
  unfold Wave.flight
  rw [Wave.cur_setWins]
  cases hc : w.cur with
  | none => simp only [Option.map_none]; rw [Wave.setWins_eq]
  | some p => rfl


theorem Wave.setFlight_eq (w : Wave) (x : List Entry) :
    w.setFlight x = { w with inflight := (w.setFlight x).inflight, team := (w.setFlight x).team } := by
  unfold Wave.setFlight; split
  · rw [Wave.setCur_eq]
  · rfl

theorem Wave.cur_setFlight (w : Wave) (x : List Entry) : (w.setFlight x).cur = (w.cur).map (fun p => { p with inflight := x }) := by
  unfold Wave.setFlight
  cases hc : w.cur with
  | some p => simp [Wave.cur_setCur w _ p hc]
  | none => exact hc

@[simp] theorem Wave.rdS_setFlight (w : Wave) (x : List Entry) (k : Nat) : (w.setFlight x).rdS k = w.rdS k := by
  unfold Wave.rdS
  rw [Wave.cur_setFlight]
  cases hc : w.cur with
  | none => simp only [Option.map_none]; rw [Wave.setFlight_eq]
  | some p => simp only [Option.map_some]

@[simp] theorem Wave.rdV_setFlight (w : Wave) (x : List Entry) (k : Nat) : (w.setFlight x).rdV k = w.rdV k := by
  unfold Wave.rdV
  rw [Wave.cur_setFlight]
  cases hc : w.cur with
  | none => simp only [Option.map_none]; rw [Wave.setFlight_eq]
  | some p => simp only [Option.map_some]; rw [Wave.setFlight_eq]

@[simp] theorem Wave.execM_setFlight (w : Wave) (x : List Entry) : (w.setFlight x).execM = w.execM := by
  unfold Wave.execM
  rw [Wave.cur_setFlight]
  cases hc : w.cur with
  | none => simp only [Option.map_none]; rw [Wave.setFlight_eq]
  | some p => rfl

@[simp] theorem Wave.seedOf_setFlight (w : Wave) (x : List Entry) (l : Nat) : (w.setFlight x).seedOf l = w.seedOf l := by
  unfold Wave.seedOf
  rw [Wave.cur_setFlight]
  cases hc : w.cur with
  | none => simp only [Option.map_none]; rw [Wave.setFlight_eq]
  | some p => rfl

@[simp] theorem Wave.pcNow_setFlight (w : Wave) (x : List Entry) : (w.setFlight x).pcNow = w.pcNow := by
  unfold Wave.pcNow
  rw [Wave.cur_setFlight]
  cases hc : w.cur with
  | none => simp only [Option.map_none]; rw [Wave.setFlight_eq]
  | some p => rfl

@[simp] theorem Wave.prevPc_setFlight (w : Wave) (x : List Entry) : (w.setFlight x).prevPc = w.prevPc := by
  unfold Wave.prevPc
  rw [Wave.cur_setFlight]
  cases hc : w.cur with
  | none => simp only [Option.map_none]; rw [Wave.setFlight_eq]
  | some p => rfl

@[simp] theorem Wave.wins_setFlight (w : Wave) (x : List Entry) : (w.setFlight x).wins = w.wins := by
  unfold Wave.wins
  rw [Wave.cur_setFlight]
  cases hc : w.cur with
  | none => simp only [Option.map_none]; rw [Wave.setFlight_eq]
  | some p => rfl


theorem Wave.setPc_eq (w : Wave) (pc : Word) :
    w.setPc pc = { w with pc := (w.setPc pc).pc, prev := (w.setPc pc).prev, team := (w.setPc pc).team } := by
  unfold Wave.setPc; split
  · rw [Wave.setCur_eq]
  · rfl

theorem Wave.cur_setPc (w : Wave) (pc : Word) : (w.setPc pc).cur = (w.cur).map (fun p => { p with pc := pc, prev := p.pc }) := by
  unfold Wave.setPc
  cases hc : w.cur with
  | some p => simp [Wave.cur_setCur w _ p hc]
  | none => exact hc

@[simp] theorem Wave.rdS_setPc (w : Wave) (pc : Word) (k : Nat) : (w.setPc pc).rdS k = w.rdS k := by
  unfold Wave.rdS
  rw [Wave.cur_setPc]
  cases hc : w.cur with
  | none => simp only [Option.map_none]; rw [Wave.setPc_eq]
  | some p => simp only [Option.map_some]

@[simp] theorem Wave.rdV_setPc (w : Wave) (pc : Word) (k : Nat) : (w.setPc pc).rdV k = w.rdV k := by
  unfold Wave.rdV
  rw [Wave.cur_setPc]
  cases hc : w.cur with
  | none => simp only [Option.map_none]; rw [Wave.setPc_eq]
  | some p => simp only [Option.map_some]; rw [Wave.setPc_eq]

@[simp] theorem Wave.execM_setPc (w : Wave) (pc : Word) : (w.setPc pc).execM = w.execM := by
  unfold Wave.execM
  rw [Wave.cur_setPc]
  cases hc : w.cur with
  | none => simp only [Option.map_none]; rw [Wave.setPc_eq]
  | some p => rfl

@[simp] theorem Wave.seedOf_setPc (w : Wave) (pc : Word) (l : Nat) : (w.setPc pc).seedOf l = w.seedOf l := by
  unfold Wave.seedOf
  rw [Wave.cur_setPc]
  cases hc : w.cur with
  | none => simp only [Option.map_none]; rw [Wave.setPc_eq]
  | some p => rfl

@[simp] theorem Wave.wins_setPc (w : Wave) (pc : Word) : (w.setPc pc).wins = w.wins := by
  unfold Wave.wins
  rw [Wave.cur_setPc]
  cases hc : w.cur with
  | none => simp only [Option.map_none]; rw [Wave.setPc_eq]
  | some p => rfl

@[simp] theorem Wave.flight_setPc (w : Wave) (pc : Word) : (w.setPc pc).flight = w.flight := by
  unfold Wave.flight
  rw [Wave.cur_setPc]
  cases hc : w.cur with
  | none => simp only [Option.map_none]; rw [Wave.setPc_eq]
  | some p => rfl


@[simp] theorem Wave.execM_wrS (w : Wave) (n : Nat) (x : RWord) : (w.wrS n x).execM = w.execM := by
  unfold Wave.execM
  rw [Wave.cur_wrS]
  cases hc : w.cur with
  | none => simp only [Option.map_none]; rw [Wave.wrS_eq]
  | some p => simp only [Option.map_some]; split <;> rfl

@[simp] theorem Wave.seedOf_wrS (w : Wave) (n : Nat) (x : RWord) (l : Nat) : (w.wrS n x).seedOf l = w.seedOf l := by
  unfold Wave.seedOf
  rw [Wave.cur_wrS]
  cases hc : w.cur with
  | none => simp only [Option.map_none]; rw [Wave.wrS_eq]
  | some p => simp only [Option.map_some]; split <;> rfl

@[simp] theorem Wave.pcNow_wrS (w : Wave) (n : Nat) (x : RWord) : (w.wrS n x).pcNow = w.pcNow := by
  unfold Wave.pcNow
  rw [Wave.cur_wrS]
  cases hc : w.cur with
  | none => simp only [Option.map_none]; rw [Wave.wrS_eq]
  | some p => simp only [Option.map_some]; split <;> rfl

@[simp] theorem Wave.prevPc_wrS (w : Wave) (n : Nat) (x : RWord) : (w.wrS n x).prevPc = w.prevPc := by
  unfold Wave.prevPc
  rw [Wave.cur_wrS]
  cases hc : w.cur with
  | none => simp only [Option.map_none]; rw [Wave.wrS_eq]
  | some p => simp only [Option.map_some]; split <;> rfl

@[simp] theorem Wave.wins_wrS (w : Wave) (n : Nat) (x : RWord) : (w.wrS n x).wins = w.wins := by
  unfold Wave.wins
  rw [Wave.cur_wrS]
  cases hc : w.cur with
  | none => simp only [Option.map_none]; rw [Wave.wrS_eq]
  | some p => simp only [Option.map_some]; split <;> rfl

@[simp] theorem Wave.flight_wrS (w : Wave) (n : Nat) (x : RWord) : (w.wrS n x).flight = w.flight := by
  unfold Wave.flight
  rw [Wave.cur_wrS]
  cases hc : w.cur with
  | none => simp only [Option.map_none]; rw [Wave.wrS_eq]
  | some p => simp only [Option.map_some]; split <;> rfl

@[simp] theorem Wave.execM_wrV (w : Wave) (n : Nat) (m : Word) (x : VReg) : (w.wrV n m x).execM = w.execM := by
  unfold Wave.execM
  rw [Wave.cur_wrV]
  cases hc : w.cur with
  | none => simp only [Option.map_none]; rw [Wave.wrV_eq]
  | some p => simp only [Option.map_some]; split <;> rfl

@[simp] theorem Wave.seedOf_wrV (w : Wave) (n : Nat) (m : Word) (x : VReg) (l : Nat) : (w.wrV n m x).seedOf l = w.seedOf l := by
  unfold Wave.seedOf
  rw [Wave.cur_wrV]
  cases hc : w.cur with
  | none => simp only [Option.map_none]; rw [Wave.wrV_eq]
  | some p => simp only [Option.map_some]; split <;> rfl

@[simp] theorem Wave.pcNow_wrV (w : Wave) (n : Nat) (m : Word) (x : VReg) : (w.wrV n m x).pcNow = w.pcNow := by
  unfold Wave.pcNow
  rw [Wave.cur_wrV]
  cases hc : w.cur with
  | none => simp only [Option.map_none]; rw [Wave.wrV_eq]
  | some p => simp only [Option.map_some]; split <;> rfl

@[simp] theorem Wave.prevPc_wrV (w : Wave) (n : Nat) (m : Word) (x : VReg) : (w.wrV n m x).prevPc = w.prevPc := by
  unfold Wave.prevPc
  rw [Wave.cur_wrV]
  cases hc : w.cur with
  | none => simp only [Option.map_none]; rw [Wave.wrV_eq]
  | some p => simp only [Option.map_some]; split <;> rfl

@[simp] theorem Wave.wins_wrV (w : Wave) (n : Nat) (m : Word) (x : VReg) : (w.wrV n m x).wins = w.wins := by
  unfold Wave.wins
  rw [Wave.cur_wrV]
  cases hc : w.cur with
  | none => simp only [Option.map_none]; rw [Wave.wrV_eq]
  | some p => simp only [Option.map_some]; split <;> rfl

@[simp] theorem Wave.flight_wrV (w : Wave) (n : Nat) (m : Word) (x : VReg) : (w.wrV n m x).flight = w.flight := by
  unfold Wave.flight
  rw [Wave.cur_wrV]
  cases hc : w.cur with
  | none => simp only [Option.map_none]; rw [Wave.wrV_eq]
  | some p => simp only [Option.map_some]; split <;> rfl

/-! What each update makes of what it writes. -/

theorem Wave.execM_setExec (w : Wave) (m : Word) :
    (w.setExec m).execM = (match w.cur with | some p => m &&& p.lanes &&& ~~~p.faulted | none => m &&& w.place.present) := by
  unfold Wave.execM
  rw [Wave.cur_setExec]
  cases hc : w.cur with
  | none => simp [Wave.setExec, hc]
  | some p => rfl

@[simp] theorem Wave.pcNow_setPc (w : Wave) (pc : Word) : (w.setPc pc).pcNow = pc := by
  unfold Wave.pcNow
  rw [Wave.cur_setPc]
  cases hc : w.cur with
  | none => simp [Wave.setPc, hc]
  | some p => rfl

@[simp] theorem Wave.prevPc_setPc (w : Wave) (pc : Word) : (w.setPc pc).prevPc = w.pcNow := by
  unfold Wave.prevPc Wave.pcNow
  rw [Wave.cur_setPc]
  cases hc : w.cur with
  | none => simp [Wave.setPc, hc]
  | some p => rfl

@[simp] theorem Wave.wins_setWins (w : Wave) (x : List Window) : (w.setWins x).wins = x := by
  unfold Wave.wins
  rw [Wave.cur_setWins]
  cases hc : w.cur with
  | none => simp [Wave.setWins, hc]
  | some p => rfl

@[simp] theorem Wave.flight_setFlight (w : Wave) (x : List Entry) : (w.setFlight x).flight = x := by
  unfold Wave.flight
  rw [Wave.cur_setFlight]
  cases hc : w.cur with
  | none => simp [Wave.setFlight, hc]
  | some p => rfl

theorem Wave.seedOf_setSeeds (w : Wave) (x : List Word) (l : Nat) : (w.setSeeds x).seedOf l = x.getD l 1 := by
  unfold Wave.seedOf
  rw [Wave.cur_setSeeds]
  cases hc : w.cur with
  | none => simp [Wave.setSeeds, hc]
  | some p => rfl

/-! The end of a wait. -/

theorem Wave.endWait_eq (w : Wave) : w.endWait = { w with wait := w.endWait.wait, team := w.endWait.team } := by
  unfold Wave.endWait; split
  · rw [Wave.setCur_eq]
  · split <;> rfl

theorem Wave.cur_endWait (w : Wave) : w.endWait.cur = (w.cur).map (fun p => { p with drain := none, reached := [] }) := by
  unfold Wave.endWait
  cases hc : w.cur with
  | some p => simp [Wave.cur_setCur w _ p hc]
  | none => simp only [Option.map_none]; split <;> exact hc

@[simp] theorem Wave.rdS_endWait (w : Wave) (k : Nat) : w.endWait.rdS k = w.rdS k := by
  unfold Wave.rdS
  rw [Wave.cur_endWait]
  cases hc : w.cur with
  | none => simp only [Option.map_none]; rw [Wave.endWait_eq]
  | some p => simp only [Option.map_some]

@[simp] theorem Wave.rdV_endWait (w : Wave) (k : Nat) : w.endWait.rdV k = w.rdV k := by
  unfold Wave.rdV
  rw [Wave.cur_endWait]
  cases hc : w.cur with
  | none => simp only [Option.map_none]; rw [Wave.endWait_eq]
  | some p => simp only [Option.map_some]; rw [Wave.endWait_eq]

@[simp] theorem Wave.seedOf_endWait (w : Wave) (k : Nat) : w.endWait.seedOf k = w.seedOf k := by
  unfold Wave.seedOf
  rw [Wave.cur_endWait]
  cases hc : w.cur with
  | none => simp only [Option.map_none]; rw [Wave.endWait_eq]
  | some p => simp only [Option.map_some]

@[simp] theorem Wave.pcNow_endWait (w : Wave) : w.endWait.pcNow = w.pcNow := by
  unfold Wave.pcNow
  rw [Wave.cur_endWait]
  cases hc : w.cur with
  | none => simp only [Option.map_none]; rw [Wave.endWait_eq]
  | some p => simp only [Option.map_some]

@[simp] theorem Wave.prevPc_endWait (w : Wave) : w.endWait.prevPc = w.prevPc := by
  unfold Wave.prevPc
  rw [Wave.cur_endWait]
  cases hc : w.cur with
  | none => simp only [Option.map_none]; rw [Wave.endWait_eq]
  | some p => simp only [Option.map_some]

@[simp] theorem Wave.wins_endWait (w : Wave) : w.endWait.wins = w.wins := by
  unfold Wave.wins
  rw [Wave.cur_endWait]
  cases hc : w.cur with
  | none => simp only [Option.map_none]; rw [Wave.endWait_eq]
  | some p => simp only [Option.map_some]

@[simp] theorem Wave.flight_endWait (w : Wave) : w.endWait.flight = w.flight := by
  unfold Wave.flight
  rw [Wave.cur_endWait]
  cases hc : w.cur with
  | none => simp only [Option.map_none]; rw [Wave.endWait_eq]
  | some p => simp only [Option.map_some]

@[simp] theorem Wave.execM_endWait (w : Wave) : w.endWait.execM = w.execM := by
  unfold Wave.execM
  rw [Wave.cur_endWait]
  cases hc : w.cur with
  | none => simp only [Option.map_none]; rw [Wave.endWait_eq]
  | some p => simp only [Option.map_some]

end Sys2Proof.Machine
end

