-- ==== Sys2Proof/Laws/State.lean ====
section
/-! SUPPORT. What each named update of State leaves of each field: one lemma per field, true by definition. -/

namespace Sys2Proof.Machine

@[simp] theorem State.setW_w (s : State) (w : Wave) : (s.setW w).w = w := rfl
@[simp] theorem State.setW_waves (s : State) (w : Wave) : (s.setW w).waves = s.waves := rfl
@[simp] theorem State.setW_gangs (s : State) (w : Wave) : (s.setW w).gangs = s.gangs := rfl
@[simp] theorem State.setW_nextGang (s : State) (w : Wave) : (s.setW w).nextGang = s.nextGang := rfl
@[simp] theorem State.setW_nextId (s : State) (w : Wave) : (s.setW w).nextId = s.nextId := rfl
@[simp] theorem State.setW_inbox (s : State) (w : Wave) : (s.setW w).inbox = s.inbox := rfl
@[simp] theorem State.setW_turn (s : State) (w : Wave) : (s.setW w).turn = s.turn := rfl
@[simp] theorem State.setW_mem (s : State) (w : Wave) : (s.setW w).mem = s.mem := rfl
@[simp] theorem State.setW_cairn (s : State) (w : Wave) : (s.setW w).cairn = s.cairn := rfl
@[simp] theorem State.setW_ecc (s : State) (w : Wave) : (s.setW w).ecc = s.ecc := rfl
@[simp] theorem State.setW_sram (s : State) (w : Wave) : (s.setW w).sram = s.sram := rfl
@[simp] theorem State.setW_clock (s : State) (w : Wave) : (s.setW w).clock = s.clock := rfl
@[simp] theorem State.setW_cores (s : State) (w : Wave) : (s.setW w).cores = s.cores := rfl
@[simp] theorem State.setW_parts (s : State) (w : Wave) : (s.setW w).parts = s.parts := rfl
@[simp] theorem State.setW_slots (s : State) (w : Wave) : (s.setW w).slots = s.slots := rfl
@[simp] theorem State.setW_queues (s : State) (w : Wave) : (s.setW w).queues = s.queues := rfl
@[simp] theorem State.setW_engs (s : State) (w : Wave) : (s.setW w).engs = s.engs := rfl
@[simp] theorem State.setW_clusters (s : State) (w : Wave) : (s.setW w).clusters = s.clusters := rfl
@[simp] theorem State.setW_dev (s : State) (w : Wave) : (s.setW w).dev = s.dev := rfl
@[simp] theorem State.setW_stores (s : State) (w : Wave) : (s.setW w).stores = s.stores := rfl
@[simp] theorem State.setW_remotes (s : State) (w : Wave) : (s.setW w).remotes = s.remotes := rfl
@[simp] theorem State.setW_fresh (s : State) (w : Wave) : (s.setW w).fresh = s.fresh := rfl
@[simp] theorem State.setW_replies (s : State) (w : Wave) : (s.setW w).replies = s.replies := rfl

@[simp] theorem State.setCore_w (s : State) (c : Nat) (x : Core) : (s.setCore c x).w = s.w := rfl
@[simp] theorem State.setCore_waves (s : State) (c : Nat) (x : Core) : (s.setCore c x).waves = s.waves := rfl
@[simp] theorem State.setCore_gangs (s : State) (c : Nat) (x : Core) : (s.setCore c x).gangs = s.gangs := rfl
@[simp] theorem State.setCore_nextGang (s : State) (c : Nat) (x : Core) : (s.setCore c x).nextGang = s.nextGang := rfl
@[simp] theorem State.setCore_nextId (s : State) (c : Nat) (x : Core) : (s.setCore c x).nextId = s.nextId := rfl
@[simp] theorem State.setCore_inbox (s : State) (c : Nat) (x : Core) : (s.setCore c x).inbox = s.inbox := rfl
@[simp] theorem State.setCore_turn (s : State) (c : Nat) (x : Core) : (s.setCore c x).turn = s.turn := rfl
@[simp] theorem State.setCore_mem (s : State) (c : Nat) (x : Core) : (s.setCore c x).mem = s.mem := rfl
@[simp] theorem State.setCore_cairn (s : State) (c : Nat) (x : Core) : (s.setCore c x).cairn = s.cairn := rfl
@[simp] theorem State.setCore_ecc (s : State) (c : Nat) (x : Core) : (s.setCore c x).ecc = s.ecc := rfl
@[simp] theorem State.setCore_sram (s : State) (c : Nat) (x : Core) : (s.setCore c x).sram = s.sram := rfl
@[simp] theorem State.setCore_clock (s : State) (c : Nat) (x : Core) : (s.setCore c x).clock = s.clock := rfl
@[simp] theorem State.setCore_cores (s : State) (c : Nat) (x : Core) : (s.setCore c x).cores = Tab.set s.cores c x := rfl
@[simp] theorem State.setCore_parts (s : State) (c : Nat) (x : Core) : (s.setCore c x).parts = s.parts := rfl
@[simp] theorem State.setCore_slots (s : State) (c : Nat) (x : Core) : (s.setCore c x).slots = s.slots := rfl
@[simp] theorem State.setCore_queues (s : State) (c : Nat) (x : Core) : (s.setCore c x).queues = s.queues := rfl
@[simp] theorem State.setCore_engs (s : State) (c : Nat) (x : Core) : (s.setCore c x).engs = s.engs := rfl
@[simp] theorem State.setCore_clusters (s : State) (c : Nat) (x : Core) : (s.setCore c x).clusters = s.clusters := rfl
@[simp] theorem State.setCore_dev (s : State) (c : Nat) (x : Core) : (s.setCore c x).dev = s.dev := rfl
@[simp] theorem State.setCore_stores (s : State) (c : Nat) (x : Core) : (s.setCore c x).stores = s.stores := rfl
@[simp] theorem State.setCore_remotes (s : State) (c : Nat) (x : Core) : (s.setCore c x).remotes = s.remotes := rfl
@[simp] theorem State.setCore_fresh (s : State) (c : Nat) (x : Core) : (s.setCore c x).fresh = s.fresh := rfl
@[simp] theorem State.setCore_replies (s : State) (c : Nat) (x : Core) : (s.setCore c x).replies = s.replies := rfl

@[simp] theorem State.setPart_w (s : State) (p : Nat) (x : Partn) : (s.setPart p x).w = s.w := rfl
@[simp] theorem State.setPart_waves (s : State) (p : Nat) (x : Partn) : (s.setPart p x).waves = s.waves := rfl
@[simp] theorem State.setPart_gangs (s : State) (p : Nat) (x : Partn) : (s.setPart p x).gangs = s.gangs := rfl
@[simp] theorem State.setPart_nextGang (s : State) (p : Nat) (x : Partn) : (s.setPart p x).nextGang = s.nextGang := rfl
@[simp] theorem State.setPart_nextId (s : State) (p : Nat) (x : Partn) : (s.setPart p x).nextId = s.nextId := rfl
@[simp] theorem State.setPart_inbox (s : State) (p : Nat) (x : Partn) : (s.setPart p x).inbox = s.inbox := rfl
@[simp] theorem State.setPart_turn (s : State) (p : Nat) (x : Partn) : (s.setPart p x).turn = s.turn := rfl
@[simp] theorem State.setPart_mem (s : State) (p : Nat) (x : Partn) : (s.setPart p x).mem = s.mem := rfl
@[simp] theorem State.setPart_cairn (s : State) (p : Nat) (x : Partn) : (s.setPart p x).cairn = s.cairn := rfl
@[simp] theorem State.setPart_ecc (s : State) (p : Nat) (x : Partn) : (s.setPart p x).ecc = s.ecc := rfl
@[simp] theorem State.setPart_sram (s : State) (p : Nat) (x : Partn) : (s.setPart p x).sram = s.sram := rfl
@[simp] theorem State.setPart_clock (s : State) (p : Nat) (x : Partn) : (s.setPart p x).clock = s.clock := rfl
@[simp] theorem State.setPart_cores (s : State) (p : Nat) (x : Partn) : (s.setPart p x).cores = s.cores := rfl
@[simp] theorem State.setPart_parts (s : State) (p : Nat) (x : Partn) : (s.setPart p x).parts = Tab.set s.parts p x := rfl
@[simp] theorem State.setPart_slots (s : State) (p : Nat) (x : Partn) : (s.setPart p x).slots = s.slots := rfl
@[simp] theorem State.setPart_queues (s : State) (p : Nat) (x : Partn) : (s.setPart p x).queues = s.queues := rfl
@[simp] theorem State.setPart_engs (s : State) (p : Nat) (x : Partn) : (s.setPart p x).engs = s.engs := rfl
@[simp] theorem State.setPart_clusters (s : State) (p : Nat) (x : Partn) : (s.setPart p x).clusters = s.clusters := rfl
@[simp] theorem State.setPart_dev (s : State) (p : Nat) (x : Partn) : (s.setPart p x).dev = s.dev := rfl
@[simp] theorem State.setPart_stores (s : State) (p : Nat) (x : Partn) : (s.setPart p x).stores = s.stores := rfl
@[simp] theorem State.setPart_remotes (s : State) (p : Nat) (x : Partn) : (s.setPart p x).remotes = s.remotes := rfl
@[simp] theorem State.setPart_fresh (s : State) (p : Nat) (x : Partn) : (s.setPart p x).fresh = s.fresh := rfl
@[simp] theorem State.setPart_replies (s : State) (p : Nat) (x : Partn) : (s.setPart p x).replies = s.replies := rfl

@[simp] theorem State.setQslot_w (s : State) (n : Nat) (x : QSlot) : (s.setQslot n x).w = s.w := rfl
@[simp] theorem State.setQslot_waves (s : State) (n : Nat) (x : QSlot) : (s.setQslot n x).waves = s.waves := rfl
@[simp] theorem State.setQslot_gangs (s : State) (n : Nat) (x : QSlot) : (s.setQslot n x).gangs = s.gangs := rfl
@[simp] theorem State.setQslot_nextGang (s : State) (n : Nat) (x : QSlot) : (s.setQslot n x).nextGang = s.nextGang := rfl
@[simp] theorem State.setQslot_nextId (s : State) (n : Nat) (x : QSlot) : (s.setQslot n x).nextId = s.nextId := rfl
@[simp] theorem State.setQslot_inbox (s : State) (n : Nat) (x : QSlot) : (s.setQslot n x).inbox = s.inbox := rfl
@[simp] theorem State.setQslot_turn (s : State) (n : Nat) (x : QSlot) : (s.setQslot n x).turn = s.turn := rfl
@[simp] theorem State.setQslot_mem (s : State) (n : Nat) (x : QSlot) : (s.setQslot n x).mem = s.mem := rfl
@[simp] theorem State.setQslot_cairn (s : State) (n : Nat) (x : QSlot) : (s.setQslot n x).cairn = s.cairn := rfl
@[simp] theorem State.setQslot_ecc (s : State) (n : Nat) (x : QSlot) : (s.setQslot n x).ecc = s.ecc := rfl
@[simp] theorem State.setQslot_sram (s : State) (n : Nat) (x : QSlot) : (s.setQslot n x).sram = s.sram := rfl
@[simp] theorem State.setQslot_clock (s : State) (n : Nat) (x : QSlot) : (s.setQslot n x).clock = s.clock := rfl
@[simp] theorem State.setQslot_cores (s : State) (n : Nat) (x : QSlot) : (s.setQslot n x).cores = s.cores := rfl
@[simp] theorem State.setQslot_parts (s : State) (n : Nat) (x : QSlot) : (s.setQslot n x).parts = s.parts := rfl
@[simp] theorem State.setQslot_slots (s : State) (n : Nat) (x : QSlot) : (s.setQslot n x).slots = Tab.set s.slots n x := rfl
@[simp] theorem State.setQslot_queues (s : State) (n : Nat) (x : QSlot) : (s.setQslot n x).queues = s.queues := rfl
@[simp] theorem State.setQslot_engs (s : State) (n : Nat) (x : QSlot) : (s.setQslot n x).engs = s.engs := rfl
@[simp] theorem State.setQslot_clusters (s : State) (n : Nat) (x : QSlot) : (s.setQslot n x).clusters = s.clusters := rfl
@[simp] theorem State.setQslot_dev (s : State) (n : Nat) (x : QSlot) : (s.setQslot n x).dev = s.dev := rfl
@[simp] theorem State.setQslot_stores (s : State) (n : Nat) (x : QSlot) : (s.setQslot n x).stores = s.stores := rfl
@[simp] theorem State.setQslot_remotes (s : State) (n : Nat) (x : QSlot) : (s.setQslot n x).remotes = s.remotes := rfl
@[simp] theorem State.setQslot_fresh (s : State) (n : Nat) (x : QSlot) : (s.setQslot n x).fresh = s.fresh := rfl
@[simp] theorem State.setQslot_replies (s : State) (n : Nat) (x : QSlot) : (s.setQslot n x).replies = s.replies := rfl

@[simp] theorem State.setQueue_w (s : State) (q : Nat) (x : QRun) : (s.setQueue q x).w = s.w := rfl
@[simp] theorem State.setQueue_waves (s : State) (q : Nat) (x : QRun) : (s.setQueue q x).waves = s.waves := rfl
@[simp] theorem State.setQueue_gangs (s : State) (q : Nat) (x : QRun) : (s.setQueue q x).gangs = s.gangs := rfl
@[simp] theorem State.setQueue_nextGang (s : State) (q : Nat) (x : QRun) : (s.setQueue q x).nextGang = s.nextGang := rfl
@[simp] theorem State.setQueue_nextId (s : State) (q : Nat) (x : QRun) : (s.setQueue q x).nextId = s.nextId := rfl
@[simp] theorem State.setQueue_inbox (s : State) (q : Nat) (x : QRun) : (s.setQueue q x).inbox = s.inbox := rfl
@[simp] theorem State.setQueue_turn (s : State) (q : Nat) (x : QRun) : (s.setQueue q x).turn = s.turn := rfl
@[simp] theorem State.setQueue_mem (s : State) (q : Nat) (x : QRun) : (s.setQueue q x).mem = s.mem := rfl
@[simp] theorem State.setQueue_cairn (s : State) (q : Nat) (x : QRun) : (s.setQueue q x).cairn = s.cairn := rfl
@[simp] theorem State.setQueue_ecc (s : State) (q : Nat) (x : QRun) : (s.setQueue q x).ecc = s.ecc := rfl
@[simp] theorem State.setQueue_sram (s : State) (q : Nat) (x : QRun) : (s.setQueue q x).sram = s.sram := rfl
@[simp] theorem State.setQueue_clock (s : State) (q : Nat) (x : QRun) : (s.setQueue q x).clock = s.clock := rfl
@[simp] theorem State.setQueue_cores (s : State) (q : Nat) (x : QRun) : (s.setQueue q x).cores = s.cores := rfl
@[simp] theorem State.setQueue_parts (s : State) (q : Nat) (x : QRun) : (s.setQueue q x).parts = s.parts := rfl
@[simp] theorem State.setQueue_slots (s : State) (q : Nat) (x : QRun) : (s.setQueue q x).slots = s.slots := rfl
@[simp] theorem State.setQueue_queues (s : State) (q : Nat) (x : QRun) : (s.setQueue q x).queues = Tab.set s.queues q x := rfl
@[simp] theorem State.setQueue_engs (s : State) (q : Nat) (x : QRun) : (s.setQueue q x).engs = s.engs := rfl
@[simp] theorem State.setQueue_clusters (s : State) (q : Nat) (x : QRun) : (s.setQueue q x).clusters = s.clusters := rfl
@[simp] theorem State.setQueue_dev (s : State) (q : Nat) (x : QRun) : (s.setQueue q x).dev = s.dev := rfl
@[simp] theorem State.setQueue_stores (s : State) (q : Nat) (x : QRun) : (s.setQueue q x).stores = s.stores := rfl
@[simp] theorem State.setQueue_remotes (s : State) (q : Nat) (x : QRun) : (s.setQueue q x).remotes = s.remotes := rfl
@[simp] theorem State.setQueue_fresh (s : State) (q : Nat) (x : QRun) : (s.setQueue q x).fresh = s.fresh := rfl
@[simp] theorem State.setQueue_replies (s : State) (q : Nat) (x : QRun) : (s.setQueue q x).replies = s.replies := rfl

@[simp] theorem State.setEng_w (s : State) (e : Nat) (x : EngCtx) : (s.setEng e x).w = s.w := rfl
@[simp] theorem State.setEng_waves (s : State) (e : Nat) (x : EngCtx) : (s.setEng e x).waves = s.waves := rfl
@[simp] theorem State.setEng_gangs (s : State) (e : Nat) (x : EngCtx) : (s.setEng e x).gangs = s.gangs := rfl
@[simp] theorem State.setEng_nextGang (s : State) (e : Nat) (x : EngCtx) : (s.setEng e x).nextGang = s.nextGang := rfl
@[simp] theorem State.setEng_nextId (s : State) (e : Nat) (x : EngCtx) : (s.setEng e x).nextId = s.nextId := rfl
@[simp] theorem State.setEng_inbox (s : State) (e : Nat) (x : EngCtx) : (s.setEng e x).inbox = s.inbox := rfl
@[simp] theorem State.setEng_turn (s : State) (e : Nat) (x : EngCtx) : (s.setEng e x).turn = s.turn := rfl
@[simp] theorem State.setEng_mem (s : State) (e : Nat) (x : EngCtx) : (s.setEng e x).mem = s.mem := rfl
@[simp] theorem State.setEng_cairn (s : State) (e : Nat) (x : EngCtx) : (s.setEng e x).cairn = s.cairn := rfl
@[simp] theorem State.setEng_ecc (s : State) (e : Nat) (x : EngCtx) : (s.setEng e x).ecc = s.ecc := rfl
@[simp] theorem State.setEng_sram (s : State) (e : Nat) (x : EngCtx) : (s.setEng e x).sram = s.sram := rfl
@[simp] theorem State.setEng_clock (s : State) (e : Nat) (x : EngCtx) : (s.setEng e x).clock = s.clock := rfl
@[simp] theorem State.setEng_cores (s : State) (e : Nat) (x : EngCtx) : (s.setEng e x).cores = s.cores := rfl
@[simp] theorem State.setEng_parts (s : State) (e : Nat) (x : EngCtx) : (s.setEng e x).parts = s.parts := rfl
@[simp] theorem State.setEng_slots (s : State) (e : Nat) (x : EngCtx) : (s.setEng e x).slots = s.slots := rfl
@[simp] theorem State.setEng_queues (s : State) (e : Nat) (x : EngCtx) : (s.setEng e x).queues = s.queues := rfl
@[simp] theorem State.setEng_engs (s : State) (e : Nat) (x : EngCtx) : (s.setEng e x).engs = Tab.set s.engs e x := rfl
@[simp] theorem State.setEng_clusters (s : State) (e : Nat) (x : EngCtx) : (s.setEng e x).clusters = s.clusters := rfl
@[simp] theorem State.setEng_dev (s : State) (e : Nat) (x : EngCtx) : (s.setEng e x).dev = s.dev := rfl
@[simp] theorem State.setEng_stores (s : State) (e : Nat) (x : EngCtx) : (s.setEng e x).stores = s.stores := rfl
@[simp] theorem State.setEng_remotes (s : State) (e : Nat) (x : EngCtx) : (s.setEng e x).remotes = s.remotes := rfl
@[simp] theorem State.setEng_fresh (s : State) (e : Nat) (x : EngCtx) : (s.setEng e x).fresh = s.fresh := rfl
@[simp] theorem State.setEng_replies (s : State) (e : Nat) (x : EngCtx) : (s.setEng e x).replies = s.replies := rfl

@[simp] theorem State.setCluster_w (s : State) (c : Nat) (x : Cluster) : (s.setCluster c x).w = s.w := rfl
@[simp] theorem State.setCluster_waves (s : State) (c : Nat) (x : Cluster) : (s.setCluster c x).waves = s.waves := rfl
@[simp] theorem State.setCluster_gangs (s : State) (c : Nat) (x : Cluster) : (s.setCluster c x).gangs = s.gangs := rfl
@[simp] theorem State.setCluster_nextGang (s : State) (c : Nat) (x : Cluster) : (s.setCluster c x).nextGang = s.nextGang := rfl
@[simp] theorem State.setCluster_nextId (s : State) (c : Nat) (x : Cluster) : (s.setCluster c x).nextId = s.nextId := rfl
@[simp] theorem State.setCluster_inbox (s : State) (c : Nat) (x : Cluster) : (s.setCluster c x).inbox = s.inbox := rfl
@[simp] theorem State.setCluster_turn (s : State) (c : Nat) (x : Cluster) : (s.setCluster c x).turn = s.turn := rfl
@[simp] theorem State.setCluster_mem (s : State) (c : Nat) (x : Cluster) : (s.setCluster c x).mem = s.mem := rfl
@[simp] theorem State.setCluster_cairn (s : State) (c : Nat) (x : Cluster) : (s.setCluster c x).cairn = s.cairn := rfl
@[simp] theorem State.setCluster_ecc (s : State) (c : Nat) (x : Cluster) : (s.setCluster c x).ecc = s.ecc := rfl
@[simp] theorem State.setCluster_sram (s : State) (c : Nat) (x : Cluster) : (s.setCluster c x).sram = s.sram := rfl
@[simp] theorem State.setCluster_clock (s : State) (c : Nat) (x : Cluster) : (s.setCluster c x).clock = s.clock := rfl
@[simp] theorem State.setCluster_cores (s : State) (c : Nat) (x : Cluster) : (s.setCluster c x).cores = s.cores := rfl
@[simp] theorem State.setCluster_parts (s : State) (c : Nat) (x : Cluster) : (s.setCluster c x).parts = s.parts := rfl
@[simp] theorem State.setCluster_slots (s : State) (c : Nat) (x : Cluster) : (s.setCluster c x).slots = s.slots := rfl
@[simp] theorem State.setCluster_queues (s : State) (c : Nat) (x : Cluster) : (s.setCluster c x).queues = s.queues := rfl
@[simp] theorem State.setCluster_engs (s : State) (c : Nat) (x : Cluster) : (s.setCluster c x).engs = s.engs := rfl
@[simp] theorem State.setCluster_clusters (s : State) (c : Nat) (x : Cluster) : (s.setCluster c x).clusters = Tab.set s.clusters c x := rfl
@[simp] theorem State.setCluster_dev (s : State) (c : Nat) (x : Cluster) : (s.setCluster c x).dev = s.dev := rfl
@[simp] theorem State.setCluster_stores (s : State) (c : Nat) (x : Cluster) : (s.setCluster c x).stores = s.stores := rfl
@[simp] theorem State.setCluster_remotes (s : State) (c : Nat) (x : Cluster) : (s.setCluster c x).remotes = s.remotes := rfl
@[simp] theorem State.setCluster_fresh (s : State) (c : Nat) (x : Cluster) : (s.setCluster c x).fresh = s.fresh := rfl
@[simp] theorem State.setCluster_replies (s : State) (c : Nat) (x : Cluster) : (s.setCluster c x).replies = s.replies := rfl

@[simp] theorem State.setGang_w (s : State) (g : Nat) (x : Gang) : (s.setGang g x).w = s.w := rfl
@[simp] theorem State.setGang_waves (s : State) (g : Nat) (x : Gang) : (s.setGang g x).waves = s.waves := rfl
@[simp] theorem State.setGang_gangs (s : State) (g : Nat) (x : Gang) : (s.setGang g x).gangs = Tab.set s.gangs g x := rfl
@[simp] theorem State.setGang_nextGang (s : State) (g : Nat) (x : Gang) : (s.setGang g x).nextGang = s.nextGang := rfl
@[simp] theorem State.setGang_nextId (s : State) (g : Nat) (x : Gang) : (s.setGang g x).nextId = s.nextId := rfl
@[simp] theorem State.setGang_inbox (s : State) (g : Nat) (x : Gang) : (s.setGang g x).inbox = s.inbox := rfl
@[simp] theorem State.setGang_turn (s : State) (g : Nat) (x : Gang) : (s.setGang g x).turn = s.turn := rfl
@[simp] theorem State.setGang_mem (s : State) (g : Nat) (x : Gang) : (s.setGang g x).mem = s.mem := rfl
@[simp] theorem State.setGang_cairn (s : State) (g : Nat) (x : Gang) : (s.setGang g x).cairn = s.cairn := rfl
@[simp] theorem State.setGang_ecc (s : State) (g : Nat) (x : Gang) : (s.setGang g x).ecc = s.ecc := rfl
@[simp] theorem State.setGang_sram (s : State) (g : Nat) (x : Gang) : (s.setGang g x).sram = s.sram := rfl
@[simp] theorem State.setGang_clock (s : State) (g : Nat) (x : Gang) : (s.setGang g x).clock = s.clock := rfl
@[simp] theorem State.setGang_cores (s : State) (g : Nat) (x : Gang) : (s.setGang g x).cores = s.cores := rfl
@[simp] theorem State.setGang_parts (s : State) (g : Nat) (x : Gang) : (s.setGang g x).parts = s.parts := rfl
@[simp] theorem State.setGang_slots (s : State) (g : Nat) (x : Gang) : (s.setGang g x).slots = s.slots := rfl
@[simp] theorem State.setGang_queues (s : State) (g : Nat) (x : Gang) : (s.setGang g x).queues = s.queues := rfl
@[simp] theorem State.setGang_engs (s : State) (g : Nat) (x : Gang) : (s.setGang g x).engs = s.engs := rfl
@[simp] theorem State.setGang_clusters (s : State) (g : Nat) (x : Gang) : (s.setGang g x).clusters = s.clusters := rfl
@[simp] theorem State.setGang_dev (s : State) (g : Nat) (x : Gang) : (s.setGang g x).dev = s.dev := rfl
@[simp] theorem State.setGang_stores (s : State) (g : Nat) (x : Gang) : (s.setGang g x).stores = s.stores := rfl
@[simp] theorem State.setGang_remotes (s : State) (g : Nat) (x : Gang) : (s.setGang g x).remotes = s.remotes := rfl
@[simp] theorem State.setGang_fresh (s : State) (g : Nat) (x : Gang) : (s.setGang g x).fresh = s.fresh := rfl
@[simp] theorem State.setGang_replies (s : State) (g : Nat) (x : Gang) : (s.setGang g x).replies = s.replies := rfl

@[simp] theorem State.post_w (s : State) (e : Instr) : (s.post e).w = s.w := rfl
@[simp] theorem State.post_waves (s : State) (e : Instr) : (s.post e).waves = s.waves := rfl
@[simp] theorem State.post_gangs (s : State) (e : Instr) : (s.post e).gangs = s.gangs := rfl
@[simp] theorem State.post_nextGang (s : State) (e : Instr) : (s.post e).nextGang = s.nextGang := rfl
@[simp] theorem State.post_nextId (s : State) (e : Instr) : (s.post e).nextId = s.nextId := rfl
@[simp] theorem State.post_inbox (s : State) (e : Instr) : (s.post e).inbox = s.inbox ++ [e] := rfl
@[simp] theorem State.post_turn (s : State) (e : Instr) : (s.post e).turn = s.turn := rfl
@[simp] theorem State.post_mem (s : State) (e : Instr) : (s.post e).mem = s.mem := rfl
@[simp] theorem State.post_cairn (s : State) (e : Instr) : (s.post e).cairn = s.cairn := rfl
@[simp] theorem State.post_ecc (s : State) (e : Instr) : (s.post e).ecc = s.ecc := rfl
@[simp] theorem State.post_sram (s : State) (e : Instr) : (s.post e).sram = s.sram := rfl
@[simp] theorem State.post_clock (s : State) (e : Instr) : (s.post e).clock = s.clock := rfl
@[simp] theorem State.post_cores (s : State) (e : Instr) : (s.post e).cores = s.cores := rfl
@[simp] theorem State.post_parts (s : State) (e : Instr) : (s.post e).parts = s.parts := rfl
@[simp] theorem State.post_slots (s : State) (e : Instr) : (s.post e).slots = s.slots := rfl
@[simp] theorem State.post_queues (s : State) (e : Instr) : (s.post e).queues = s.queues := rfl
@[simp] theorem State.post_engs (s : State) (e : Instr) : (s.post e).engs = s.engs := rfl
@[simp] theorem State.post_clusters (s : State) (e : Instr) : (s.post e).clusters = s.clusters := rfl
@[simp] theorem State.post_dev (s : State) (e : Instr) : (s.post e).dev = s.dev := rfl
@[simp] theorem State.post_stores (s : State) (e : Instr) : (s.post e).stores = s.stores := rfl
@[simp] theorem State.post_remotes (s : State) (e : Instr) : (s.post e).remotes = s.remotes := rfl
@[simp] theorem State.post_fresh (s : State) (e : Instr) : (s.post e).fresh = s.fresh := rfl
@[simp] theorem State.post_replies (s : State) (e : Instr) : (s.post e).replies = s.replies := rfl

@[simp] theorem State.tick_w (s : State) : (s.tick).w = s.w := rfl
@[simp] theorem State.tick_waves (s : State) : (s.tick).waves = s.waves := rfl
@[simp] theorem State.tick_gangs (s : State) : (s.tick).gangs = s.gangs := rfl
@[simp] theorem State.tick_nextGang (s : State) : (s.tick).nextGang = s.nextGang := rfl
@[simp] theorem State.tick_nextId (s : State) : (s.tick).nextId = s.nextId := rfl
@[simp] theorem State.tick_inbox (s : State) : (s.tick).inbox = s.inbox := rfl
@[simp] theorem State.tick_turn (s : State) : (s.tick).turn = s.turn := rfl
@[simp] theorem State.tick_mem (s : State) : (s.tick).mem = s.mem := rfl
@[simp] theorem State.tick_cairn (s : State) : (s.tick).cairn = s.cairn := rfl
@[simp] theorem State.tick_ecc (s : State) : (s.tick).ecc = s.ecc := rfl
@[simp] theorem State.tick_sram (s : State) : (s.tick).sram = s.sram := rfl
@[simp] theorem State.tick_clock (s : State) : (s.tick).clock = s.clock := rfl
@[simp] theorem State.tick_cores (s : State) : (s.tick).cores = s.cores := rfl
@[simp] theorem State.tick_parts (s : State) : (s.tick).parts = s.parts := rfl
@[simp] theorem State.tick_slots (s : State) : (s.tick).slots = s.slots := rfl
@[simp] theorem State.tick_queues (s : State) : (s.tick).queues = s.queues := rfl
@[simp] theorem State.tick_engs (s : State) : (s.tick).engs = s.engs := rfl
@[simp] theorem State.tick_clusters (s : State) : (s.tick).clusters = s.clusters := rfl
@[simp] theorem State.tick_dev (s : State) : (s.tick).dev = s.dev := rfl
@[simp] theorem State.tick_stores (s : State) : (s.tick).stores = s.stores := rfl
@[simp] theorem State.tick_remotes (s : State) : (s.tick).remotes = s.remotes := rfl
@[simp] theorem State.tick_fresh (s : State) : (s.tick).fresh = s.fresh + 1 := rfl
@[simp] theorem State.tick_replies (s : State) : (s.tick).replies = s.replies := rfl

@[simp] theorem State.wrPhys_w (s : State) (a : Nat) (bs : List Byte) : (s.wrPhys a bs).w = s.w := rfl
@[simp] theorem State.wrPhys_waves (s : State) (a : Nat) (bs : List Byte) : (s.wrPhys a bs).waves = s.waves := rfl
@[simp] theorem State.wrPhys_gangs (s : State) (a : Nat) (bs : List Byte) : (s.wrPhys a bs).gangs = s.gangs := rfl
@[simp] theorem State.wrPhys_nextGang (s : State) (a : Nat) (bs : List Byte) : (s.wrPhys a bs).nextGang = s.nextGang := rfl
@[simp] theorem State.wrPhys_nextId (s : State) (a : Nat) (bs : List Byte) : (s.wrPhys a bs).nextId = s.nextId := rfl
@[simp] theorem State.wrPhys_inbox (s : State) (a : Nat) (bs : List Byte) : (s.wrPhys a bs).inbox = s.inbox := rfl
@[simp] theorem State.wrPhys_turn (s : State) (a : Nat) (bs : List Byte) : (s.wrPhys a bs).turn = s.turn := rfl
@[simp] theorem State.wrPhys_mem (s : State) (a : Nat) (bs : List Byte) : (s.wrPhys a bs).mem = Mem.writeN s.mem a bs := rfl
@[simp] theorem State.wrPhys_cairn (s : State) (a : Nat) (bs : List Byte) : (s.wrPhys a bs).cairn = s.cairn := rfl
@[simp] theorem State.wrPhys_ecc (s : State) (a : Nat) (bs : List Byte) : (s.wrPhys a bs).ecc = s.ecc := rfl
@[simp] theorem State.wrPhys_sram (s : State) (a : Nat) (bs : List Byte) : (s.wrPhys a bs).sram = s.sram := rfl
@[simp] theorem State.wrPhys_clock (s : State) (a : Nat) (bs : List Byte) : (s.wrPhys a bs).clock = s.clock := rfl
@[simp] theorem State.wrPhys_cores (s : State) (a : Nat) (bs : List Byte) : (s.wrPhys a bs).cores = s.cores := rfl
@[simp] theorem State.wrPhys_parts (s : State) (a : Nat) (bs : List Byte) : (s.wrPhys a bs).parts = s.parts := rfl
@[simp] theorem State.wrPhys_slots (s : State) (a : Nat) (bs : List Byte) : (s.wrPhys a bs).slots = s.slots := rfl
@[simp] theorem State.wrPhys_queues (s : State) (a : Nat) (bs : List Byte) : (s.wrPhys a bs).queues = s.queues := rfl
@[simp] theorem State.wrPhys_engs (s : State) (a : Nat) (bs : List Byte) : (s.wrPhys a bs).engs = s.engs := rfl
@[simp] theorem State.wrPhys_clusters (s : State) (a : Nat) (bs : List Byte) : (s.wrPhys a bs).clusters = s.clusters := rfl
@[simp] theorem State.wrPhys_dev (s : State) (a : Nat) (bs : List Byte) : (s.wrPhys a bs).dev = s.dev := rfl
@[simp] theorem State.wrPhys_stores (s : State) (a : Nat) (bs : List Byte) : (s.wrPhys a bs).stores = s.stores := rfl
@[simp] theorem State.wrPhys_remotes (s : State) (a : Nat) (bs : List Byte) : (s.wrPhys a bs).remotes = s.remotes := rfl
@[simp] theorem State.wrPhys_fresh (s : State) (a : Nat) (bs : List Byte) : (s.wrPhys a bs).fresh = s.fresh := rfl
@[simp] theorem State.wrPhys_replies (s : State) (a : Nat) (bs : List Byte) : (s.wrPhys a bs).replies = s.replies := rfl

/-! A read of a table by physical address posts at most records (R419). -/

theorem State.physNote_none {s : State} (h : s.ecc = []) (p ctx pa n : Nat) : s.physNote p ctx pa n = s := by
  have e : (List.range n).find? (fun k => s.ecc.contains (pa + k)) = none := by simp [h]
  unfold State.physNote; rw [e]

/-- What a record leaves, such a read leaves. -/
theorem State.physNote_acc {α : Type} (f : State → α) (hf : ∀ s cls p u c a n, f (State.hostError s cls p u c a n) = f s)
    (s : State) (p ctx pa n : Nat) : f (s.physNote p ctx pa n) = f s := by
  unfold State.physNote; split
  · exact hf _ _ _ _ _ _ _
  · rfl

@[simp] theorem State.physNote_w (s : State) (p ctx pa n : Nat) : (s.physNote p ctx pa n).w = s.w :=
  State.physNote_acc State.w (fun _ _ _ _ _ _ _ => rfl) _ _ _ _ _
@[simp] theorem State.physNote_mem (s : State) (p ctx pa n : Nat) : (s.physNote p ctx pa n).mem = s.mem :=
  State.physNote_acc State.mem (fun _ _ _ _ _ _ _ => rfl) _ _ _ _ _
@[simp] theorem State.physNote_waves (s : State) (p ctx pa n : Nat) : (s.physNote p ctx pa n).waves = s.waves :=
  State.physNote_acc State.waves (fun _ _ _ _ _ _ _ => rfl) _ _ _ _ _
@[simp] theorem State.physNote_cores (s : State) (p ctx pa n : Nat) : (s.physNote p ctx pa n).cores = s.cores :=
  State.physNote_acc State.cores (fun _ _ _ _ _ _ _ => rfl) _ _ _ _ _
@[simp] theorem State.physNote_nextId (s : State) (p ctx pa n : Nat) : (s.physNote p ctx pa n).nextId = s.nextId :=
  State.physNote_acc State.nextId (fun _ _ _ _ _ _ _ => rfl) _ _ _ _ _

end Sys2Proof.Machine
end

