-- ==== Sys2Proof/Laws/Issue.lean ====
section
/-! SUPPORT. The laws of issue: what the gate answers, and what each way for an effect to end makes of the state. -/

namespace Sys2Proof.Machine

/-- The parts of `State.clear`. -/
theorem State.clear_iff (s : State) (x : Instr) :
    s.clear x = true ↔ s.w.runs = true ∧ s.w.admits x = true ∧ s.w.lookaheadHit x = none ∧ s.w.due x = []
      ∧ s.w.full x = false ∧ s.w.dueOther x = [] ∧ s.w.jobHits x = [] ∧ s.w.overBound x = none := by
  simp [State.clear, and_assoc]

/-- With nothing in front of it an instruction goes on to its effect. -/
theorem gate_clear {x : Instr} {s : State} (h : s.clear x = true) : gate x s = .go s := by
  obtain ⟨h1, h2, h3, h4, h5, h8, h6, h7⟩ := (State.clear_iff s x).1 h
  have e : s.setW s.w = s := rfl
  have hc : countPending x [] = false := by cases x <;> rfl
  simp [gate, h1, h2, h3, h4, h5, h6, h7, h8, e, hc]

/-- With nothing in front of it the issue of an instruction is its effect. -/
theorem issue_clear {x : Instr} {s : State} {body : State → Res} (h : s.clear x = true) :
    issue x s body = .next (conclude x s (body s)) := by
  simp [issue, gate_clear h]

/-- An instruction that its stream does not admit traps ILLEGAL (R64). -/
theorem gate_illegal {x : Instr} {s : State} (hr : s.w.runs = true) (ha : s.w.admits x = false) :
    gate x s = .trap s { cause := .illegal } := by
  simp [gate, hr, ha]

/-- Every issue of a stream that can execute answers a next state. -/
theorem issue_next {x : Instr} {s : State} {body : State → Res} (hr : s.w.runs = true) :
    ∃ t, issue x s body = .next t := by
  have hd : gate x s ≠ .dead := by
    unfold gate
    simp only [hr, Bool.not_true, Bool.false_eq_true, if_false]
    split
    · simp
    · split
      · simp
      · split
        · simp
        · unfold failedReturn; dsimp only; split <;> (try split) <;> simp
        · split <;> (try split) <;> (try split) <;> (try split) <;> simp
  unfold issue
  split
  · exact absurd ‹_› hd
  · exact ⟨_, rfl⟩
  · exact ⟨_, rfl⟩
  · exact ⟨_, rfl⟩

/-- A helper part remembers nothing of an instruction that has numbered no access. -/
theorem State.owing_same {s t : State} (h : t.nextId = s.nextId) : s.owing t = t := by
  have e : t.w.owe s.nextId s.nextId = t.w := by unfold Wave.owe; split <;> simp
  unfold State.owing; rw [h, e]; split <;> rfl

/-- The part that no lent lanes form is at its boundary. -/
theorem State.lentAtBoundary_none {s : State} {w : Wave} (h : w.lentTo = none) : s.lentAtBoundary w = true := by
  unfold State.lentAtBoundary; rw [h]; rfl

/-- No older result comes before what is no trap. -/
theorem olderTrap_other {s : State} {r : Res} (hr : ∀ t i, r ≠ .trap t i) : olderTrap s r = r := by
  unfold olderTrap; split
  · exact absurd rfl (hr _ _)
  · rfl

/-- Where no older result has met an error nothing comes before a trap. -/
theorem olderTrap_none {s : State} {r : Res} (h : s.w.owedError = none) : olderTrap s r = r := by
  unfold olderTrap; rw [h]; cases r <;> rfl

/-- A stream that lends no lanes leaves no blocking point for them. -/
theorem State.unblocks_none {s : State} {r : Res} (h : s.w.lentTo = none) : s.unblocks r = false := by
  unfold State.unblocks; rw [h]; simp

/-- What a stream that lends no lanes makes of an effect that is no trap. -/
theorem conclude_plain {x : Instr} {s : State} {r : Res} (h : s.w.lentTo = none) (hr : ∀ t i, r ≠ .trap t i) :
    conclude x s r = s.owing (finish x r) := by
  unfold conclude ending
  rw [State.unblocks_none h]
  split
  · contradiction
  · split
    · exact absurd rfl (hr _ _)
    · rw [olderTrap_other hr]; rfl

theorem conclude_done {x : Instr} {s t : State} (h : s.w.lentTo = none) :
    conclude x s (.done t) = s.owing (retire x t.reclaim (t.reclaim.w.pcNow + 12)) := conclude_plain h (by simp)

theorem conclude_jump {x : Instr} {s t : State} {pc : Word} (h : s.w.lentTo = none) :
    conclude x s (.jump t pc) = s.owing (retire x t.reclaim pc) := conclude_plain h (by simp)

theorem conclude_gone {x : Instr} {s t : State} (h : s.w.lentTo = none) : conclude x s (.gone t) = s.owing t.reclaim :=
  conclude_plain h (by simp)

theorem conclude_hold {x : Instr} {s t : State} {k : Wait} (h : s.w.lentTo = none) :
    conclude x s (.hold t k) = s.owing (holdAt t k) := conclude_plain h (by simp)

/-- A trap is taken at once where no result must be written before it (R400) and no older one has met an error (R193). -/
theorem conclude_trap (x : Instr) (s t : State) (i : TrapInfo) (h : s.w.trapWaits = []) (ho : s.w.owedError = none)
    (hl : s.w.lentTo = none) : conclude x s (.trap t i) = s.owing (trapAt x t.reclaim i) := by
  unfold conclude ending
  rw [State.unblocks_none hl, h]
  simp only [Bool.false_eq_true, if_false]
  rw [olderTrap_none ho]
  rfl

/-- A stream that lends nothing takes nothing back. -/
theorem State.reclaim_none {s : State} (h : s.w.lentTo = none) : s.reclaim = s := by
  unfold State.reclaim; rw [h]

/-- Taking lanes back leaves the stream but for what it lends. -/
theorem State.reclaim_w (s : State) : s.reclaim.w = { s.w with lentTo := s.reclaim.w.lentTo } := by
  unfold State.reclaim
  split <;> rfl

end Sys2Proof.Machine
end

