-- ==== Sys2Proof/Laws/Lane.lean ====
section
/-! SUPPORT. The laws of the lane and scalar forms: what writing a result leaves, and what the retiring of an
instruction leaves. -/

namespace Sys2Proof.Machine

theorem laneList_eq : laneList = List.range 32 := by decide
theorem laneList_getElem (l : Nat) (h : l < 32) : laneList[l]? = some l := by
  rw [laneList_eq, List.getElem?_range h]

/-- Retiring leaves the registers. -/
theorem retire_rdS (x : Instr) (s : State) (pc : Word) (n : Nat) : (retire x s pc).w.rdS n = s.w.rdS n := by
  simp [retire]

/-- What the PC, the windows and the wait leave, retiring leaves. -/
theorem retire_acc {α} (f : Wave → α) (h1 : ∀ w pc, f (w.setPc pc) = f w) (h2 : ∀ w y, f (w.setWins y) = f w)
   (h3 : ∀ w : Wave, f w.endWait = f w) (x : Instr) (s : State) (pc : Word) : f (retire x s pc).w = f s.w := by
  unfold retire; dsimp only [State.setW_w]; rw [h1, h3, h2]
theorem setPc_f {α} (f : Wave → α) (h : ∀ w p q r, f { w with pc := p, prev := q, team := r } = f w) (w : Wave) (pc) : f (w.setPc pc) = f w := by
  rw [Wave.setPc_eq]; exact h _ _ _ _
theorem setWins_f {α} (f : Wave → α) (h : ∀ w p r, f { w with windows := p, team := r } = f w) (w : Wave) (y) : f (w.setWins y) = f w := by
  rw [Wave.setWins_eq]; exact h _ _ _

/-! The team outside the part that executes. -/

/-- Replacing the part that executes leaves the rest of the team where it leaves the rest of the part. -/
theorem Wave.teamRest_setCur {w : Wave} {p q : HPart} (h : w.cur = some q) (hp : p.rest = q.rest) :
    (w.setCur p).teamRest = w.teamRest := by
  unfold Wave.cur at h
  unfold Wave.setCur Wave.teamRest
  cases hs : w.sel with
  | none => rw [hs] at h; simp at h
  | some k =>
    cases ht : w.team with
    | none => rw [hs, ht] at h; simp at h
    | some t =>
      rw [hs, ht] at h
      have e : (t.parts.set k p).modify k HPart.rest = t.parts.modify k HPart.rest := by
        apply List.ext_getElem?
        intro i
        rw [List.getElem?_modify, List.getElem?_modify, List.getElem?_set]
        by_cases hi : k = i
        · subst hi
          have hl : k < t.parts.length := by
            rcases Nat.lt_or_ge k t.parts.length with hl | hl
            · exact hl
            · simp [List.getElem?_eq_none hl] at h
          simp only [hl, if_true, Option.map_eq_map, Option.map_some, hp]
          rw [show t.parts[k]? = some q from h]
          rfl
        · simp [hi]
      simp [e]

@[simp] theorem Wave.teamRest_wrV (w : Wave) (n m x) : (w.wrV n m x).teamRest = w.teamRest := by
  unfold Wave.wrV
  split
  · split
    · have h := ‹w.cur = some _›; exact Wave.teamRest_setCur h rfl
    · rfl
  · rfl
@[simp] theorem Wave.teamRest_wrS (w : Wave) (n x) : (w.wrS n x).teamRest = w.teamRest := by
  unfold Wave.wrS
  split
  · rfl
  · split
    · have h := ‹w.cur = some _›; exact Wave.teamRest_setCur h rfl
    · rfl
@[simp] theorem Wave.teamRest_setExec (w : Wave) (m) : (w.setExec m).teamRest = w.teamRest := by
  unfold Wave.setExec
  split
  · have h := ‹w.cur = some _›; exact Wave.teamRest_setCur h rfl
  · rfl
@[simp] theorem Wave.teamRest_setSeeds (w : Wave) (x) : (w.setSeeds x).teamRest = w.teamRest := by
  unfold Wave.setSeeds
  split
  · have h := ‹w.cur = some _›; exact Wave.teamRest_setCur h rfl
  · rfl
@[simp] theorem Wave.teamRest_setPc (w : Wave) (pc) : (w.setPc pc).teamRest = w.teamRest := by
  unfold Wave.setPc
  split
  · have h := ‹w.cur = some _›; exact Wave.teamRest_setCur h rfl
  · rfl
@[simp] theorem Wave.teamRest_setWins (w : Wave) (x) : (w.setWins x).teamRest = w.teamRest := by
  unfold Wave.setWins
  split
  · have h := ‹w.cur = some _›; exact Wave.teamRest_setCur h rfl
  · rfl
@[simp] theorem Wave.teamRest_endWait (w : Wave) : w.endWait.teamRest = w.teamRest := by
  unfold Wave.endWait
  split
  · have h := ‹w.cur = some _›; exact Wave.teamRest_setCur h rfl
  · split <;> rfl

/-- The wait of a stream none of whose parts has the turn ends. -/
theorem Wave.endWait_wait {w : Wave} (h : w.sel = none) : w.endWait.wait = .none := by
  unfold Wave.endWait; rw [Wave.cur_none w h]; simp [h]

/-- A stream none of whose parts has the turn waits no more once its instruction has executed. -/
theorem retire_wait (x : Instr) (s : State) (pc : Word) (h : s.w.sel = none) : (retire x s pc).w.wait = .none := by
  have h1 : (s.w.setWins (s.w.windowsAfter x)).sel = none := by rw [Wave.setWins_eq]; exact h
  unfold retire
  dsimp only [State.setW_w]
  rw [Wave.setPc_eq]
  exact Wave.endWait_wait h1

/-- a wave update that keeps everything but registers -/
structure Keeps (a b : Wave) : Prop where
  str : sameStream a b
  pc : b.pcNow = a.pcNow
  prev : b.prevPc = a.prevPc
  wins : b.wins = a.wins

theorem Keeps.refl (a : Wave) : Keeps a a := ⟨by simp [sameStream, sameUnits], rfl, rfl, rfl⟩
theorem Keeps.trans {a b c : Wave} (h : Keeps a b) (g : Keeps b c) : Keeps a c := by
  obtain ⟨h1, h2, h3, h4⟩ := h
  obtain ⟨g1, g2, g3, g4⟩ := g
  refine ⟨?_, g2.trans h2, g3.trans h3, g4.trans h4⟩
  unfold sameStream sameUnits at *
  simp_all

theorem keeps_wrV (w n m x) : Keeps w (w.wrV n m x) := by
  refine ⟨?_, by simp, by simp, by simp⟩
  have hf : (w.wrV n m x).flight = w.flight := by simp
  have ht := Wave.teamRest_wrV w n m x
  unfold sameStream sameUnits; rw [hf, ht]; rw [Wave.wrV_eq]; simp
theorem keeps_wrS (w n x) : Keeps w (w.wrS n x) := by
  refine ⟨?_, by simp, by simp, by simp⟩
  have hf : (w.wrS n x).flight = w.flight := by simp
  have ht := Wave.teamRest_wrS w n x
  unfold sameStream sameUnits; rw [hf, ht]; rw [Wave.wrS_eq]; simp
theorem keeps_setExec (w x) : Keeps w (w.setExec x) := by
  refine ⟨?_, by simp, by simp, by simp⟩
  have hf : (w.setExec x).flight = w.flight := by simp
  have ht := Wave.teamRest_setExec w x
  unfold sameStream sameUnits; rw [hf, ht]; rw [Wave.setExec_eq]; simp
theorem keeps_setSeeds (w x) : Keeps w (w.setSeeds x) := by
  refine ⟨?_, by simp, by simp, by simp⟩
  have hf : (w.setSeeds x).flight = w.flight := by simp
  have ht := Wave.teamRest_setSeeds w x
  unfold sameStream sameUnits; rw [hf, ht]; rw [Wave.setSeeds_eq]; simp
theorem keeps_cxm (w : Wave) (y) : Keeps w { w with cxm := y } := by
  refine ⟨?_, rfl, rfl, rfl⟩
  unfold sameStream sameUnits; refine ⟨⟨?_,?_,?_,?_,?_,?_⟩, rfl, ?_⟩ <;> simp [Wave.teamRest]
theorem keeps_xsave (w : Wave) (y) : Keeps w { w with xsave := y } := by
  refine ⟨?_, rfl, rfl, rfl⟩
  unfold sameStream sameUnits; refine ⟨⟨?_,?_,?_,?_,?_,?_⟩, rfl, ?_⟩ <;> simp [Wave.teamRest]

theorem keeps_wrScalar (w d k x) : Keeps w (w.wrScalar d k x) := by
  unfold Wave.wrScalar
  split
  · split
    · exact (keeps_wrS _ _ _).trans (keeps_wrS _ _ _)
    · exact keeps_wrS _ _ _
  · dsimp only; split
    · exact keeps_setExec _ _
    · exact keeps_cxm _ _
    · exact keeps_xsave _ _
    · exact keeps_xsave _ _
    · exact keeps_xsave _ _
    · exact keeps_xsave _ _
    · exact Keeps.refl _
  · exact Keeps.refl _
  · exact Keeps.refl _
theorem keeps_wrLanes (w d k m x) : Keeps w (w.wrLanes d k m x) := by
  unfold Wave.wrLanes
  split
  · dsimp only; split
    · exact (keeps_wrV _ _ _ _).trans (keeps_wrV _ _ _ _)
    · exact keeps_wrV _ _ _ _
  · exact keeps_setSeeds _ _
  · exact Keeps.refl _
  · exact Keeps.refl _
theorem keeps_writeLanes (w d k m x) : Keeps w (w.writeLanes d k m x) := by
  unfold Wave.writeLanes
  refine Keeps.trans ?_ (keeps_wrLanes _ _ _ _ _)
  refine Keeps.trans (b := w.advanceSeeds x) ?_ ?_
  · unfold Wave.advanceSeeds; split
    · exact keeps_setSeeds _ _
    · exact Keeps.refl _
  · unfold Wave.noteCauses; split
    · exact Keeps.refl _
    · exact keeps_cxm _ _

theorem retire_stream (x s pc) : sameStream s.w (retire x s pc).w := by
  have hf : (retire x s pc).w.flight = s.w.flight := retire_acc Wave.flight (by simp) (by simp) (by simp) x s pc
  have ht : (retire x s pc).w.teamRest = s.w.teamRest := retire_acc Wave.teamRest (by simp) (by simp) (by simp) x s pc
  unfold sameStream sameUnits; rw [hf, ht]
  refine ⟨⟨?_,?_,?_,?_,?_,?_⟩, rfl, ?_⟩
  all_goals first
    | exact retire_acc _ (fun w pc => by rw [Wave.setPc_eq]) (fun w y => by rw [Wave.setWins_eq]) (fun w => by rw [Wave.endWait_eq]) x s pc
    | skip
  refine ⟨?_, ?_, ?_, ?_, ?_, ?_, ?_, ?_, ?_, ?_, ?_, ?_, ?_, ?_, ?_, ?_, ?_, ?_, ?_, ?_, rfl, ?_⟩
  all_goals exact retire_acc _ (fun w pc => by rw [Wave.setPc_eq]) (fun w y => by rw [Wave.setWins_eq]) (fun w => by rw [Wave.endWait_eq]) x s pc

theorem retire_advanced (x : Instr) (s : State) : (retire x s (s.w.pcNow + 12)).w.pcNow = s.w.pcNow + 12 ∧
   (retire x s (s.w.pcNow + 12)).w.prevPc = s.w.pcNow ∧ (retire x s (s.w.pcNow + 12)).w.wins = s.w.windowsAfter x := by
  simp [retire]

theorem windowsAfter_keeps {a b : Wave} (h : Keeps a b) (x) : b.windowsAfter x = a.windowsAfter x := by
  unfold Wave.windowsAfter; rw [h.wins, h.pc]

theorem writeForm_w (s : State) (g d k r) : (s.writeForm g d k r) = s.setW (s.writeForm g d k r).w := by
  unfold State.writeForm; split <;> rfl
theorem keeps_writeForm (s : State) (g d k r) : Keeps s.w (s.writeForm g d k r).w := by
  unfold State.writeForm; split
  · exact keeps_writeLanes _ _ _ _ _
  · exact keeps_wrScalar _ _ _ _

theorem wrote_of (s t : State) (u : Wave) (g : Guard) (d k r)
  (hv : ∀ m, t.w.rdV m = u.rdV m) (hs : ∀ m, t.w.rdS m = u.rdS m) (he : t.w.execM = u.execM) (hc : t.w.cxm = u.cxm)
  (hx : t.w.xsave = u.xsave) (hsd : ∀ l, t.w.seedOf l = u.seedOf l) (h : wrote s (s.setW u) g d k r) : wrote s t g d k r := by
  unfold wrote sameS sameV sameSpecials at *
  cases d <;> simp only [State.setW_w] at h ⊢ <;> simp only [hv, hs, he, hc, hx, hsd] <;> exact h
theorem marks_of (s t : State) (u : Wave) (g : Guard) (r)
   (hc : t.w.cxm = u.cxm) (hsd : ∀ l, t.w.seedOf l = u.seedOf l) (h : laneMarks s (s.setW u) g r) : laneMarks s t g r := by
  unfold laneMarks at *
  simp only [State.setW_w] at h ⊢; simp only [hc, hsd]; exact h

theorem laneResults_get (m f l) (h : l < 32) : (laneResults m f)[l]? = some (if m.getLsbD l then f l else LaneRes.null) := by
  unfold laneResults; rw [List.getElem?_map, laneList_getElem l h]; rfl
theorem laneResults_getD (m f l) (h : l < 32) : (laneResults m f).getD l LaneRes.null = (if m.getLsbD l then f l else LaneRes.null) := by
  rw [List.getD_eq_getElem?_getD, laneResults_get m f l h]; rfl
theorem resultWord_lane (m f j l) (h : l < 32) (hm : m.getLsbD l = true) : VReg.lane (resultWord (laneResults m f) j) l = valWord (f l).out j := by
  unfold VReg.lane resultWord
  rw [List.getD_eq_getElem?_getD, List.getElem?_map, laneResults_get m f l h, hm]; rfl
theorem laneResults_any (m f) : (laneResults m f).any (fun r => r.seed.isSome) = false → ∀ l, l < 32 → m.getLsbD l = true → (f l).seed = none := by
  intro h l hl hm
  have h1 := List.any_eq_false.1 h (f l) (by
    have := laneResults_get m f l hl
    rw [hm] at this
    exact List.mem_of_getElem? this)
  simpa using h1

theorem advance_seed (w : Wave) (m f l) (h : l < 32) : (w.advanceSeeds (laneResults m f)).seedOf l =
   if m.getLsbD l = true then ((f l).seed).getD (w.seedOf l) else w.seedOf l := by
  unfold Wave.advanceSeeds
  split
  · rw [Wave.seedOf_setSeeds, List.getD_eq_getElem?_getD, List.getElem?_map, laneList_getElem l h]
    simp only [Option.map_some, Option.getD_some]
    rw [laneResults_getD m f l h]
    by_cases hm : m.getLsbD l = true <;> simp [hm, LaneRes.null]
  · rename_i hn
    by_cases hm : m.getLsbD l = true
    · rw [laneResults_any m f (by simpa using hn) l h hm]; simp [hm]
    · simp [hm]

theorem foldl_congr' {α β} (f g : β → α → β) (l : List α) (b) (h : ∀ a ∈ l, ∀ b, f b a = g b a) : l.foldl f b = l.foldl g b := by
  induction l generalizing b with
  | nil => rfl
  | cons a t ih => simp only [List.foldl_cons]; rw [h a (by simp)]; exact ih _ (fun c hc => h c (by simp [hc]))
theorem laneMask_congr (p q : Nat → Bool) (h : ∀ l, l < 32 → p l = q l) : laneMask p = laneMask q := by
  unfold laneMask
  apply foldl_congr'
  intro a ha b
  have : a < 32 := by rw [laneList_eq] at ha; simpa using ha
  rw [h a this]

theorem seedOf_cxm (w : Wave) (y l) : Wave.seedOf { w with cxm := y } l = w.seedOf l := rfl
theorem note_seed (w : Wave) (rs l) : (w.noteCauses rs).seedOf l = w.seedOf l := by unfold Wave.noteCauses; split <;> rfl
theorem note_rdV (w : Wave) (rs l) : (w.noteCauses rs).rdV l = w.rdV l := by unfold Wave.noteCauses; split <;> rfl
theorem note_rdS (w : Wave) (rs l) : (w.noteCauses rs).rdS l = w.rdS l := by unfold Wave.noteCauses; split <;> rfl
theorem note_exec (w : Wave) (rs) : (w.noteCauses rs).execM = w.execM := by unfold Wave.noteCauses; split <;> rfl
theorem note_xsave (w : Wave) (rs) : (w.noteCauses rs).xsave = w.xsave := by unfold Wave.noteCauses; split <;> rfl
theorem adv_rdV (w : Wave) (rs l) : (w.advanceSeeds rs).rdV l = w.rdV l := by unfold Wave.advanceSeeds; split <;> simp
theorem adv_rdS (w : Wave) (rs l) : (w.advanceSeeds rs).rdS l = w.rdS l := by unfold Wave.advanceSeeds; split <;> simp
theorem adv_exec (w : Wave) (rs) : (w.advanceSeeds rs).execM = w.execM := by unfold Wave.advanceSeeds; split <;> simp
theorem adv_xsave (w : Wave) (rs) : (w.advanceSeeds rs).xsave = w.xsave := by unfold Wave.advanceSeeds; split; (rw [Wave.setSeeds_eq]); rfl
theorem adv_cxm (w : Wave) (rs) : (w.advanceSeeds rs).cxm = w.cxm := by unfold Wave.advanceSeeds; split; (rw [Wave.setSeeds_eq]); rfl
theorem adv_sel (w : Wave) (rs) : (w.advanceSeeds rs).sel = w.sel := by unfold Wave.advanceSeeds; split; (rw [Wave.setSeeds_eq]); rfl
theorem wrV_cxm (w : Wave) (n m x) : (w.wrV n m x).cxm = w.cxm := by rw [Wave.wrV_eq]
theorem wrV_xsave (w : Wave) (n m x) : (w.wrV n m x).xsave = w.xsave := by rw [Wave.wrV_eq]
theorem wrS_cxm (w : Wave) (n x) : (w.wrS n x).cxm = w.cxm := by rw [Wave.wrS_eq]
theorem wrS_xsave (w : Wave) (n x) : (w.wrS n x).xsave = w.xsave := by rw [Wave.wrS_eq]
theorem note_cxm (w : Wave) (m f) : (w.noteCauses (laneResults m f)).cxm = if w.sel.isSome then w.cxm
      else w.cxm ||| laneMask (fun l => m.getLsbD l && (f l).cause) := by
  unfold Wave.noteCauses; split
  · rfl
  · dsimp only; congr 1; apply laneMask_congr; intro l hl; rw [laneResults_getD m f l hl]
    by_cases hm : m.getLsbD l = true <;> simp [hm, LaneRes.null]

theorem writeForm_wrote (s : State) (g d k) (r : Nat → LaneRes) (hk : k = 1 ∨ k = 2) (hd : ∀ n, d ≠ .i n)
  (hx : ∀ c, d = .x c → c.toNat ≠ 1 ∧ c.toNat ≠ 27)  :
   wrote s (s.writeForm g d k r) g d k (fun l => (r l).out) ∧ ((∃ n, d = .v n) → laneMarks s (s.writeForm g d k r) g r) := by
  have h12 : ((1 : Nat) = 2) = False := by simp
  unfold State.writeForm
  cases d with
  | i n => exact absurd rfl (hd n)
  | v n =>
    simp only [perLane, if_true]
    constructor
    · refine ⟨?_, ?_, ?_, ?_⟩
      · intro m l hl
        simp only [State.setW_w, Wave.writeLanes, Wave.wrLanes]
        rcases hk with rfl | rfl
        · simp only [h12, if_false, Wave.rdV_wrV _ _ _ _ _ _ hl, note_rdV, adv_rdV, named]
          constructor
          · intro h1 h2
            have : m = n.toNat := by omega
            subst this; simp [h2, resultWord_lane _ _ _ _ hl h2]
          · intro h1
            have : ¬ (m = n.toNat ∧ (s.w.inLanes g).getLsbD l = true) := by
              rintro ⟨rfl, h⟩; exact h1 ⟨⟨by omega, by omega⟩, h⟩
            simp [this]
        · simp only [if_true, Wave.rdV_wrV _ _ _ _ _ _ hl, note_rdV, adv_rdV, named]
          constructor
          · intro h1 h2
            by_cases h3 : m = n.toNat
            · subst h3; simp [h2, resultWord_lane _ _ _ _ hl h2]
            · have : m = n.toNat + 1 := by omega
              subst this; simp [h2, resultWord_lane _ _ _ _ hl h2]
          · intro h1
            have h2 : ¬ (m = n.toNat ∧ (s.w.inLanes g).getLsbD l = true) := by
              rintro ⟨rfl, h⟩; exact h1 ⟨⟨by omega, by omega⟩, h⟩
            have h3 : ¬ (m = n.toNat + 1 ∧ (s.w.inLanes g).getLsbD l = true) := by
              rintro ⟨rfl, h⟩; exact h1 ⟨⟨by omega, by omega⟩, h⟩
            simp [h2, h3]
      · intro m
        simp only [State.setW_w, Wave.writeLanes, Wave.wrLanes]
        split <;> simp [note_rdS, adv_rdS]
      · simp only [State.setW_w, Wave.writeLanes, Wave.wrLanes]
        split <;> simp [note_exec, adv_exec]
      · simp only [State.setW_w, Wave.writeLanes, Wave.wrLanes]
        split <;> simp [wrV_xsave, note_xsave, adv_xsave]
    · intro _
      refine ⟨?_, ?_⟩
      · intro l hl
        simp only [State.setW_w, Wave.writeLanes, Wave.wrLanes]
        split <;> simp only [Wave.seedOf_wrV, note_seed, advance_seed _ _ _ _ hl]
      · simp only [State.setW_w, Wave.writeLanes, Wave.wrLanes]
        split <;> simp only [wrV_cxm, note_cxm, adv_cxm, adv_sel]
  | s n =>
    simp only [perLane, if_false, Bool.false_eq_true]
    constructor
    · refine ⟨?_, ?_, ?_, ?_, ?_, ?_⟩
      · intro m
        simp only [State.setW_w, Wave.wrScalar]
        rcases hk with rfl | rfl
        · simp only [h12, if_false, Wave.rdS_wrS, named]
          constructor
          · intro h1 h2
            have : m = n.toNat := by omega
            subst this; simp [h2]
          · intro h1
            have : ¬ (m = n.toNat ∧ n.toNat ≠ 0) := by
              rintro ⟨rfl, h⟩; exact h1 ⟨⟨by omega, by omega⟩, h⟩
            rw [if_neg this]
        · simp only [if_true, Wave.rdS_wrS, named]
          constructor
          · intro h1 h2
            by_cases h3 : m = n.toNat
            · subst h3; simp [h2]
            · have : m = n.toNat + 1 := by omega
              subst this; simp
          · intro h1
            have h2 : ¬ (m = n.toNat ∧ n.toNat ≠ 0) := by
              rintro ⟨rfl, h⟩; exact h1 ⟨⟨by omega, by omega⟩, h⟩
            have h3 : ¬ (m = n.toNat + 1 ∧ n.toNat + 1 ≠ 0) := by
              rintro ⟨rfl, h⟩; exact h1 ⟨⟨by omega, by omega⟩, h⟩
            rw [if_neg h3, if_neg h2]
      · intro m l
        simp only [State.setW_w, Wave.wrScalar]
        split <;> simp
      · simp only [State.setW_w, Wave.wrScalar]; split <;> simp
      · simp only [State.setW_w, Wave.wrScalar]; split <;> simp [wrS_cxm]
      · intro l hl; simp only [State.setW_w, Wave.wrScalar]; split <;> simp
      · simp only [State.setW_w, Wave.wrScalar]; split <;> simp [wrS_xsave]
    · rintro ⟨m, h⟩; cases h
  | x c =>
    obtain ⟨h1, h27⟩ := hx c rfl
    constructor
    · have hp : perLane (Operand.x c) = decide (c.toNat = 24) := by
        simp only [perLane, specialPerLane]
        have e (k : Nat) (hk : k < 256) : (c == BitVec.ofNat 8 k) = decide (c.toNat = k) := by
          rw [Bool.eq_iff_iff]; simp only [beq_iff_eq, decide_eq_true_eq, ← BitVec.toNat_inj, BitVec.toNat_ofNat]
          omega
        have e1 := e 1 (by omega); have e2 := e 24 (by omega); have e3 := e 27 (by omega)
        simp only [show (0x01 : BitVec 8) = BitVec.ofNat 8 1 from rfl, show (0x18 : BitVec 8) = BitVec.ofNat 8 24 from rfl, show (0x1B : BitVec 8) = BitVec.ofNat 8 27 from rfl, e1, e2, e3, h1, h27]
        simp
      rw [hp]
      by_cases h24 : c.toNat = 24
      · simp only [h24, decide_true, if_true, wrote, State.setW_w, Wave.writeLanes, Wave.wrLanes]
        refine ⟨?_, ?_, ?_, ?_, ?_, ?_, ?_⟩
        · intro m l; simp [note_rdV, adv_rdV]
        · intro m; simp [note_rdS, adv_rdS]
        · simp [note_exec, adv_exec]
        · intro h; exact absurd rfl h
        · rw [Wave.setSeeds_eq]; simp [note_xsave, adv_xsave]
        · intro l hl _
          rw [Wave.seedOf_setSeeds, List.getD_eq_getElem?_getD, List.getElem?_map, laneList_getElem l hl]
          simp only [Option.map_some, Option.getD_some, note_seed, advance_seed _ _ _ _ hl]
          rw [laneResults_getD _ _ l hl]
          by_cases hm : (s.w.inLanes g).getLsbD l = true <;> simp [hm]
        · intro l hl h; exact absurd rfl h
      · simp only [h24, decide_false, Bool.false_eq_true, if_false, wrote, State.setW_w, Wave.wrScalar]
        refine ⟨?_, ?_, ?_, ?_, ?_, ?_, ?_⟩
        · intro m l; split <;> first | rfl | simp
        · intro m; split <;> first | rfl | simp
        · split <;> (try simp_all) <;> rfl
        · intro _; split <;> (try simp_all) ; (try (rw [Wave.setExec_eq]))
        · split
          · rename_i h; simp only [h]; rw [Wave.setExec_eq]; simp
          · rename_i h; simp [h]
          · rename_i h; simp [h]
          · rename_i h; simp [h]
          · rename_i h; simp [h]
          · rename_i h; simp [h]
          · rename_i h1 h2 h3 h4 h5 h6
            have : ¬ (0x4C ≤ c.toNat ∧ c.toNat ≤ 0x4F) := by
              rintro ⟨ha, hb⟩
              have hc : c.toNat = 0x4C ∨ c.toNat = 0x4D ∨ c.toNat = 0x4E ∨ c.toNat = 0x4F := by omega
              rcases hc with hc | hc | hc | hc
              · exact h3 hc
              · exact h4 hc
              · exact h5 hc
              · exact h6 hc
            rw [if_neg this]
        · intro l hl h; exact h.elim
        · intro l hl h; split <;> first | rfl | simp
    · rintro ⟨m, h⟩; cases h

/-- The whole effect of an instruction whose body writes a result to D: nothing stands in front of it, so it executes,
writes and retires. -/
theorem laneEffect_of {x : Instr} {s : State} {g : Guard} {d : Operand} {k : Nat} {r : Nat → LaneRes}
    {body : State → Res} (he : exec x s = issue x s body) (hb : body s = .done (s.writeForm g d k r))
    (hc : s.clear x = true) (hl : s.w.lentTo = none) (hk : k = 1 ∨ k = 2) (hd : ∀ n, d ≠ .i n)
    (hx : ∀ c, d = .x c → c.toNat ≠ 1 ∧ c.toNat ≠ 27) : laneEffect x s g d k r := by
  have hw := keeps_writeForm s g d k r
  have hu : (s.writeForm g d k r).w.lentTo = none := by
    obtain ⟨_, _, _, _, _, _, _, _, _, _, _, _, _, _, _, _, _, _, _, _, h, _⟩ := hw.str
    rw [h, hl]
  have hn : (retire x (s.writeForm g d k r) ((s.writeForm g d k r).w.pcNow + 12)).nextId = s.nextId := by
    unfold retire; rw [writeForm_w]; rfl
  have ht : exec x s = .next (retire x (s.writeForm g d k r) ((s.writeForm g d k r).w.pcNow + 12)) := by
    rw [he, issue_clear hc, hb, conclude_done hl, State.reclaim_none hu, State.owing_same hn]
  obtain ⟨a1, a2, a3⟩ := retire_advanced x (s.writeForm g d k r)
  obtain ⟨w1, w2⟩ := writeForm_wrote s g d k r hk hd hx
  have acc {α : Type} (f : Wave → α) (h1 : ∀ w pc, f (w.setPc pc) = f w) (h2 : ∀ w y, f (w.setWins y) = f w)
      (h3 : ∀ w : Wave, f w.endWait = f w) :=
    retire_acc f h1 h2 h3 x (s.writeForm g d k r) ((s.writeForm g d k r).w.pcNow + 12)
  have rc := acc Wave.cxm (fun w pc => by rw [Wave.setPc_eq]) (fun w y => by rw [Wave.setWins_eq]) (fun w => by rw [Wave.endWait_eq])
  have rs (l : Nat) := acc (fun w => w.seedOf l) (by simp) (by simp) (by simp)
  have e : s.setW (s.writeForm g d k r).w = s.writeForm g d k r := (writeForm_w s g d k r).symm
  refine ⟨_, ht, ?_, ?_, ⟨?_, ?_, ?_, ?_⟩, ?_, ?_⟩
  · unfold sameOutside retire; rw [writeForm_w]; rfl
  · have h2 : Keeps (s.writeForm g d k r).w (s.writeForm g d k r).w := Keeps.refl _
    have h1 := hw.str
    have h3 := retire_stream x (s.writeForm g d k r) ((s.writeForm g d k r).w.pcNow + 12)
    unfold sameStream sameUnits at *
    simp_all
  · rw [a1, hw.pc]
  · rw [a2, hw.pc]
  · rw [a3, windowsAfter_keeps hw]
  · intro hs
    refine retire_wait _ _ _ ?_
    obtain ⟨_, _, _, _, _, _, _, _, _, _, _, _, _, _, _, _, _, _, _, h, _⟩ := hw.str
    rw [h, hs]
  · exact wrote_of s _ (s.writeForm g d k r).w g d k _
      (fun m => acc (fun w => w.rdV m) (by simp) (by simp) (by simp))
      (fun m => acc (fun w => w.rdS m) (by simp) (by simp) (by simp))
      (acc Wave.execM (by simp) (by simp) (by simp)) rc
      (acc Wave.xsave (fun w pc => by rw [Wave.setPc_eq]) (fun w y => by rw [Wave.setWins_eq]) (fun w => by rw [Wave.endWait_eq])) rs
      (by rw [e]; exact w1)
  · intro h
    exact marks_of s _ (s.writeForm g d k r).w g _ rc rs (by rw [e]; exact w2 h)

end Sys2Proof.Machine
end

