-- ==== Sys2Proof/Tests/Slice0.lean ====
section
/-! SUPPORT. The model's own tests: well-formedness, decoding of words written out from the manual's encodings, single
steps, and for every statement a state and operands that meet its hypotheses. -/

namespace Sys2Proof.Tests

open Sys2Proof.Machine

/-! Helpers: a header with no field set, operands of a lane instruction, and the machine with one wave (for a matrix
opcode a belay stream, for a handler instruction a wave in handler mode) whose first page is
mapped, in the first range of its context. -/

def h0 : Hdr := ⟨⟨false, false, 0⟩, 0, false, false⟩
def ln (ty : ElemType) : LaneOp := ⟨h0, .v 1, .v 2, .v 3, ty, .rne⟩
def lu (ty : ElemType) : LaneOp := ⟨h0, .v 1, .v 2, .v 0, ty, .rne⟩
def l64 (ty : ElemType) : LaneOp := ⟨h0, .v 2, .v 4, .v 6, ty, .rne⟩

def one (op : Nat) : State :=
  { State.reset with
    w := placedWave Wave.idle op
    gangs := [(0, placedGang)]
    nextGang := 1
    mem := Mem.writeN (Mem.writeN (Mem.writeN (Mem.writeN (Mem.writeN [] 0x1000 (leBytes 8 (tableEntry 0x2000)))
      0x2000 (leBytes 8 (tableEntry 0x3000))) 0x3000 (leBytes 8 (tableEntry 0x4000))) 0x4000 (leBytes 8 (leafEntry 0x5000)))
      0x8008 (leBytes 8 1)
    parts := [(0, { Partn.reset with ptroot := 0x1000 })]
    dev := { Dev.reset with ctxbase := 0x8000, tvbase := 0x9000 } }

/-- `one` with its stream changed. -/
def tw (s : State) (f : Wave → Wave) : State := { s with w := f s.w }

/-- `s` with scalar register `n` at `x`. -/
def ts (s : State) (n : Nat) (x : RWord) : State := tw s (fun w => w.wrS n x)

/-- `s` with every lane of vector register `n` at `x`. -/
def tv (s : State) (n : Nat) (x : RWord) : State := tw s (fun w => w.wrV n (BitVec.allOnes 32) (VReg.splat x))

/-- The state after an instruction; `s` where it ends in a fault or a refusal. -/
def after (x : Instr) (s : State) : State :=
  match exec x s with
  | .next t => t
  | _ => s

def nothing (s : State) : Bool := s.w.lentTo.isNone && s.w.trapWaits.isEmpty

set_option maxRecDepth 20000

/-! Well-formedness: for each check a term it refuses, beside one that differs in that field alone and passes. -/

/-- Header fields (R48, R56 to R59): a guard on a scalar form, guard fields without GE, LOOK on an instruction that is
not long-latency, a hint for an operand that is no vector register. -/
theorem test_wf_header :
    (∀ x ∈ [Instr.add { ln .i32 with h := ⟨⟨true, false, 3⟩, 0, false, false⟩, d := .s 1, a := .s 2, b := .i 1 },
        .nop ⟨⟨false, true, 0⟩, 0, false, false⟩, .nop ⟨⟨false, false, 1⟩, 0, false, false⟩,
        .nop ⟨⟨true, false, 0⟩, 0, false, false⟩,
        .add { ln .i32 with h := ⟨⟨false, false, 0⟩, 1, false, false⟩ },
        .add { ln .i32 with h := ⟨⟨false, false, 0⟩, 0, true, false⟩, a := .s 2 },
        .add { ln .i32 with h := ⟨⟨false, false, 0⟩, 0, false, true⟩, b := .i 2 },
        .mwait ⟨⟨false, false, 0⟩, 0, true, false⟩ 4 0, .ret ⟨⟨false, false, 0⟩, 0, true, false⟩ 4], x.wf = false)
    ∧ (∀ x ∈ [Instr.add { ln .i32 with h := ⟨⟨true, true, 3⟩, 0, true, true⟩ }, .nop h0,
        .div { ln .i32 with h := ⟨⟨false, false, 0⟩, 1, false, false⟩ }, .mwait h0 4 0], x.wf = true) := by decide

/-- Operands (R49 to R53): a scalar register past s127, an odd pair, an unlisted or unwritable special operand, an
immediate destination, an immediate of a type that admits none, an unused field. -/
theorem test_wf_operands :
    (∀ x ∈ [Instr.add { ln .i32 with a := .s 128 }, .add { ln .i64 with d := .v 2, a := .v 4, b := .v 7 },
        .add { l64 .i64 with d := .v 3 }, .add { ln .i32 with a := .x 0x0E }, .add { ln .i32 with d := .x 1 },
        .add { ln .i32 with d := .i 1 }, .blkup { ln .f32 with a := .i 1 } .e4m3, .not { lu .b32 with b := .v 1 },
        .call h0 128 0, .ret h0 200, .tlread h0 5 (.i 0), .movh h0 (.v 1) 0x10000], x.wf = false)
    ∧ (∀ x ∈ [Instr.add { ln .i32 with a := .s 127 }, .add (l64 .i64), .add { ln .i32 with a := .x 0x0D },
        .blkup (ln .f32) .e4m3, .not (lu .b32), .call h0 127 0, .tlread h0 4 (.i 0), .movh h0 (.v 1) 0xFFFF],
        x.wf = true) := by decide

/-- Typed entries (R54, R55, R105 to R133): a type or relation the entry does not list, RND where nothing rounds, a
lane operand or rst in a scalar form, a mask that is no uniform operand, a slot past the register. -/
theorem test_wf_typed :
    (∀ x ∈ [Instr.add (ln .f32), .abs (lu .n32), .fadd (ln .i32), .and (ln .i32), .dot4 (ln .i16) false,
        .cmp (ln .i32) .un, .cmp (ln .b32) .lt, .add { ln .i32 with rnd := .rz },
        .add { ln .i32 with d := .s 1 }, .fadd { ln .f32 with d := .s 1, a := .s 2, b := .s 3, rnd := .rst },
        .sel (ln .b32) (.i 1), .shfl (ln .b32) .idx (.v 5), .ballot { lu .b32 with a := .s 1, d := .s 4 } (.i 255),
        .redux { lu .i32 with rnd := .rz } .add (.i 255), .scan (lu .f32) .fmin false (.i 255),
        .cvt (lu .b32) .f32, .pack (ln .e4m3) .f32 2, .unpack (lu .f32) .f16 2, .blkpk (lu .e4m3) .f32 3 (.v 5),
        .blkpk (lu .e4m3) .f32 0 (.v 1), .vmask h0 (.x 0x19) 2 false, .v2s { ln .b32 with d := .v 1 },
        .movi h0 (.v 1) .i32 0], x.wf = false)
    ∧ (∀ x ∈ [Instr.add (ln .i32), .abs (lu .i32), .fadd { ln .f32 with rnd := .rst }, .and (ln .b32),
        .cmp (ln .b32) .eq, .sel (ln .b32) (.v 4), .shfl (ln .b32) .idx (.i 255),
        .ballot { lu .b32 with d := .s 4 } (.i 255), .redux (lu .i32) .add (.i 255), .scan (lu .f32) .fadd false (.i 255),
        .cvt (lu .f16) .f32, .pack (ln .e4m3) .f32 1, .unpack (lu .f32) .f16 1, .blkpk (lu .e4m3) .f32 2 (.v 5),
        .vmask h0 (.x 0) 2 false, .v2s { ln .b32 with d := .s 1, b := .i 3 }, .movi h0 (.v 1) .b32 0],
        x.wf = true) := by decide

def ml (d a b : Operand) : MemOp := ⟨h0, true, d, a, b, .i32, .dflt, 0⟩
def al (ty : ElemType) (o : MOrder) : AtomOp := ⟨h0, true, .v 2, .s 2, .v 4, ty, .device, o, 0⟩

/-- Memory entries (R183 to R187, R197): a destination of another class, an odd address pair, a special address, e2m1,
a cache hint or an order the entry reserves, a pairing of operation and type, CB of LDC. -/
theorem test_wf_memory :
    (∀ x ∈ [Instr.ld (ml (.s 1) (.s 2) (.v 2)), .ld (ml (.v 1) (.s 3) (.v 2)), .ld (ml (.v 1) (.x 1) (.v 2)),
        .ld (ml (.v 1) (.s 2) (.i 2)), .ld { ml (.v 1) (.s 2) (.v 2) with ty := .e2m1 }, .st (ml (.x 1) (.s 2) (.v 2)),
        .st { ml (.v 1) (.s 2) (.v 2) with cache := .ro }, .lds (ml (.s 4) (.s 2) (.v 2)), .sts (ml (.v 1) (.s 2) (.s 4)),
        .ldtb (ml (.v 1) (.s 2) (.v 2)) .wb, .ldc { ml (.v 1) (.s 2) (.i 2) with a64 := false } .cb,
        .atom (al .f32 .relaxed) .and, .cas { al .b64 .relaxed with d := .v 2 }, .red (al .i32 .acquire) .add,
        .red (al .b32 .relaxed) .exch, .pref { ml (.v 0) (.s 2) (.v 2) with ty := .b32, cache := .stream },
        .pgreq h0 1 true (.s 3) (.s 0) 0, .bar h0 .wave], x.wf = false)
    ∧ (∀ x ∈ [Instr.ld (ml (.v 1) (.s 2) (.v 2)), .st (ml (.i 1) (.s 2) (.v 2)), .lds (ml (.s 4) (.s 2) (.s 6)),
        .sts (ml (.i 1) (.s 2) (.s 4)), .ldtb { ml (.v 1) (.s 2) (.v 2) with a64 := false } .wb,
        .ldc { ml (.v 1) (.s 2) (.i 2) with a64 := false } .ab, .atom (al .b32 .acqrel) .and, .cas (al .b32 .relaxed),
        .red (al .i32 .release) .add, .pref { ml (.v 0) (.s 2) (.v 2) with ty := .b32 }, .pgreq h0 1 true (.s 2) (.s 0) 0,
        .bar h0 .group], x.wf = true) := by decide

def cp (sk dk : BitVec 2) : CopyOp := ⟨h0, 4, 6, .i 8, sk, dk, false, 0, 0, false, 0, 0, false, false, 0⟩
def mo : MatOp := ⟨h0, 16, 0, false, 0⟩

/-- Engines, the matrix unit and the other units (R220, R239, R279, R296, R304, R320): reserved combinations of COPY, a
layout or a format block past the last register, rst of MCVT, odd pairs, operands of another class. -/
theorem test_wf_units :
    (∀ x ∈ [Instr.copy (cp 3 1), .copy (cp 0 0), .copyIndexed (cp 1 0), .copyChecksum (cp 0 1),
        .copy { cp 0 1 with trn := true }, .copy { cp 0 1 with pbuf := true }, .copy { cp 0 1 with kgm1 := 1 },
        .copy { cp 0 1 with gsl := 1 }, .copy { cp 0 1 with a := 7 }, .copy { cp 0 1 with d := 130 },
        .gset h0 0 (.v 1), .xkick h0 (.v 1) (.i 0), .tlwait h0 (.i 1) (.s 3), .mma mo 126 4 8,
        .mma { mo with fb := 121 } 4 8 12, .mcvt mo 4 8 .rst, .dectab mo 128 0, .mwait h0 128 1,
        .ncall h0 1 2 4 (.x 1) 0 0, .wpin h0 4 (.v 1), .trace h0 1 2 4 5, .trace h0 1 2 4 126,
        .abarr h0 1 (.v 1) (.i 1), .tkwait h0 4 6 (.i 1) .wave, .tkadv h0 4 6 (.i 200) .device, .ctnew h0 4 (.v 1),
        .ctenr h0 4 5 126, .ctread h0 5 4], x.wf = false)
    ∧ (∀ x ∈ [Instr.copy (cp 0 1), .copy { cp 0 2 with trn := true, kgm1 := 1 }, .copyChecksum { cp 0 3 with b := .s 8 },
        .gset h0 0 (.s 1), .xkick h0 (.s 1) (.i 0), .tlwait h0 (.i 1) (.s 2), .mma mo 125 4 8, .mcvt mo 4 8 .rz,
        .dectab mo 127 0, .ncall h0 1 2 4 (.s 1) 0 0, .wpin h0 4 (.s 1), .trace h0 1 2 4 124, .abarr h0 1 (.s 1) (.i 1),
        .tkwait h0 4 6 (.i 1) .group, .tkadv h0 4 6 (.i 127) .device, .ctnew h0 4 (.i 0), .ctenr h0 4 5 124,
        .ctread h0 4 5], x.wf = true) := by decide

/-- Pool, helper and handler instructions (R97, R149, R402), and events of units that do not exist. -/
theorem test_wf_rest :
    (∀ x ∈ [Instr.regrelS h0 128, .waitq h0 128 0, .recruit h0 4 (.v 1) false, .hget h0 (.v 1) (.v 32),
        .hget h0 (.s 8) (.s 1), .hred h0 32 (.v 1) .add .i32 .rne, .hred h0 1 (.v 1) .add .f32 .rne,
        .hred h0 1 (.s 1) .add .i32 .rne, .rqrd h0 (.v 1) (.i 0) 5, .rqrd h0 (.s 1) (.i 0) 6, .rqrd h0 (.v 1) (.i 0) 14,
        .rqwr h0 (.i 0) (.v 1) 5, .rqwr h0 (.i 0) (.v 1) 12, .cxrd h0 4 0x22, .cxwr h0 (.i 1) 0x10, .cxwr h0 (.v 1) 0,
        .rqdel h0 (.v 1), .coreReset 1024, .gridLaunch 16, .convert 1024, .admission 64 0, .rply 8, .qrfr 0 65536,
        .draw 65536, .contextTeardown 4096], x.wf = false)
    ∧ (∀ x ∈ [Instr.regrelS h0 127, .recruit h0 4 (.s 1) false, .hget h0 (.v 1) (.v 31), .hget h0 (.s 7) (.s 1),
        .hred h0 31 (.v 1) .add .i32 .rne, .rqrd h0 (.s 1) (.i 0) 5, .rqrd h0 (.v 1) (.i 0) 13, .rqwr h0 (.i 0) (.s 1) 5,
        .rqwr h0 (.i 0) (.v 1) 11, .cxrd h0 4 0x21, .cxwr h0 (.i 1) 0x0F, .coreReset 1023, .gridLaunch 15, .convert 1023,
        .admission 63 0, .rply 7, .qrfr 7 65535, .contextTeardown 4095], x.wf = true) := by decide

/-! Decoding: words written out from the manual's encodings. -/

/-- A word from its three 32-bit parts, the highest first, as the entries print them. -/
def ww (x2 x1 x0 : Nat) : Except DecodeError Instr := decodeWord (BitVec.ofNat 96 (x2 * 2 ^ 64 + x1 * 2 ^ 32 + x0))

/-- A word from OP, FN, D, A, B and EXT (R48). -/
def wf_ (op fn d a b ext : Nat) : Except DecodeError Instr :=
  decodeWord (BitVec.ofNat 96 (op * 2 ^ 88 + fn * 2 ^ 84 + d * 2 ^ 74 + a * 2 ^ 64 + b * 2 ^ 54 + ext))

/-- Worked encodings of control flow, arithmetic, conversions and the pool. -/
theorem test_decode_streams :
    ww 0x43001802 0x01309085 0x90000000
        = .ok (.ffma ⟨⟨⟨true, true, 9⟩, 0, true, false⟩, .v 6, .v 2, .v 4, .f32, .rz⟩)
    ∧ ww 0x01100105 0 0x0FFFFFF7 = .ok (.braCond h0 (.s 5) 0xFFFFFF7 true)
    ∧ ww 0x62001C01 5 0x86100000 = .ok (.unpack ⟨h0, .v 7, .v 1, .v 0, .f32, .rne⟩ .e4m3 1)
    ∧ ww 0xE0000000 0 4 = .ok (.regrel h0 4)
    ∧ ww 0xEA041800 0 2 = .ok (.pollq h0 6 2)
    ∧ ww 0xF2001300 0 6 = .ok (.rqrd h0 (.v 4) (.i 0) 6)
    ∧ ww 0xF1100000 0 0 = .ok (.tretSkip h0)
    ∧ ww 0xF0000000 0 5 = .ok (.trap h0 5) := by decide

/-- Worked encodings of the copy engine, the engines and the matrix unit. -/
theorem test_decode_engines :
    ww 0xA1000105 0 3 = .ok (.gset h0 3 (.s 5))
    ∧ ww 0xA0040106 0x42000001 0 = .ok (.copy ⟨h0, 0, 6, .s 8, 0, 1, false, 0, 0, false, 0, 0, false, false, 0⟩)
    ∧ ww 0xA3000300 0xC0400000 0 = .ok (.xkick h0 (.i 0) (.i 1))
    ∧ ww 0xA4000300 0xC0400000 0 = .ok (.tlwait h0 (.i 0) (.i 1))
    ∧ ww 0x8F300000 0 0 = .ok (.drain h0 .global)
    ∧ ww 0xB0044114 0x45C00001 0x1000 = .ok (.mma ⟨h0, 8, 0, true, 0⟩ 16 20 23)
    ∧ ww 0xB2044114 0x45C00001 0x1000 = .ok (.mmae ⟨h0, 8, 0, true, 0⟩ 16 20 23)
    ∧ ww 0xB600011A 1 0 = .ok (.dectab ⟨h0, 8, 0, false, 0⟩ 26 0)
    ∧ ww 0xB7040800 0 0x2000 = .ok (.mwait h0 2 1) := by decide

/-- Worked encodings of the neural, ray, render, barrier, ticket and containment instructions. -/
theorem test_decode_units :
    ww 0xC0005008 0x41400000 0x00073003 = .ok (.ncall h0 3 20 8 (.s 5) 7 3)
    ∧ ww 0xC1041109 0 0 = .ok (.wpin h0 4 (.s 9))
    ∧ ww 0xC4005000 0x41000000 1 = .ok (.trace h0 1 20 0 4)
    ∧ ww 0xC4105009 0 1 = .ok (.traceNext h0 1 20 9)
    ∧ ww 0xC5005800 0 0 = .ok (.trend h0 22)
    ∧ ww 0xC6000008 0 0 = .ok (.gemit h0 8)
    ∧ ww 0xC7000000 0 0 = .ok (.gdone h0)
    ∧ ww 0xD1000301 0xC0400000 0 = .ok (.abarr h0 0 (.i 1) (.i 1))
    ∧ ww 0xD2040B00 0 0 = .ok (.abwait h0 0 2 (.i 0))
    ∧ ww 0xD4040104 0xC0400000 0x40000000 = .ok (.tkadv h0 0 4 (.i 1) .device)
    ∧ ww 0xD7041901 0x200 0 = .ok (.ctread ⟨⟨false, false, 0⟩, 2, false, false⟩ 6 1)
    ∧ ww 0xD9041502 0xC0000000 0 = .ok (.ctrepar h0 5 2 (.i 0)) := by decide

/-- One word of each further family, its fields placed as R48, R60 and the entry's row give them. -/
theorem test_decode_fields :
    wf_ 0x10 0 1 2 3 (5 * 2 ^ 31) = .ok (.add (ln .i32))
    ∧ wf_ 0x25 1 1 2 3 0 = .ok (.bfe (ln .b32) true)
    ∧ wf_ 0x30 2 1 2 0x303 (5 * 2 ^ 31) = .ok (.cmp { ln .i32 with b := .i 3 } .lt)
    ∧ wf_ 0x31 0 1 2 3 (0x104 * 2 ^ 8) = .ok (.sel (ln .b32) (.s 4))
    ∧ wf_ 0x37 0 1 0 0 0xFFFFFFF = .ok (.movi h0 (.v 1) .b32 0xFFFFFFF)
    ∧ wf_ 0x60 0 1 2 0 (9 * 2 ^ 31 + 4 * 2 ^ 28 + 11 * 2 ^ 23) = .ok (.cvt { lu .f16 with rnd := .rst } .f32)
    ∧ wf_ 0x74 8 1 2 0 (5 * 2 ^ 31 + 0x3FF * 2 ^ 8) = .ok (.scan (lu .i32) .add true (.i 255))
    ∧ wf_ 0x80 8 1 0x102 2 (5 * 2 ^ 31 + 2 * 2 ^ 28 + 0xFFFFFFC)
        = .ok (.ld { ml (.v 1) (.s 2) (.v 2) with cache := .stream, disp := 0xFFFFFFC })
    ∧ ww 0x80000400 0x42000100 0x11001000
        = .ok (.ld ⟨⟨⟨false, false, 0⟩, 1, false, false⟩, false, .v 1, .v 0, .s 8, .b32, .ro, 0x1001000⟩)
    ∧ ww 0x830C2500 0x40000000 0x01014008 = .ok (.sts ⟨h0, false, .i 9, .s 0, .s 0, .b32, .dflt, 0x1014008⟩)
    ∧ ww 0x88602900 0x40209000 0x49000040
        = .ok (.atom ⟨⟨⟨true, false, 9⟩, 0, false, false⟩, false, .v 10, .s 0, .s 0, .b32, .device, .release, 0x1000040⟩ .exch)
    ∧ ww 0x71041403 0 0x20000 = .ok (.ballot { lu .b32 with d := .s 5, a := .v 3 } (.x 0))
    ∧ ww 0xE7041400 0 0 = .ok (.hjoin h0 5)
    ∧ wf_ 0x86 1 1 2 0x301 (5 * 2 ^ 31) = .ok (.ldc { ml (.v 1) (.v 2) (.i 1) with a64 := false } .ab)
    ∧ wf_ 0x88 14 2 0x102 4 (4 * 2 ^ 28 + 3 * 2 ^ 26) = .ok (.atom (al .b32 .acqrel) .exch)
    ∧ wf_ 0x8B 2 0 0 0 (2 * 2 ^ 28) = .ok (.fence h0 .rel .gang)
    ∧ wf_ 0xE6 1 5 3 0 (5 * 2 ^ 31) = .ok (.hred h0 5 (.v 3) .min .i32 .rne) := by decide

/-- The bytes of a word in memory order (R48), with what follows them. -/
theorem test_decode_bytes :
    decode [0, 0, 0, 0x90, 0x85, 0x90, 0x30, 0x01, 0x02, 0x18, 0x00, 0x43, 0xAA]
      = .ok (.ffma ⟨⟨⟨true, true, 9⟩, 0, true, false⟩, .v 6, .v 2, .v 4, .f32, .rz⟩, [0xAA]) := by decide

/-- What no instruction has (R48, R64, R67): reserved opcodes, functions and codes, a bit in a reserved or unused
field, too few bytes. -/
theorem test_decode_refuses :
    wf_ 0x90 0 0 0 0 0 = .error .opcode ∧ wf_ 0x10 1 1 2 3 (5 * 2 ^ 31) = .error .function
    ∧ wf_ 0x10 0 1 2 3 (19 * 2 ^ 31) = .error .code ∧ wf_ 0x00 0 0 0 0 (2 ^ 36) = .error .field
    ∧ wf_ 0x00 0 1 0 0 0 = .error .field ∧ wf_ 0x08 0 0 0 0 (6 * 2 ^ 28) = .error .code
    ∧ wf_ 0x10 0 1 2 3 (11 * 2 ^ 31) = .error .operand ∧ decode (List.replicate 11 0) = .error .tooShort := by decide

/-- The interface of the host reads a word of zeros as NOP, and places it where the next step runs it. -/
theorem test_fetch_word : decodeTableWord 96 0 = some (.nop h0)
    ∧ (State.reset.withFetchWord 96 0).turn = [(⟨0, 0, 0⟩, none)]
    ∧ (State.reset.withFetchWord 96 0).fetch = .bytes (List.replicate 12 0) := by decide

/-! Lane instructions: states that meet the hypotheses of the statements, and single results from the rules. -/

/-- IntegerLaneResults. -/
theorem test_ready_integer : (one 0).w.lentTo = none ∧ ∀ x ∈
    [Instr.add (ln .i32), .sub (ln .n32), .mul (l64 .i64), .mulhi (ln .i32), .mad (ln .i32), .min (ln .i32),
      .max (l64 .n64), .abs (lu .i32), .neg (lu .i32), .addsat (ln .i8) true, .and (ln .b32), .or (ln .b32),
      .xor (l64 .b64), .andn (ln .b32), .not (lu .b32), .shl (ln .b32), .shr (ln .b32), .sar (ln .b32),
      .rot (ln .b32) false, .bfe (ln .b32) true, .bfi (ln .b32), .popc (lu .b32), .clz (lu .b32), .ctz (lu .b32),
      .brev (lu .b32), .pfxpop (ln .b32), .isect (ln .b32), .bclr (ln .b32) false, .bclr (lu .b32) true,
      .dot4 (ln .i8) false], (one 0).clear x = true := by decide

/-- CompareAndMoveResults, FloatLaneResults, ConversionResults and LongLatencyLaneResults. -/
theorem test_ready_lanes : ∀ x ∈
    [Instr.cmp (ln .i32) .lt, .fcmp (ln .f32) .un, .setv (lu .b32), .mkv (ln .b32), .inv (lu .b32), .isv (lu .b32),
      .mov (lu .b32), .sel (ln .b32) (.v 4), .movi h0 (.v 2) .b64 3, .movi h0 (.s 1) .b32 3, .movh h0 (.v 1) 3,
      .fadd (ln .f32), .fsub (ln .f16), .fmul (ln .bf16), .ffma (ln .f32), .fmin (ln .f32), .fmax (ln .f32),
      .fabs (lu .f32), .fneg (lu .f32), .fclass (lu .f32), .fdp4 (ln .e4m3), .frnd (lu .f32),
      .cvt (lu .f16) .f32, .pack (ln .e4m3) .f32 1, .unpack (lu .f32) .e4m3 1, .blkup (ln .f32) .e4m3,
      .blkpk (lu .e4m3) .f32 0 (.v 5),
      .div (ln .i32), .rem (ln .i32), .fdiv (ln .f32), .fsqrt (lu .f32), .frcp (lu .f32), .frsq (lu .f32), .fexp2 (lu .f32),
      .flog2 (lu .f32), .fsin (lu .f32), .fcos (lu .f32), .ftanh (lu .f32)],
    (one 0).clear x = true ∧ (one 0).w.lentTo = none := by decide

/-- The clauses of BLKPK: a data register beside the scale register, and lanes that act and lanes that do not. -/
theorem test_ready_blkpk :
    let s := tw (one 0) (fun w => (w.wrV 2 1 (VReg.splat ⟨0x3F800000, true⟩)))
    let act := laneMask (fun l => (s.w.inLanes h0.guard).getLsbD l && (s.rdOp .f32 1 (.v 2) l).valid)
    s.clear (.blkpk (lu .e4m3) .f32 0 (.v 5)) = true ∧ act = 1 := by decide

def noEntry : Entry := ⟨1, 0, 0, false, .waiting, 0, 0, [], [], [], [], [], 0, 0⟩

/-- LandingWritesDestinations: an entry for a vector and one for a scalar register. -/
theorem test_landing :
    let e (d : Reg) : Entry := { noEntry with dests := [d], res := [VReg.splat ⟨7, true⟩], wlanes := 1 }
    VReg.lane ((landEntry (one 0).w (e (.v 3))).rdV 3) 0 = ⟨7, true⟩
      ∧ VReg.lane ((landEntry (one 0).w (e (.v 3))).rdV 3) 1 = RWord.none
      ∧ (landEntry (one 0).w (e (.s 3))).rdS 3 = ⟨7, true⟩ ∧ (landEntry (one 0).w (e (.s 0))).rdS 0 = RWord.zero := by
  decide

/-- LandingWritesDestinations: a pair of either class, and the words of CAS of 32 and of 64 bits. -/
theorem test_landing_pairs :
    let word (n : Nat) : VReg := VReg.splat ⟨BitVec.ofNat 32 n, true⟩
    let e (ds : List Reg) : Entry := { noEntry with dests := ds, res := (List.range ds.length).map (fun k => word (7 + k)), wlanes := 1 }
    let v (ds : List Reg) (n : Nat) : RWord := VReg.lane ((landEntry (one 0).w (e ds)).rdV n) 0
    (∀ ds ∈ [[Reg.v 2, .v 3], [.s 2, .s 3], [.v 2, .v 3, .v 4]], (e ds).dests.Nodup ∧ (e ds).dests.length = (e ds).res.length)
      ∧ (v [.v 2, .v 3] 2, v [.v 2, .v 3] 3, v [.v 2, .v 3] 4) = (⟨7, true⟩, ⟨8, true⟩, RWord.none)
      ∧ (landEntry (one 0).w (e [.s 2, .s 3])).rdS 3 = ⟨8, true⟩ ∧ v [.v 2, .v 3, .v 4] 4 = ⟨9, true⟩
      ∧ writes (.cas ⟨h0, true, .v 2, .s 2, .v 4, .b64, .device, .relaxed, 0⟩) = [.v 2, .v 3, .v 4] := by decide

/-- CrossLaneResults: every instruction ready, an invalid mask, a lane outside the mask, and a mask of every lane. -/
theorem test_ready_cross :
    (∀ k ∈ [Operand.s 5, .i 1, .i 255], ∀ x ∈
      [Instr.shfl (ln .b32) .up k, .ballot { lu .b32 with d := .s 4 } k, .vote (lu .b32) .any k, .redux (lu .i32) .add k,
        .scan (lu .i32) .add true k, .matchLanes (lu .b32) k, .firstl (lu .b32) k],
      (ts (one 0) 5 RWord.none).clear x = true)
    ∧ (ts (one 0) 5 RWord.none).plain
    ∧ ((ts (one 0) 5 RWord.none).rdW (.s 5)).valid = false
    ∧ (one 0).w.inLanes h0.guard &&& ~~~(((one 0).rdW (.i 1)).bits.setWidth 32) ≠ 0
    ∧ (one 0).w.inLanes h0.guard &&& ~~~(((one 0).rdW (.i 255)).bits.setWidth 32) = 0
    ∧ (one 0).clear (.v2s { lu .b32 with d := .s 4, b := .i 3 }) = true
    ∧ (one 0).clear (.v2s { lu .b32 with d := .s 4, a := .s 3 }) = true := by
  unfold State.plain; decide

/-- A sum wraps, a saturated one does not (R110); a shift by the width gives 0 (R112); 64-bit words carry (R51). -/
theorem test_integer_results :
    let s := tv (tv (one 0) 2 ⟨0xFFFFFFFF, true⟩) 3 ⟨32, true⟩
    VReg.lane ((after (.add (ln .i32)) s).w.rdV 1) 31 = ⟨31, true⟩
    ∧ VReg.lane ((after (.addsat (ln .n32) false) s).w.rdV 1) 0 = ⟨0xFFFFFFFF, true⟩
    ∧ VReg.lane ((after (.shl (ln .b32)) s).w.rdV 1) 0 = ⟨0, true⟩
    ∧ VReg.lane ((after (.sar (ln .b32)) s).w.rdV 1) 0 = ⟨0xFFFFFFFF, true⟩
    ∧ VReg.lane ((after (.mulhi (ln .i32)) s).w.rdV 1) 0 = ⟨0xFFFFFFFF, true⟩
    ∧ VReg.lane ((after (.mulhi (ln .n32)) s).w.rdV 1) 0 = ⟨31, true⟩
    ∧ VReg.lane ((after (.bfe (ln .b32) true) (tv s 3 ⟨0x0408, true⟩)).w.rdV 1) 0 = ⟨0xFFFFFFFF, true⟩
    ∧ VReg.lane ((after (.add (l64 .i64)) (tv (tv (tv (tv s 4 ⟨0xFFFFFFFF, true⟩) 5 ⟨0, true⟩) 6 ⟨1, true⟩) 7 ⟨0, true⟩)).w.rdV 3) 0
      = ⟨1, true⟩ := by decide

/-- An invalid operand nullifies (R90); a guarded-off lane keeps its word (R91); a false condition is 0, invalid (R89). -/
theorem test_validity :
    let s := tv (tv (one 0) 2 ⟨4, true⟩) 1 ⟨9, true⟩
    VReg.lane ((after (.add (ln .i32)) s).w.rdV 1) 0 = ⟨0, false⟩
    ∧ VReg.lane ((after (.add { ln .i32 with h := ⟨⟨true, false, 3⟩, 0, false, false⟩, b := .i 1 }) s).w.rdV 1) 0 = ⟨9, true⟩
    ∧ VReg.lane ((after (.add { ln .i32 with h := ⟨⟨true, true, 3⟩, 0, false, false⟩, b := .i 1 }) s).w.rdV 1) 0 = ⟨5, true⟩
    ∧ VReg.lane ((after (.cmp { ln .i32 with b := .i 3 } .lt) s).w.rdV 1) 0 = ⟨0, false⟩
    ∧ VReg.lane ((after (.cmp { ln .i32 with b := .i 5 } .lt) s).w.rdV 1) 0 = ⟨1, true⟩ := by decide

/-- 1.0 + 1.0, the difference of equal numbers, and the f32 nearest to 1/3 (R77, R118 to R120). -/
theorem test_float_results :
    let s := tv (tv (one 0) 2 ⟨0x3F800000, true⟩) 3 ⟨0x3F800000, true⟩
    VReg.lane ((after (.fadd (ln .f32)) s).w.rdV 1) 0 = ⟨0x40000000, true⟩
    ∧ VReg.lane ((after (.fsub (ln .f32)) s).w.rdV 1) 0 = ⟨0, true⟩
    ∧ (((after (.fdiv (ln .f32)) (tv s 3 ⟨0x40400000, true⟩)).w.flight.headD noEntry).res.getD 0 VReg.start).getD 0 RWord.none
      = ⟨0x3EAAAAAB, true⟩ := by decide

/-- Division's corners (R111): the hypotheses of each clause of DivisionValues, at their boundaries. -/
theorem test_division :
    let v (x : Nat) : Val := ⟨BitVec.ofNat 64 x, true⟩
    (divF .i32 0 (v 7) (v 0) (v 0)).out = ⟨0, false⟩
    ∧ (divF .i32 0 (v 0x80000000) (v 0xFFFFFFFF) (v 0)).out = v 0x80000000
    ∧ (remF .i32 0 (v 0x80000000) (v 0xFFFFFFFF) (v 0)).out = v 0
    ∧ (divF .i32 0 (v 0xFFFFFFF9) (v 2) (v 0)).out = v 0xFFFFFFFD
    ∧ (remF .i32 0 (v 0xFFFFFFF9) (v 2) (v 0)).out = v 0xFFFFFFFF
    ∧ (divF .n32 0 (v 0xFFFFFFFF) (v 1) (v 0)).out = v 0xFFFFFFFF := by decide

/-- BitAndFieldValues and ConditionWords: the first set bit at either end and none, and a NaN operand. -/
theorem test_bits_and_nan :
    (∀ j, j < 31 → (0x80000000 : BitVec 32).getLsbD j = false) ∧ (0x80000000 : BitVec 32).getLsbD 31 = true
    ∧ (∀ j, j < 32 → (0 : BitVec 32).getMsbD j = false)
    ∧ (ctzF .b32 0 ⟨0, true⟩ ⟨0, true⟩ ⟨0, true⟩).out = ⟨32, true⟩
    ∧ (clzF .b32 0 ⟨1, true⟩ ⟨0, true⟩ ⟨0, true⟩).out = ⟨31, true⟩
    ∧ decodeElem .f32 0x7FC00000 = .nan ∧ decodeElem .f16 0x7E00 = .nan ∧ decodeElem .bf16 0x7FC0 = .nan := by decide

/-- FloatLaneResults, LongLatencyLaneResults and ConditionWords: an infinity, a zero and a number of each sort, ordered and equal
ones, and the limit of 64 bits. -/
theorem test_float_classes :
    let fin (y : XVal) (neg zero : Bool) : Bool := match y with | .fin n k _ => n == neg && (k == 0) == zero | _ => false
    (∀ q ∈ [(ElemType.f32, 0x7F800000, 0x3F800000), (.f16, 0x7C00, 0x3C00), (.bf16, 0x7F80, 0x3F80)],
      decodeElem q.1 q.2.1 = .inf false ∧ fin (decodeElem q.1 q.2.2) false false = true ∧ fin (decodeElem q.1 0) false true = true)
    ∧ fin (decodeElem .f32 0x80000000) true true = true
    ∧ (let v (x : Nat) : Val := ⟨BitVec.ofNat 64 x, true⟩
       (fcmpF .f32 .eq 0 (v 0x80000000) (v 0) (v 0)).out = v 1 ∧ (fcmpF .f32 .lt 0 (v 0x3F800000) (v 0x7F800000) (v 0)).out = v 1
        ∧ (cmpF .i64 .lt 0 (v 0x8000000000000000) (v 0) (v 0)).out = v 1
        ∧ (cmpF .n64 .lt 0 (v 0x8000000000000000) (v 0) (v 0)).out = ⟨0, false⟩) := by decide

/-! Control flow and memory. -/

/-- BranchesGoWhereTheySay, ValidityMask: every form ready; BRU with no lane, agreeing lanes and a differing lane. -/
theorem test_ready_branches :
    (∀ x ∈ [Instr.nop h0, .bra h0 5, .braCond h0 (.s 5) 3 true, .braCond h0 (.s 5) 3 false, .brv h0 2 1 .any,
        .brv h0 2 1 .all, .brv h0 2 1 .none, .ret h0 5, .jmpi h0 5 (.i 2), .call h0 5 1, .bru h0 2 1 false, .bruReg h0 2,
        .vmask h0 (.s 4) 2 true, .vmask h0 (.x 0) 2 false], (one 0).clear x = true)
    ∧ (one 0).plain ∧ (tw (one 0) (fun w => w.setExec 0)).clear (.bru h0 2 1 false) = true
    ∧ (tw (one 0) (fun w => w.setExec 0)).w.execM = 0
    ∧ (let s := tw (one 0) (fun w => w.wrV 2 2 (VReg.splat ⟨24, true⟩))
       s.clear (.bru h0 2 1 false) = true ∧ s.w.place.bruFree = false ∧ lanesOf s.w.execM = 0 :: (List.range 31).map (· + 1)
        ∧ laneMask (fun l => s.w.execM.getLsbD l && (VReg.lane (s.w.rdV 2) l).valid != (VReg.lane (s.w.rdV 2) 0).valid) = 2
        ∧ laneMask (fun l => s.w.execM.getLsbD l && decide (VReg.lane (s.w.rdV 2) l ≠ VReg.lane (s.w.rdV 2) 0)) = 2) := by
  unfold State.plain; decide

/-- Targets (R61, R135 to R141): 12 bytes for each step of the offset, both ways. -/
theorem test_branch_targets :
    let s := tw (one 0) (fun w => { w with pc := 0xE4 })
    (after (.bra h0 0xFFFFFF7) s).w.pc = 0x78 ∧ (after (.braCond h0 (.s 5) 2 true) (ts s 5 ⟨0, true⟩)).w.pc = 0xF0
    ∧ (after (.braCond h0 (.s 5) 2 false) (ts s 5 ⟨0, true⟩)).w.pc = 0xFC
    ∧ (after (.braCond h0 (.s 5) 2 false) (ts s 5 ⟨0, false⟩)).w.pc = 0xF0
    ∧ (after (.call h0 5 1) s).w.rdS 5 = ⟨0xF0, true⟩ ∧ (after (.ret h0 5) (ts s 5 ⟨0x30, true⟩)).w.pc = 0x30
    ∧ (after (.jmpi h0 5 (.i 2)) (ts s 5 ⟨0x30, true⟩)).w.pc = 0x48
    ∧ (after (.vmask h0 (.s 4) 2 true) s).w.rdS 4 = ⟨0xFFFFFFFF, true⟩ := by decide

def two : State := { one 0 with waves := [{ (one 0).w with id := ⟨0, 0, 1⟩, slot := 1 }] }

/-- BarrierYieldAndHalt: the only wave of a group, the first of two, no yield request and one, and a wave that halts. -/
theorem test_barrier_yield_halt :
    (∀ s ∈ [one 0, two], s.clear (.bar h0 .group) = true ∧ s.w.wait = .none ∧ s.w.lentTo = none
        ∧ s.sendWaveLines.grp? 0 0 = some placedGrp ∧ s.sendWaveLines.releaseIds .group = []
        ∧ s.sendWaveLines.remoteErr true .group = none)
    ∧ (one 0).sendWaveLines.barFull 0 0 [0] = true ∧ two.sendWaveLines.barFull 0 0 [0] = false
    ∧ (one 0).clear (.yield h0) = true ∧ ((one 0).qslot (one 0).w.place.qslot).yreq = false
    ∧ ({ one 0 with slots := [(0, { QSlot.reset with yreq := true })] }.qslot 0).yreq = true
    ∧ (one 0).clear (.halt h0) = true ∧ (one 0).w.belay = false ∧ (one 0).w.team = none ∧ (one 0).w.errs = []
    ∧ (after (.halt h0) (one 0)).w.halted = true ∧ (after (.bar h0 .group) (one 0)).w.pc = 12
    ∧ (after (.bar h0 .group) two).w.wait = .bar 0 := by decide

/-- One lane, and the address 0x10: in the page; 0x1000 is in no range. -/
def lane1 : State := tw (one 0) (fun w => w.setExec 1)
def m0 (t : ElemType) (d : Operand) : MemOp := ⟨h0, true, d, .s 2, .s 4, t, .dflt, 0x10⟩
def a0 (t : ElemType) (d : Operand) : AtomOp := ⟨h0, true, d, .s 2, .s 4, t, .device, .relaxed, 0x10⟩

def planOk (s : State) (f : AddrForm) (n : Nat) (write : Bool) : Bool :=
  match s.plan (s.va f) 1 n write with
  | .ok as =>
    let u := s.sendReached as
    let c := u.settleFence.reachLoad (requestLines as false)
    (u.blockers write as).isEmpty && s.w.reached.isEmpty && !as.any (fun a => a.localIas.any (u.part s.w.place.part).held)
      && !c.2.any (c.1.lineWaits s.w.place.part)
  | .fault _ _ => false

def planBad (s : State) (f : AddrForm) (n : Nat) (write : Bool) : Bool :=
  match s.plan (s.va f) 1 n write with
  | .ok _ => false
  | .fault _ _ => true

/-- GlobalLoadsIssue, ScalarLoadReadsMemory, GlobalStoresComplete and ScalarStoreWritesItsBytes. -/
theorem test_ready_memory :
    (∀ x ∈ [Instr.ld (m0 .i32 (.v 1)), .lds (m0 .i32 (.s 6)), .st (m0 .i32 (.i 5)), .sts (m0 .i32 (.i 5))],
        lane1.clear x = true)
    ∧ lane1.plain ∧ lane1.memAct h0.guard (memForm (m0 .i32 (.v 1))) (fun _ => true) = 1
    ∧ planOk lane1 (memForm (m0 .i32 (.v 1))) 4 false = true ∧ planOk lane1 (memForm (m0 .i32 (.v 1))) 4 true = true
    ∧ (∀ w ∈ [false, true], planBad lane1 (memForm { m0 .i32 (.v 1) with disp := 0xFFD }) 4 w = true)
    ∧ lane1.addrValid (memForm (m0 .i32 (.s 6))) 0 = true
    ∧ (ts lane1 4 RWord.none).clear (.lds (m0 .i32 (.s 6))) = true
    ∧ (ts lane1 4 RWord.none).addrValid (memForm (m0 .i32 (.s 6))) 0 = false := by
  unfold State.plain; decide

/-- The element's bytes are local and resident, in one line of a writable page, and nothing is on its way. -/
theorem test_ready_scalar :
    (∀ w ∈ [false, true], lane1.spanIA lane1.w.place.ctx (lane1.va (memForm (m0 .i32 (.s 6))) 0) 4 w
        = some ((List.range 4).map (fun k => (0x10 + k, 0))))
    ∧ attrRemote 0 = false ∧ (∀ k, k < 4 → (lane1.part 0).held (0x10 + k) = false ∧ lane1.peek 0 (0x10 + k) = some 0)
    ∧ lane1.unperformed 0 lane1.w.id = [] ∧ (lane1.core lane1.w.core).l1 = [] ∧ lane1.ecc = [] ∧ lane1.sram = []
    ∧ lane1.pendingAccs 0 = [] ∧ lane1.w.owedError = none ∧ lane1.cores = []
    ∧ (lane1.part 0).shoots = [] ∧ (lane1.part 0).power = .noon ∧ (lane1.part 0).ctk = 0 ∧ lane1.mem.wf = true
    ∧ (lane1.part 0).l2 = []
    ∧ (lane1.xlate 0 0).2 = .leaf ⟨0, 0x5000, 0, false, false, true, true, 0, leafEntry 0x5000⟩
    ∧ (Walk.leaf ⟨0, 0x5000, 0, false, false, true, true, 0, leafEntry 0x5000⟩).reason true = 0 := by decide

/-- GlobalLoadsIssue: a load whose line a shoot-down holds waits there, having reached it once. -/
theorem test_load_waits :
    let s := { lane1 with parts := [(0, { (lane1.part 0) with shoots := [⟨0, 1, true⟩] })] }
    planOk s (memForm (m0 .i32 (.v 1))) 4 false = false
    ∧ (match (after (.ld (m0 .i32 (.v 1))) s).w.wait with
        | .merges ls => ls.map (·.1) == [0]
        | _ => false) = true
    ∧ (after (.ld (m0 .i32 (.v 1))) s).w.flight = [] := by decide

/-- A state with no update-only line and no modified line of a compressible page. -/
theorem test_still : lane1.still := by
  refine ⟨fun _ => rfl, fun e he => ?_⟩
  have h : (lane1.part lane1.w.place.part).l2 = [] := by decide
  rw [h] at he
  cases he

/-- `s` with a store of its stream that a shoot-down or a sleeping partition holds, and that a fence orders. -/
def owed (s : State) : State :=
  { tw s (fun w => { w with fence := [(7, true)] }) with stores := [⟨0, ⟨7, 0, 0, .wave s.w.id 0 none, 0, 0x10, .write [(0x10, 9)]⟩⟩] }

/-- STS stores little-endian bytes at the frame; LDS puts the word in flight, with SEXT of i8 (R184, R185). -/
theorem test_memory_results :
    let s := after (.sts (m0 .b32 (.s 6))) (ts lane1 6 ⟨0x80C1D2E3, true⟩)
    Mem.readN s.mem 0x5010 4 = [0xE3, 0xD2, 0xC1, 0x80]
    ∧ (((after (.lds (m0 .b32 (.s 7))) s).w.flight.headD noEntry).res.getD 0 []).getD 0 RWord.none = ⟨0x80C1D2E3, true⟩
    ∧ (((after (.lds (m0 .i8 (.s 7))) s).w.flight.headD noEntry).res.getD 0 []).getD 0 RWord.none = ⟨0xFFFFFFE3, true⟩
    ∧ (after (.sts (m0 .b32 (.s 6))) (ts lane1 6 ⟨1, false⟩)).mem = lane1.mem := by decide

def big (s : State) : State := tw s (fun w => { w with place := { w.place with wbSize := 64, abSize := 64, cbSize := 64 } })
def b0 (t : ElemType) (d b : Operand) (disp : BitVec 28) : MemOp := ⟨h0, false, d, .s 2, b, t, .dflt, disp⟩

/-- BufferLoads and BufferStores: an element at the end of a region, one past it, and a group that is not there. -/
theorem test_ready_buffers :
    lane1.fencedIds false = [] ∧ lane1.fencedIds true = [] ∧ (owed lane1).fencedIds true = [7] ∧
    (∀ x ∈ [Instr.ldtb (b0 .i32 (.v 1) (.s 4) 0x10) .wb, .sttb (b0 .i32 (.i 5) (.s 4) 0x10) .cb,
        .ldc (b0 .i32 (.v 1) (.i 0) 0x10) .ab, .stc (b0 .i32 (.i 5) (.i 0) 0x10) .wb], lane1.clear x = true)
    ∧ lane1.bufBad .wb 4 [⟨0, 0, Config.nWBuf - 4⟩] = [] ∧ lane1.bufWait .wb 4 false [⟨0, 0, Config.nWBuf - 4⟩] = false
    ∧ lane1.bufWait .wb 4 true [⟨0, 0, Config.nWBuf - 4⟩] = false
    ∧ lane1.bufBad .wb 4 [⟨0, 0, Config.nWBuf - 3⟩] ≠ [] ∧ lane1.bufBad .ab 4 [⟨0, 1, 0⟩] ≠ [] := by decide

/-- AtomicsIssue and AtomicAtHomeSlice: forms ready, a plan that performs, a misaligned lane, a range fault. -/
theorem test_ready_atomics :
    (∀ x ∈ [Instr.atom (a0 .i32 (.v 6)) .add, .cas (a0 .b32 (.v 6)), .red (a0 .i32 (.i 1)) .add], lane1.clear x = true)
    ∧ (∀ c ∈ [false, true], (match lane1.atomicPlan .i32 (lane1.va (atomForm (a0 .i32 (.i 1)))) 1 .relaxed .device c with
        | .inr (_, as) => as.length == 1
        | _ => false) = true)
    ∧ (match lane1.plan (lane1.va (atomForm { a0 .i32 (.i 1) with disp := 0x12 })) 1 4 true with
        | .ok as => (as.filter (fun a => a.va % 4 != 0)).length == 1
        | _ => false) = true
    ∧ planBad lane1 (atomForm { a0 .i32 (.i 1) with disp := 0x1000 }) 4 true = true := by decide

/-- RED and ATOM add in memory, and ATOM's old word is in flight (R197, R198); a CAS that differs writes nothing. -/
theorem test_atomic_results :
    let s := { lane1 with mem := Mem.writeN lane1.mem 0x5010 [0xFF, 0xFF, 0xFF, 0xFF] }
    let v := tv (tv s 6 ⟨2, true⟩) 7 ⟨9, true⟩
    Mem.readN (after (.red (a0 .n32 (.i 3)) .add) s).mem 0x5010 4 = [2, 0, 0, 0]
    ∧ Mem.readN (after (.atom (a0 .n32 (.v 6)) .add) v).mem 0x5010 4 = [1, 0, 0, 0]
    ∧ (((after (.atom (a0 .n32 (.v 6)) .add) v).w.flight.headD noEntry).res.getD 0 []).getD 0 RWord.none = ⟨0xFFFFFFFF, true⟩
    ∧ Mem.readN (after (.cas (a0 .b32 (.v 6))) v).mem 0x5010 4 = [0xFF, 0xFF, 0xFF, 0xFF]
    ∧ Mem.readN (after (.cas (a0 .b32 (.v 6))) (tv v 6 ⟨0xFFFFFFFF, true⟩)).mem 0x5010 4 = [9, 0, 0, 0] := by decide

/-- OrderingInstructionsComplete. -/
theorem test_ready_ordering :
    (∀ x ∈ [Instr.fence h0 .acq .device, .fence h0 .rel .device, .pref { m0 .b32 (.v 0) with disp := 0x10 },
        .pgreq h0 2 true (.s 2) (.s 4) 0x10, .drain h0 .wb, .drain h0 .cb, .drain h0 .global], lane1.clear x = true)
    ∧ (∀ k ∈ [false, true], lane1.remoteErr k .device = none) ∧ lane1.w.wait = .none
    ∧ (∀ p ∈ [DrainPath.wb, .ab, .cb, .global], lane1.drainErr p = none ∧ lane1.copiesLeft p lane1.nextId = false)
    ∧ lane1.matrixLeft lane1.nextId = false
    ∧ (tw lane1 (fun w => { w with q := [(2, ⟨.pending, false, 0, false, false⟩)] })).clear (.pgreq h0 2 true (.s 2) (.s 4) 0) = true
    ∧ (after (.pgreq h0 2 true (.s 2) (.s 4) 0x10) lane1).w.tok 2 = ⟨.ready, true, 1, false, false⟩ := by decide

/-! The copy engine, guard slots, transform engines and the matrix unit. -/

def gAt (s : State) (g j : Nat) : Grp := (s.grp? g j).getD placedGrp

def guarded (g : Nat) (st : GState) : State :=
  lane1.setCore 0 { (lane1.core 0) with guards := [(3, ⟨0, g, st⟩)] }

def cq (sk dk : BitVec 2) : CopyOp := ⟨h0, 4, 6, .s 8, sk, dk, false, 0, 0, false, 0, 0, false, false, 0⟩

/-- The form of a COPY that a state accepts: its operands valid, its bytes in range, room in its queue. -/
def copyOk0 (s : State) (x : Instr) (form : Nat) (c : CopyOp) : Bool :=
  s.clear x && s.copyValid x && (s.copyRange (s.copyCmd x form c)).isNone && (s.copyFault (s.copyCmd x form c)).isNone
    && (s.rdW c.b).bits != 0 && s.grp? s.w.id.gang s.w.id.group == some placedGrp && decide (placedGrp.copyq.length < 32)

/-- A lane with 16 in s8, and for the checksum form 256 in s9, 0x40 and 0x80 in s10 and s12. -/
def copying : State := ts (ts (ts (ts lane1 8 ⟨16, true⟩) 9 ⟨256, true⟩) 10 ⟨0x40, true⟩) 12 ⟨0x80, true⟩

/-- CopyEntersTheQueue: each form meets what it needs to enter the queue, guarded by a slot of its group or not, and enters
it. -/
theorem test_copies_enter :
    copyOk0 copying (.copy (cq 0 1)) 0 (cq 0 1) = true ∧ copyOk0 copying (.copyIndexed (cq 0 1)) 1 (cq 0 1) = true
    ∧ copyOk0 copying (.copyChecksum { cq 0 3 with d := 4 }) 2 { cq 0 3 with d := 4 } = true ∧ copying.plain
    ∧ (∀ x ∈ [Instr.copy (cq 0 1), .copyIndexed (cq 0 1), .copyChecksum { cq 0 3 with d := 4 }],
        (gAt (after x copying) 0 0).copyq.map (fun q => (q.bound, q.go, q.done)) = [(false, some true, false)])
    ∧ (let s := { guarded 0 .unresolved with w := copying.w }
       copyOk0 s (.copy { cq 0 1 with gen := true, gsl := 3 }) 0 { cq 0 1 with gen := true, gsl := 3 } = true
        ∧ (gAt (after (.copy { cq 0 1 with gen := true, gsl := 3 }) s) 0 0).copyq.map (fun q => (q.bound, q.go)) = [(true, none)]) := by
  unfold State.plain; decide

/-- CopyEntersTheQueue: forms ready; nullified, of no bytes, out of a buffer, out of range, to a group that is not
there, and entering the queue unguarded, unresolved and resolved; a transposing one with a legal layout. -/
theorem test_ready_copy :
    (∀ x ∈ [Instr.copy (cq 0 1), .copy { cq 0 1 with gen := true, gsl := 3 }, .copyIndexed (cq 0 1),
        .copyChecksum { cq 1 3 with d := 4 }, .copy { cq 0 2 with trn := true }], lane1.clear x = true)
    ∧ (ts lane1 8 RWord.none).copyValid (.copy (cq 0 1)) = false ∧ lane1.copyValid (.copy (cq 0 1)) = true
    ∧ (lane1.copyCmd (.copy (cq 0 1)) 0 (cq 0 1)).cnt = 0
    ∧ (let s := ts lane1 8 ⟨16, true⟩
       let c := s.copyCmd (.copy (cq 0 1)) 0 (cq 0 1)
       c.cnt = 16 ∧ s.copyRange c = none ∧ s.copyFault c = none ∧ s.grp? 0 0 = some placedGrp)
    ∧ (let s := ts lane1 8 ⟨BitVec.ofNat 32 (Config.nWBuf + 1), true⟩
       s.copyRange (s.copyCmd (.copy (cq 0 1)) 0 (cq 0 1)) = some 0)
    ∧ (let s := ts (ts lane1 8 ⟨16, true⟩) 6 ⟨0xFF8, true⟩
       s.copyFault (s.copyCmd (.copy (cq 0 1)) 0 (cq 0 1)) = some 0x1000)
    ∧ lane1.gangSize = 1 ∧ (layOf (lane1.copyCmd (.copy { cq 0 2 with trn := true }) 0 { cq 0 2 with trn := true }).layout).mode < 8
    ∧ (guarded 0 .unresolved).slotView 3 = .own .unresolved ∧ (guarded 0 .yes).slotView 3 = .own .yes
    ∧ (guarded 1 .yes).slotView 3 = .foreign ∧ lane1.slotView 3 = .free := by decide

/-- A copy of 16 bytes waits in its group's queue, and COPY_EXECUTE writes them (R295, R298). -/
theorem test_copy :
    let s := ts { lane1 with mem := Mem.writeN lane1.mem 0x5000 [1, 2, 3] } 8 ⟨16, true⟩
    let t := after (.copy (cq 0 1)) s
    (gAt t 0 0).copyq.length = 1 ∧ t.mem = s.mem
    ∧ Mem.readN (gAt (after (.copyExecute 0 0) t) 0 0).wb 0 4 = [1, 2, 3, 0] := by decide

/-- GuardSlots: each view of a slot, a ready instruction on each, and what they make of it (R292 to R294). -/
theorem test_ready_guards :
    (∀ s ∈ [guarded 0 .unresolved, guarded 0 .yes, guarded 1 .yes, lane1], ∀ x ∈
        [Instr.gset h0 3 (.i 1), .gclr h0 3, .gclrFree h0 3], s.clear x = true)
    ∧ (after (.gset h0 3 (.i 1)) (guarded 0 .unresolved)).slotView 3 = .own .yes
    ∧ (after (.gset h0 3 (.i 0)) (guarded 0 .unresolved)).slotView 3 = .own .no
    ∧ (after (.gclr h0 3) lane1).slotView 3 = .own .unresolved ∧ (after (.gclr h0 3) (guarded 0 .yes)).slotView 3 = .own .unresolved
    ∧ (after (.gclrFree h0 3) (guarded 0 .yes)).slotView 3 = .free
    ∧ ((ts lane1 5 RWord.none).rdW (.s 5)).valid = false := by decide

def engine : State := { lane1 with engs := [(2, { EngCtx.reset with en := true, rk := 4, tl := 7 })] }

/-- EngineInstructions: an own context, a foreign one, a stopped one, values below, at and above TL, a pending token. -/
theorem test_ready_engines :
    (∀ x ∈ [Instr.xkick h0 (.i 2) (.i 1), .tlwait h0 (.i 2) (.i 7), .tlwait h0 (.i 2) (.i 8),
        .tlwaitToken h0 (.i 2) (.i 7) 1, .tlwaitToken h0 (.i 2) (.i 8) 1, .tlread h0 4 (.i 2)], engine.clear x = true)
    ∧ engine.engOk 2 = true ∧ engine.engOk 3 = false ∧ engine.sendWaveLines.releaseIds .device = []
    ∧ (engine.eng 2).stop = false ∧ (engine.w.tok 1).st ≠ .pending
    ∧ ((after (.xkick h0 (.i 2) (.i 1)) engine).eng 2).widx = 1 ∧ ((after (.xkick h0 (.i 2) (.i 16)) engine).eng 2).stop = false
    ∧ ((after (.xkick h0 (.i 2) (.i 17)) engine).eng 2).stop = true
    ∧ (after (.tlwait h0 (.i 2) (.i 7)) engine).w.pc = 12 ∧ (after (.tlwait h0 (.i 2) (.i 8)) engine).w.wait = .tlwait 2 8
    ∧ (after (.tlread h0 4 (.i 2)) engine).w.rdS 4 = ⟨7, true⟩
    ∧ ((after (.tlwaitToken h0 (.i 2) (.i 8) 1) engine).w.tok 1).st = .pending := by decide

/-- A belay stream with a format block at s8 (i8 by i8, 1 by 1 by 32, group 0), C at s16 with rows of 4 bytes. -/
def belay : State := ts (ts (ts (ts (ts (one 0xB0) 17 ⟨4 * 2 ^ 16, true⟩) 8 ⟨1, true⟩) 10 ⟨1, true⟩) 13 ⟨4, true⟩) 14 ⟨1, true⟩

def mb : MatOp := ⟨h0, 8, 0, true, 2⟩
def bl0 : Belay := ⟨List.replicate 16 0, 0, none, 0, []⟩

def matrixList : List (Instr × MatShape) :=
  [(.mma mb 16 20 23, .mul), (.mmas mb 16 20 23 0, .mul), (.mmae mb 16 20 23, .mul), (.mmaeSparse mb 16 20 23 0, .mul),
   (.mzero mb 16 false 0, .zero), (.mcvt mb 20 16 .rne, .cvt), (.dectab mb 26 0, .tab)]

def jobOf (s : State) (x : Instr) (d a b : Nat) (na : Nat) : MatJob :=
  let r (k n : Nat) : List Word := (List.range n).map (fun j => (s.w.rdS (k + j)).data)
  ⟨s.nextId, x, s.w.pcNow, r d 3, r a na, r b 3, r 8 8, some 2, [], [], []⟩

/-- MatrixInstructionsDispatch and MzeroClearsC: a gang with its belay stream, empty slots, a legal job, a failing
check, a full slot and a fault to deliver. -/
theorem test_ready_matrix :
    belay.gang? belay.w.id.gang = some placedGang ∧ placedGang.belay = some bl0 ∧ (∀ p ∈ matrixList, belay.clear p.1 = true)
    ∧ bl0.clear 0xFFFF = true ∧ { bl0 with pend := List.replicate 16 1 }.clear 4 = false ∧ bl0.full mb = false
    ∧ ({ bl0 with fault := some ⟨.matfault, 0, 0, 0, 0, 0, 0⟩ }).delivery ≠ none
    ∧ (jobOf belay (.mma mb 16 20 23) 16 20 23 3).check .mul placedLaunch 1 = none
    ∧ (jobOf belay (.mzero mb 16 false 0) 16 0 0 0).check .zero placedLaunch 1 = none
    ∧ (jobOf belay (.dectab mb 26 0) 0 26 0 1).check .tab placedLaunch 1 = none
    ∧ (jobOf (ts belay 13 ⟨0, true⟩) (.mma mb 16 20 23) 16 20 23 3).check .mul placedLaunch 1 = some 4
    ∧ (jobOf (ts belay 14 ⟨2, true⟩) (.mzero mb 16 false 0) 16 0 0 0).check .zero placedLaunch 1 = some 5
    ∧ (∀ y ∈ placedGang.groups, y.merges = [] ∧ y.copyq = [] ∧ y.cb.wf = true)
    ∧ (∀ k ∈ [4, 6, 7], (belay.w.rdS (8 + k)).valid = true)
    ∧ belay.fencedIds false = [] ∧ (owed belay).fencedIds false = [7]
    ∧ (after (.mma mb 16 20 23) (owed belay)).w.wait = .remote [7] ∧ belay.w.owedError = none := by decide

/-- MergesAndStatus: two groups, a ticket word from group 0 to group 1, and MWAIT with and without an entry. -/
theorem test_ready_merge :
    let two := belay.setGang 0 { placedGang with groups := [placedGrp, placedGrp] }
    let s := ts two 24 ⟨64, true⟩
    s.clear (.mmerge mb 16 16 24) = true ∧ s.clear (.mwait h0 2 4) = true
    ∧ (gAt (after (.mmerge mb 16 16 24) s) 0 1).merges.length = 1
    ∧ (after (.mwait h0 2 4) (after (.mmerge mb 16 16 24) s)).w.wait = .slots 4
    ∧ (after (.mwait h0 2 4) (s.onBelay 0 (fun b => { b with cxn := 5 }))).w.rdS 2 = ⟨5, true⟩ := by decide

/-- The manual's example of a block of e4m3 (R84, R85): 5.5 with four planes, which makes 1.0 to 6.5, and 6.0 with two;
and an 8-plane MMA of −1 by −1 in 32 places adds 32.0; MZERO clears its tile (R226, R230). -/
theorem test_matrix_results :
    let a := [0x44, 0x2A, 0x3C, 0xB4, 0, 0, 0, 0].map (decodeElem .e4m3)
    let b := [0x38, 0x40, 0x30, 0x40, 0, 0, 0, 0].map (decodeElem .e4m3)
    let s := (ts (ts belay 8 ⟨0x701, true⟩) 10 ⟨0x701, true⟩).onGrp 0 0 (fun g =>
      { g with ab := Mem.writeN [] 0 [0xFF, 0xFF, 0xFF, 0xFF], wb := Mem.writeN [] 0 [0xFF, 0xFF, 0xFF, 0xFF], cb := [] })
    let t := after (.mma mb 16 20 23) s
    blockDot .e4m3 .e4m3 4 4 0x7F 0x80 a b = 0x40B00000 ∧ addF32 .rne 0x3F800000 0x40B00000 = 0x40D00000
    ∧ blockDot .e4m3 .e4m3 2 2 0x7F 0x80 a b = 0x40C00000
    ∧ Mem.readN (gAt t 0 0).cb 0 4 = [0, 0, 0, 0x42]
    ∧ Mem.readN (gAt (after (.mzero mb 16 false 0) t) 0 0).cb 0 4 = [0, 0, 0, 0] := by decide

/-! Neural calls, tokens, rays, grids, barriers, tickets and the containment tree. -/

def wset : WSet := ⟨0, 5, List.replicate 64 0, 1, false, 0, 0, []⟩

/-- `lane1` with weight set 5 in its cluster, pinned `n` times, or kept for removal. -/
def weights (n : Nat) (drop : Bool) : State :=
  lane1.setCluster 0 { (lane1.cluster 0) with cache := [{ wset with pin := n, drop := drop }] }

def tok (s : State) (n : Nat) (t : Token) : State := tw s (fun w => w.setTok n t)
def pending : Token := ⟨.pending, false, 0, false, false⟩

/-- A cluster whose eight bins are sealed. -/
def sealed8 : State :=
  lane1.setCluster 0 { (lane1.cluster 0) with bins := (List.range 8).map (fun b => (b, ⟨0, b, [], true⟩)) }

/-- NeuralCallEntersTheIntake: the intake takes calls or none, and a fill has something to wait for or not. -/
theorem test_neural_waits :
    (lane1.cluster 0).stalled = false ∧ (sealed8.cluster 0).stalled = true ∧ lane1.fillWaits [5] = [] ∧ (owed lane1).fillWaits [5] = [7]
    ∧ (after (.ncall h0 2 20 8 (.i 5) 0 0) (tv sealed8 8 ⟨1, true⟩)).w.wait = .busy
    ∧ (after (.ncall h0 2 20 8 (.i 5) 0 0) (tv (owed lane1) 8 ⟨1, true⟩)).w.wait = .remote [7] := by decide

/-- NeuralCallEntersTheIntake and WeightSetInstructions: a pending token, no lane with valid inputs, one lane; a set that
is cached or not, at the bound of its pin count, free of rows, marked for removal. -/
theorem test_ready_neural :
    (∀ s ∈ [lane1, tok lane1 2 pending, tv lane1 8 ⟨1, true⟩], s.clear (.ncall h0 2 20 8 (.i 5) 0 0) = true)
    ∧ (after (.ncall h0 2 20 8 (.i 5) 0 0) lane1).w.tok 2 = ⟨.ready, true, 0, false, false⟩
    ∧ ((after (.ncall h0 2 20 8 (.i 5) 0 0) (tv lane1 8 ⟨7, true⟩)).cluster 0).intake.map (·.lanes) = [[(0, 5, [7])]]
    ∧ (∀ s ∈ [weights 0 false, weights 1 false, weights 255 false, lane1], ∀ x ∈
        [Instr.wpin h0 4 (.i 5), .wunpin h0 (.i 5), .wpref h0 (.i 5), .wprefDrop h0 (.i 5)], s.clear x = true)
    ∧ ((weights 1 false).cluster 0).set? 0 5 = some wset ∧ (lane1.cluster 0).set? 0 5 = none
    ∧ ((weights 0 false).cluster 0).inUse 0 5 = false ∧ ((weights 0 false).cluster 0).pinned + wset.size ≤ 1048576
    ∧ (after (.wpin h0 4 (.i 5)) (weights 254 false)).w.rdS 4 = ⟨0, true⟩
    ∧ (after (.wpin h0 4 (.i 5)) (weights 255 false)).w.rdS 4 = ⟨3, true⟩
    ∧ ((after (.wprefDrop h0 (.i 5)) (weights 0 false)).cluster 0).set? 0 5 = none := by decide

/-- TokenReads: each state of a token, an issue it reports failed lanes of, and a token of TLWAIT. -/
theorem test_ready_tokens :
    (∀ s ∈ [lane1, tok lane1 2 pending, tok lane1 2 ⟨.ready, true, 9, false, false⟩], ∀ x ∈
        [Instr.waitq h0 6 2, .pollq h0 6 2], s.clear x = true)
    ∧ (tok lane1 2 ⟨.ready, true, 9, false, true⟩).w.failedJob 2 = none
    ∧ ({ (tok lane1 2 ⟨.ready, true, 1, true, false⟩).w with jobs := [⟨1, false, 2, 20, 1, 1, 0, 0, 1, 0x5000⟩] }).failedJob 2 ≠ none
    ∧ (after (.pollq h0 6 2) (tok lane1 2 ⟨.ready, true, 9, false, false⟩)).w.rdS 6 = ⟨9, true⟩
    ∧ (after (.pollq h0 6 2) (tok lane1 2 pending)).w.rdS 6 = ⟨0, false⟩
    ∧ (after (.waitq h0 6 2) (tok lane1 2 pending)).w.wait = .waitq 2
    ∧ (after (.waitq h0 6 2) lane1).w.rdS 6 = ⟨0, false⟩
    ∧ (after (.waitq h0 6 2) (tok lane1 2 ⟨.ready, true, 9, false, false⟩)).w.rdS 6 = ⟨9, true⟩
    ∧ (after (.waitq h0 6 2) (tok lane1 2 ⟨.ready, true, 9, false, false⟩)).w.tok 2 = ⟨.empty, true, 9, false, false⟩
    ∧ lane1.w.failedJob 2 = none ∧ (tok lane1 2 pending).w.failedJob 2 = none := by decide

/-- A ray source: eight valid words at v8, a hierarchy of depth 1 at VA 0x1C0, and its arguments at s4. -/
def raying : State := ts (ts ((List.range 8).foldl (fun s k => tv s (8 + k) ⟨0, true⟩) lane1) 4 ⟨0x1C0, true⟩) 6 ⟨0x10001, true⟩

def aRay : Ray := ⟨[0, 0, 0], [0, 0, 0], 0, 0, 0x1C0, 1, 1, [(0, 0)]⟩

/-- RayInstructions: a pending token, invalid, ill-formed and unmapped arguments, a lane that traces, and rays sent. -/
theorem test_ready_rays :
    (∀ s ∈ [lane1, raying, tok raying 1 pending, ts raying 6 ⟨0x10000, true⟩, ts raying 4 RWord.none, ts raying 4 ⟨0x11C0, true⟩],
        ∀ x ∈ [Instr.trace h0 1 20 8 4, .traceNext h0 1 20 8, .trend h0 22], s.clear x = true)
    ∧ raying.hierarchyOk 0x1C0 1 = true ∧ raying.hierarchyOk 0x11C0 1 = false ∧ raying.w.tracing &&& 1 = 0
    ∧ ({ raying.w with jobs := [⟨1, true, 3, 40, 2, 1, 1, 0, 0, 0⟩] }).tracing &&& 1 ≠ 0
    ∧ ((after (.trace h0 1 20 8 4) raying).w.tok 1).st = .pending
    ∧ Tab.find (after (.trace h0 1 20 8 4) raying).w.rays 0 = some aRay
    ∧ VReg.lane ((after (.trend h0 22) (tw raying (fun w => { w with rays := [(0, aRay)] }))).w.rdV 22) 0 = ⟨1, true⟩
    ∧ VReg.lane ((after (.trend h0 22) raying).w.rdV 22) 0 = ⟨0, false⟩ := by decide

/-- A shading wave of grid 7 in cluster 0. -/
def shading (r : Bool) : State :=
  (tw lane1 (fun w => { w with place := { w.place with kind := .shade 7 } })).setCluster 0
    { (lane1.cluster 0) with grids := [(7, ⟨0, 0, 0, 1, 1, 0, r, [], []⟩)] }

def gridsFull : List (Nat × Grid) := (List.range Config.nGrid).map (fun k => (8 + k, ⟨0, 0, 0, 1, 1, 0, true, [], []⟩))

/-- GridInstructions: outside shading, after GDONE, with a grid's reservation held, free and taken, and a grid dropped. -/
theorem test_ready_grids :
    (∀ s ∈ [lane1, shading false, shading true], ∀ x ∈ [Instr.gemit h0 8, .gdone h0], s.clear x = true)
    ∧ lane1.w.grid? = none ∧ (shading false).w.grid? = some 7 ∧ ((shading false).cluster 0).reservedGrids < Config.nGrid
    ∧ ({ (lane1.cluster 0) with grids := gridsFull }).reservedGrids = Config.nGrid
    ∧ ((shading false).grid? 0 7).isSome = true ∧ (tw (shading false) (fun w => { w with place := { w.place with kind := .shade 9 } })).grid? 0 9 = none
    ∧ (after (.gemit h0 8) lane1).w.xcause = 20
    ∧ (after (.gdone h0) (shading true)).w.gdone = true := by decide

def barred (b : ABar) : State := lane1.setCore 0 { (lane1.core 0) with bars := [(2, b)] }
def bar0 : ABar := ⟨0, 0, true, false, 0, 0, 1, 0⟩

/-- BarrierInstructions: a free barrier, an own and a foreign one, and counts at both ends of their ranges. -/
theorem test_ready_barriers :
    (∀ s ∈ [lane1, barred bar0, barred { bar0 with gang := 3 }], ∀ x ∈
        [Instr.abinit h0 2 (.i 0) (.i 1), .abinitReset h0 2, .abinitFree h0 2, .abarr h0 2 (.i 0) (.i 1), .abwait h0 2 4 (.i 0)],
        s.clear x = true)
    ∧ (barred bar0).barOwn 2 = true ∧ lane1.barOwn 2 = false ∧ (barred { bar0 with gang := 3 }).barForeign 0 0 2 = true
    ∧ (lane1.setCore 0 { (lane1.core 0) with efs := [(2, 3)] }).barErr 0 0 2 = some 3 ∧ lane1.barErr 0 0 2 = none
    ∧ lane1.barForeign 0 0 2 = false ∧ lane1.barHome 0 0 = .core 0 ∧ lane1.releaseIds .gang = []
    ∧ (barred bar0).bar? 0 0 2 = some bar0 ∧ (lane1.rdW (.i 127)).bits.toNat = 127 ∧ 127 < (lane1.rdW (.i 128)).bits.toNat
    ∧ lane1.w.place.ngroup = 1
    ∧ ((after (.abinit h0 2 (.i 0) (.i 2)) lane1).bar? 0 0 2).map (fun b => (b.arr, b.armed)) = some (2, true)
    ∧ ((after (.abarr h0 2 (.i 0) (.i 1)) (barred bar0)).bar? 0 0 2).map (fun b => (b.phase, b.armed)) = some (1, false)
    ∧ ((after (.abarr h0 2 (.i 0) (.i 127)) (barred { bar0 with arr := -1 })).bar? 0 0 2).map (fun b => (b.ef, b.ecause)) = some (true, 3)
    ∧ (after (.abwait h0 2 4 (.i 0)) (barred bar0)).w.wait = .abwait 2 0
    ∧ (after (.abwait h0 2 4 (.i 15)) (barred bar0)).w.rdS 4 = ⟨0, true⟩ := by decide

/-- A ticket word of 5 at VA 0x10, named by s4. -/
def ticket : State := ts { lane1 with mem := Mem.writeN lane1.mem 0x5010 [5, 0, 0, 0] } 4 ⟨0x10, true⟩

def misses (s : State) : Bool :=
  match s.ticketAcc 4 false with
  | .inr _ => true
  | .inl _ => false

def finds (s : State) (w : Bool) : Bool :=
  match s.ticketAcc 4 w with
  | .inl acc =>
    let u := s.sendReached [acc]
    let c := u.reachTicket acc
    acc.remoteIas.isEmpty && (acc.span.headD (0, 0)).1 == 0x10 && s.w.reached.isEmpty && (u.blockers false [acc]).isEmpty
      && !c.2.any (c.1.lineWaits 0) && (c.1.ticketRead acc).2 == some (5, false) && !acc.localIas.any (u.part 0).held
  | .inr _ => false

/-- Tickets: forms ready, the word read, a misaligned and an unmapped one. -/
theorem test_ready_tickets :
    (∀ x ∈ [Instr.tkwait h0 6 4 (.i 5) .device, .tkadv h0 6 4 (.i 1) .device], ticket.clear x = true)
    ∧ finds ticket false = true ∧ finds ticket true = true ∧ ticket.unperformed 0 ticket.w.id = []
    ∧ ticket.remoteErr true .device = none ∧ ticket.pendingAccs 0 = [] ∧ ticket.ecc = [] ∧ ticket.sram = []
    ∧ misses (ts ticket 4 ⟨0x12, true⟩) = true ∧ misses (ts ticket 4 ⟨0x1000, true⟩) = true := by decide

/-- A word at the value is read, one before it waits (R389); TKADV adds and gives the old word (R390). -/
theorem test_tickets :
    (after (.tkwait h0 6 4 (.i 5) .device) ticket).w.rdS 6 = ⟨5, true⟩
    ∧ (after (.tkwait h0 6 4 (.i 6) .device) ticket).w.wait = .tkwait 0x10 6
    ∧ Mem.readN (after (.tkadv h0 6 4 (.i 1) .device) ticket).mem 0x5010 4 = [6, 0, 0, 0]
    ∧ (after (.tkadv h0 6 4 (.i 1) .device) ticket).w.rdS 6 = ⟨5, true⟩ := by decide

/-- A tree of 16 nodes whose node 1 has been made, by this context. -/
def tree0 : State := { lane1 with parts := [(0, { (lane1.part 0) with ctk := 4, ctbase := 0xA000 })] }
def tree : State := tree0.setW (ts (after (.ctnew h0 4 (.i 0)) tree0) 5 ⟨1, true⟩).w |> fun s =>
  { after (.ctnew h0 4 (.i 0)) tree0 with w := s.w }

/-- TreeReads and TreeUpdates: no tree, a node out of range, refused, own and fresh; a request posted and its answer. -/
theorem test_ready_tree :
    (tree.w.rdS 4) = ⟨1, true⟩ ∧ tree.refused 1 = false ∧ tree.refused 2 = true ∧ (tree.part 0).ctk = 4
    ∧ (∀ s ∈ [lane1, tree], ∀ x ∈ [Instr.ctread h0 6 5, .ctsettle h0 5, .ctnew h0 4 (.i 0), .ctenr h0 4 5 6, .ctleave h0 4 5 6,
        .ctrepar h0 4 5 (.i 0), .ctfree h0 4 5], s.clear x = true)
    ∧ tree.nodeSat 0 1 = false ∧ tree.nodeCount 0 1 = 1 ∧ tree.nodeChildren 0 1 = 0 ∧ tree.nodePages 0 1 = 0
    ∧ (after (.ctnew h0 4 (.i 1)) tree).w.rdS 4 = ⟨2, true⟩
    ∧ (after (.ctfree h0 4 5) (after (.ctnew h0 4 (.i 1)) tree)).w.rdS 4 = ⟨4, false⟩
    ∧ (after (.ctfree h0 4 5) tree).w.rdS 4 = ⟨1, true⟩ ∧ (after (.ctrepar h0 4 5 (.i 1)) tree).w.rdS 4 = ⟨3, false⟩
    ∧ (after (.ctread h0 6 5) tree).w.flight.length = 1
    ∧ ((after (.ctenr h0 4 5 6) (ts tree 8 ⟨1, true⟩)).part 0).ctreqs.map (fun r => (r.leave, r.node, r.ia, r.pages))
        = [(false, 1, 0, 1)]
    ∧ (lane1.refused 0 = true) := by decide

/-! The pool, helpers, traps and handler mode. -/

def claimed : State := lane1.setCore 0 { (lane1.core 0) with claims := [⟨⟨0, 0, 0⟩, 0, 260, 4, 0, 0⟩] }

/-- PoolInstructions: counts at the ends of their ranges, a claim that waits and one already entered. -/
theorem test_ready_pool :
    (∀ x ∈ [Instr.regrel h0 4, .regrel h0 256, .regrelS h0 5, .regclm h0 256, .regclmS h0 5, .regqry h0 4 .own,
        .regqry h0 4 .free, .regqry h0 4 .claims], lane1.clear x = true)
    ∧ (tw claimed (fun w => { w with c := 8 })).clear (.regclm h0 12) = true
    ∧ ((claimed.core 0).claims ++ (claimed.core 0).dead).any (fun e => e.wave == lane1.w.id) = true ∧ lane1.w.c = 256
    ∧ (after (.regrel h0 4) lane1).w.c = 4 ∧ (after (.regrel h0 6) lane1).w.xcause = 12
    ∧ (after (.regclm h0 256) lane1).w.pc = 12
    ∧ (after (.regclm h0 12) (tw lane1 (fun w => { w with c := 8 }))).w.wait = .regclm 12
    ∧ (after (.regqry h0 4 .free) (lane1.setCore 0 { (lane1.core 0) with poolUsed := 256 })).w.rdS 4 = ⟨1792, true⟩ := by decide

/-- A wave with a helper entry at 0x40, lane 0 alone in EXEC, its team of two helpers, and helper 0 with the turn. -/
def recruiter : State := tw lane1 (fun w => { w with place := { w.place with helper := some 0x40 } })
def teamed : State := after (.recruit h0 4 (.i 2) false) recruiter
def helping : State := tw teamed (fun w => { w with sel := some 0 })

/-- `s` with its team's parts awaiting the store of `owed`. -/
def owing (s : State) : State :=
  tw (owed s) (fun w => { w with team := w.team.map (fun t => { t with parts := t.parts.map (fun p => { p with owed := [7] }) }) })

/-- RecruitMakesATeam, JoiningAndReleasingATeam and HelperInstructions. -/
theorem test_ready_team :
    recruiter.clear (.recruit h0 4 (.i 2) false) = true ∧ recruiter.w.team = none ∧ lanesOf recruiter.w.execM = [0]
    ∧ recruiter.w.snapJobs = [] ∧ recruiter.w.flight = [] ∧ lanesOf (one 0).w.execM ≠ [0]
    ∧ teamed.w.rdS 4 = ⟨3, true⟩ ∧ teamed.w.team.map (fun t => (t.hcount, t.lane, t.parts.length)) = some (2, 0, 1)
    ∧ (after (.recruit h0 4 (.i 2) false) lane1).w.rdS 4 = ⟨0, true⟩
    ∧ (∀ s ∈ [recruiter, teamed], ∀ x ∈ [Instr.hjoin h0 4, .hrel h0], s.clear x = true)
    ∧ (after (.hjoin h0 4) teamed).w.wait = .busy ∧ (after (.hjoin h0 4) recruiter).w.rdS 4 = ⟨0, true⟩
    ∧ teamed.teamAtBoundary teamed.w = true ∧ (owing teamed).teamAtBoundary (owing teamed).w = false
    ∧ (after (.hrel h0) (owing teamed)).w.wait = .busy
    ∧ ((after (.hrel h0) teamed).w.team.map (fun t => t.parts.all (fun p => !p.running))) = some true
    ∧ (after (.hjoin h0 4) (after (.hrel h0) teamed)).w.team = none := by decide

theorem test_ready_helpers :
    (∀ x ∈ [Instr.hget h0 (.v 1) (.v 2), .hget h0 (.s 1) (.s 4), .hred h0 5 (.i 3) .add .i32 .rne, .hred h0 5 (.v 3) .add .i32 .rne,
        .hexit h0], helping.clear x = true)
    ∧ helping.w.lentTo = none ∧ helping.w.trapWaits = [] ∧ helping.exitWaits helping.nextId = []
    ∧ (owing helping).exitWaits helping.nextId = [7]
    ∧ (after (.hred h0 5 (.i 3) .add .i32 .rne) helping).w.team.map (fun t => (t.targets.length, t.partials.map (fun p => (p.h, p.reg, p.val.bits))))
        = some (1, [(0, 5, 3), (1, 5, 3)])
    ∧ ((after (.hexit h0) helping).w.team.map (fun t => t.completed)) = some 3 := by decide

def entryAt (s : State) : State := { s with mem := Mem.writeN s.mem 0x9000 (leBytes 8 0x7000 ++ leBytes 4 24 ++ leBytes 4 1) }
def bad : TrapInfo := { cause := .rangefault, addr := 0x1234, lanes := 5 }

/-- ChecksInFrontOfAnInstruction, TrapEntry and UntakenTrapStopsTheStream: each check met, an enabled vector entry, a
disabled one, and handler mode. -/
theorem test_ready_traps :
    (one 0).w.admits (.tret h0) = false ∧ (one 0).w.admits (.mma mb 16 20 23) = false ∧ (one 0).w.admits (.hexit h0) = false
    ∧ helping.w.admits (.halt h0) = false ∧ (one 0xB0).w.admits (.ld (m0 .i32 (.v 1))) = false ∧ (one 0).w.runs = true
    ∧ (tw (one 0) (fun w => { w with halted := true })).w.runs = false ∧ (one 0).w.dueOther (.mov { lu .b32 with d := .v 4 }) = []
    ∧ (tw (one 0) (fun w => { w with c := 4 })).w.overBound (.mov (lu .b32)) = none
    ∧ (tw (one 0) (fun w => { w with c := 4 })).w.overBound (.mov { lu .b32 with d := .v 4 }) = some 4
    ∧ ((entryAt lane1).vector 0).1 = true ∧ (lane1.vector 0).1 = false ∧ (one 0xF1).w.handler = true
    ∧ (let t := (entryAt lane1).trapNow 7 bad
       t.w.handler = true ∧ t.w.pc = 0 ∧ t.w.xcause = 8 ∧ t.w.xaddr = 0x1234 ∧ t.w.xlane = 5 ∧ t.w.xword = 7)
    ∧ (lane1.trapNow 7 bad).w.stopped = true ∧ ((one 0xF1).trapNow 7 bad).w.xcause = 0x88000000 := by decide

/-- TrapEntry and UntakenTrapStopsTheStream: an uncorrectable error in the vector entry posts its records, to the host and to firmware. -/
theorem test_trap_notes :
    let s := { entryAt lane1 with ecc := [0x9003] }
    (s.trapNow 7 bad).w.handler = true ∧ (s.trapNow 7 bad).dev.herq.length = 1
    ∧ (({ lane1 with ecc := [0x9003] }.trapNow 7 bad).part 0).eventQ.length = 2 := by decide

/-- SoftwareTrap, TrapReturn and HandlerInstructions: an entry that waits, one that landed and one that failed. -/
def rep (st : EntState) : Entry := { noEntry with st := st, lanes := 1, wlanes := 1, dests := [.v 3], res := [VReg.splat ⟨7, true⟩], addr := [VReg.splat ⟨9, true⟩], pc := 0x24 }
def replaying (st : EntState) : State := tw (one 0xF1) (fun w => { w with replay := [rep st], xpc := 0x30 })

theorem test_ready_handler :
    lane1.clear (.trap h0 5) = true
    ∧ (∀ st ∈ [EntState.waiting, .landed, .failed], ∀ x ∈ [Instr.tret h0, .tretSkip h0, .rqrd h0 (.s 4) (.i 0) 3,
        .rqrd h0 (.v 4) (.i 0) 12, .rqwr h0 (.i 0) (.i 1) 5, .rqwr h0 (.i 0) (.v 4) 6, .rqdel h0 (.i 0), .cxrd h0 4 0x20,
        .cxwr h0 (.i 1) 3], (replaying st).clear x = true)
    ∧ (after (.trap h0 5) (entryAt lane1)).w.xcause = 0x0519 ∧ (after (.trap h0 5) (entryAt lane1)).w.handler = true
    ∧ (after (.tret h0) (replaying .landed)).w.pc = 0x30 ∧ (after (.tretSkip h0) (replaying .landed)).w.pc = 0x3C
    ∧ VReg.lane ((after (.tret h0) (replaying .landed)).w.rdV 3) 0 = ⟨7, true⟩
    ∧ (after (.tret h0) (replaying .waiting)).w.inflight.length = 1
    ∧ (after (.rqrd h0 (.s 4) (.i 0) 3) (replaying .failed)).w.rdS 4 = ⟨0x24, true⟩
    ∧ VReg.lane ((after (.rqrd h0 (.v 4) (.i 0) 12) (replaying .landed)).w.rdV 4) 0 = ⟨7, true⟩
    ∧ (after (.rqdel h0 (.i 0)) (replaying .failed)).w.replay = []
    ∧ (after (.cxrd h0 4 0x20) (replaying .failed)).w.rdS 4 = ⟨256, true⟩
    ∧ ((after (.cxwr h0 (.i 1) 3) (replaying .failed)).w.tok 3).st = .ready := by decide

/-! Events. -/

/-- `one` with partition 0 changed. -/
def tp (f : Partn → Partn) : State := { lane1 with parts := [(0, f (lane1.part 0))] }

def ringed : State := tp (fun x => { x with frk := 4, evk := 4, frbase := 0xB000, evbase := 0xB800, faultQ := [[1]], eventQ := [[2]] })
def line0 : Byte := 0
def store0 : HeldStore := ⟨0, ⟨7, 0, 0, .host, 0, 0x10, .write [(0x10, 9)]⟩⟩
def remote0 : Remote := ⟨7, ⟨0, 0, 0⟩, none, 3, 0, 4, 0, 0, [], 0, 0, 0, none, 0, false⟩

/-- MemorySideEvents: rings with and without room, a store held and one that performs, requests that are and are not
there, shoot-downs idle and busy, and the bounds of CTK. -/
theorem test_ready_memory_events :
    (after (.faultRecordPost 0) ringed).part 0 = { (ringed.part 0) with faultQ := [], frw := 1 }
    ∧ Mem.read (after (.eventRecordPost 0) ringed).mem 0xB800 = 2
    ∧ (ringed.part 0).frk = 4 ∧ (tp (fun x => { x with frk := 4, frw := 16 })).part 0 = { (lane1.part 0) with frk := 4, frw := 16 }
    ∧ (let s := { lane1 with stores := [store0] }
       (s.part 0).held 0x10 = false ∧ (after (.storePerform 7) s).stores = [] ∧ Mem.read (after (.storePerform 7) s).mem 0x5010 = 9)
    ∧ (let s := { tp (fun x => { x with power := .umbra }) with stores := [store0] }
       (after (.storePerform 7) s).stores = [store0])
    ∧ (let s := { lane1 with stores := [store0, ⟨0, ⟨6, 0, 0, .host, 0, 0x10, .merge []⟩⟩] }
       s.mergeDue 0 0 7 = [6] ∧ (after (.storePerform 7) s).stores = s.stores)
    ∧ lane1.pendingAccs 0 = []
    ∧ (let s := { ringed with parts := [(0, { (ringed.part 0) with power := .eclipse })] }
       after (.faultRecordPost 0) s = s ∧ after (.eventRecordPost 0) s = s)
    ∧ (after (.remoteAccessTimeout 7) { lane1 with remotes := [remote0] }).dev.herq.length = 1
    ∧ ((after (.pgack 0 5) (tp (fun x => { x with pgreqs := [⟨5, 0, 0, none⟩] }))).part 0).pgreqs = []
    ∧ (let y := (after (.rply 0) (tp (fun x => { x with shoots := [⟨0, 1, true⟩], parked := [store0.acc] }))).part 0
       y.rplybusy = true ∧ y.rplyIds = [7])
    ∧ (let y := (after (.rply 0) (tp (fun x => { x with parked := [store0.acc] }))).part 0
       y.rplybusy = false ∧ y.parked = [])
    ∧ ((after (.shootDown 0 1) lane1).part 0).shoots = [⟨0, 1, true⟩]
    ∧ ((after (.shootDownComplete 0) (after (.shootDown 0 1) lane1)).part 0).sdbusy = false
    ∧ ((after (.ctack 0 0x501) (tp (fun x => { x with ctreqs := [⟨5, false, 1, 0, 1, ⟨0, 0, 0⟩, none, []⟩] }))).part 0).ctreqs.map (·.answer)
        = [some 1]
    ∧ (∀ k ∈ [4, 24], ((after (.ctkWrite 0 k) lane1).part 0).ctk = k) ∧ (∀ k ∈ [3, 25, 31], ((after (.ctkWrite 0 k) lane1).part 0).ctk = 0)
    ∧ (after (.loadDataReturn ⟨0, 0, 0⟩ 1 []) (tw lane1 (fun w => { w with inflight := [{ noEntry with dests := [.s 4], wlanes := 1, res := [VReg.splat ⟨7, true⟩] }] }))).w.rdS 4
        = ⟨7, true⟩
    ∧ ((after (.l2WriteBack 0 3) (tp (fun x => { x with l2 := [⟨3, true, 0, false, 0⟩] }))).part 0).l2 = [⟨3, false, 0, false, 0⟩] := by decide

/-- A queue of partition 0, known and enabled, mapped to slot 0, whose ring of zeros at IA 0 holds a NOP. -/
def queued : State :=
  { tp (fun x => { x with qtbase := 0xC000 }) with
    queues := [(0, { QRun.reset with known := true, en := true, k := 4, widx := 1 })]
    slots := [(0, { QSlot.reset with en := true, mapped := some 0 })] }

/-- QueueEvents: no queue, a queue outside and in Noon, ready and not, with a command of each of three kinds. -/
theorem test_ready_queue_events :
    lane1.queuePart 0 = 0 ∧ queued.queuePart 0 = 0 ∧ (queued.queue 0).ready = true ∧ queued.slotOf 0 = some 0
    ∧ (lane1.queue 0).ready = false ∧ (queued.queue 0).cmd = none
    ∧ (after (.qrfr 0 0) queued).parts = (after (.qrfr 0 0) queued).parts
    ∧ fieldAt (queued.command 0).2 0 4 = 0 ∧ cmdReserved (queued.command 0).2 = false
    ∧ ((after (.doorbellWrite 0 5) { queued with parts := [(0, { (queued.part 0) with power := .dusk })] }).part 0).notifyQ
        = [.doorbell 0 5]
    ∧ ((after (.doorbellWrite 0 5) { queued with parts := [(0, { (queued.part 0) with power := .dusk, notifyQ := List.replicate 255 (.doorbell 1 1) })] }).part 0).notifyQ.length
        = 256
    ∧ (after (.doorbellWrite 0 5) { queued with parts := [(0, { (queued.part 0) with power := .dusk, notifyQ := List.replicate 256 (.doorbell 1 1) })] }).dev.held
        = [.doorbellWrite 0 5]
    ∧ (after (.qrfr 0 0) (tp (fun x => { x with power := .eclipse }))).dev.held = [.qrfr 0 0]
    ∧ queued.unitsWait 0 = false ∧ ((after (.doorbellWrite 0 1) queued).queue 0).status = 0
    ∧ (∀ e ∈ [Instr.queueNop 0, .graph 0, .draw 0, .tlsig 0, .tlwaitc 0], after e lane1 = lane1) := by decide

def slot0 (x : QSlot) : State := { lane1 with slots := [(0, x)] }
def hard : QSlot := { QSlot.reset with period := 1024, budget := 512, ylead := 10 }

/-- SlotAndPlacementEvents: temperatures at and beside the threshold, admission at its bounds, a release that is due, a
yield request at its lead, and what has nothing to act on. -/
theorem test_ready_slot_events :
    ((after (.tempUpdate 3 95) lane1).core 3).hot = true ∧ ((after (.tempUpdate 3 94) lane1).core 3).hot = false
    ∧ ((after (.tempUpdate 3 91) (after (.tempUpdate 3 95) lane1)).core 3).hot = true
    ∧ ((after (.tempUpdate 3 90) (after (.tempUpdate 3 95) lane1)).core 3).hot = false
    ∧ ((after (.droopClear 3) (lane1.setCore 3 { (lane1.core 3) with droop := true, quiet := 65536 })).core 3).droop = false
    ∧ ((after (.droopClear 3) (lane1.setCore 3 { (lane1.core 3) with droop := true, quiet := 65535 })).core 3).droop = true
    ∧ (slot0 hard).admits 0 { hard with guar := true } = true ∧ (slot0 hard).admits 0 { hard with budget := 1025 } = false
    ∧ ((after (.admission 0 0xC0000007) (slot0 hard)).qslot 0).mapped = some 7
    ∧ ((after (.admission 0 0xC0000007) lane1).qslot 0).admerr = true
    ∧ ((after (.slotRelease 0) (slot0 { hard with en := true, guar := true })).qslot 0).dl = 1024
    ∧ ((after (.yieldRequest 0) (slot0 { hard with en := true, guar := true, rem := 10 })).qslot 0).yreq = true
    ∧ ((after (.yieldRequest 0) (slot0 { hard with en := true, guar := true, rem := 11 })).qslot 0).yreq = false
    ∧ ((after (.bestEffortMapping 0) { slot0 { QSlot.reset with en := true } with parts := [(0, { (lane1.part 0) with rr := [9] })] }).qslot 0).mapped
        = some 9
    ∧ lane1.gang? 5 = none ∧ lane1.stream? ⟨5, 0, 0⟩ = none ∧ (lane1.core 0).claims = [] ∧ (lane1.core 0).dead = [] ∧ (claimed.core 0).dead = []
    ∧ (after (.waveRetire ⟨0, 0, 0⟩) (tw lane1 (fun w => { w with halted := true }))).w.live = false
    ∧ (after (.grantPass 0) (tw claimed (fun w => { w with c := 8 }))).w.c = 260
    ∧ (let s := tw lane1 (fun w => { w with halted := true })
       s.evictable 0 placedGang = true ∧ s.partsHome 0 = true ∧ lane1.evictable 0 placedGang = false ∧ placedGang.chosen = false
        ∧ placedGang.leaving = false ∧ lane1.gang? 0 = some placedGang)
    ∧ (let s := tw (owing teamed) (fun w => { w with halted := true })
       s.evictable 0 placedGang = true ∧ s.partsHome 0 = false) := by decide

/-- A gang of no group, whose image is one page, and a partition whose area has `n`. -/
def bare : Gang := { placedGang with launch := { placedLaunch with ngrp := 0 }, groups := [], belay := none }
def room (n : Nat) (x : Gang) : State := { tp (fun y => { y with imgpg := n, imgbase := 0x100000 }) with gangs := [(5, x)] }

/-- SlotAndPlacementEvents: an eviction with room for the image and with none, and the head in Eclipse. -/
theorem test_ready_eviction :
    (∀ n ∈ [0, 1], (room n bare).evictable 5 bare = true ∧ (room n bare).partsHome 5 = true) ∧ bare.matrixDone = true
    ∧ after (.eviction 5) (room 0 bare) = room 0 bare
    ∧ (((after (.eviction 5) (room 1 bare)).gang? 5).map (fun x => (x.st, x.image))) = some (.evicted, some (0, 1))
    ∧ (((after (.eviction 5) (room 1 { bare with leaving := true })).gang? 5).map (fun x => (x.st, x.image))) = some (.evicted, some (0, 1))
    ∧ (((after (.eviction 5) (room 0 { bare with chosen := true, leaving := true })).gang? 5).map (fun x => (x.chosen, x.leaving)))
        = some (false, false)
    ∧ (let s := tp (fun x => { x with power := .eclipse })
       after (.headCycle 0) s = s) := by decide

/-- SlotAndPlacementEvents: a leaving gang under PSTOP, and a slot admitted in a cycle whose head it becomes. -/
theorem test_leaving_and_admission :
    (let s := tp (fun y => { y with pstop := true, imgpg := 1, imgbase := 0x100000 })
     let g : Gang := { bare with leaving := true }
     after (.eviction 5) { s with gangs := [(5, g)] } = { s with gangs := [(5, g)] })
    ∧ (let t := after (.admission 0 0xC0000000) { queued with slots := [(0, { hard with budget := 400, period := 1000 })] }
       ((t.qslot 0).head, (t.qslot 0).rem) = (true, 399)) := by decide

def doneReq : ReqDone := ⟨0, false, 0, 0, 0, 0, 0, 0⟩

/-- UnitEvents: an idle cluster, an engine context in each state, an MMERGE whose ticket has come and one that waits, a
grid with a wave to come, and a ray that is not a number. -/
theorem test_ready_unit_events :
    (lane1.cluster 0).intake = [] ∧ lane1.wantsFill 0 = none ∧ (lane1.cluster 0).runq = [] ∧ (lane1.cluster 0).draws = []
    ∧ (lane1.cluster 0).grids = [] ∧ (engine.eng 2).req = none ∧ (engine.eng 2).ridx = (engine.eng 2).widx
    ∧ ((after (.widxWrite 2 16) engine).eng 2).widx = 16 ∧ ((after (.widxWrite 2 17) engine).eng 2).stop = true
    ∧ ((after (.requestComplete 2) (engine.setEng 2 { (engine.eng 2) with cur := some doneReq, num := 9 })).eng 2).tl = 9
    ∧ (∀ e ∈ [Instr.engineCopy 2, .convert 2, .checksumCopy 2, .cairnLoad 2, .dedupCopy 2, .requestComplete 2], after e engine = engine)
    ∧ (let m : Merge := ⟨1, 3, 0, 0, 1, [0, 0x40000, 0], [0, 0x40000, 0], 1, 1, none⟩
       let s (t : Nat) := belay.setGang 0 { placedGang with groups := [{ placedGrp with mt := [t, 0, 0, 0] }, { placedGrp with mt := [t, 0, 0, 0], merges := [m] }] }
       (gAt (after (.mmergeApply 0 1 0) (s 3)) 0 1).mt = [4, 0, 0, 0] ∧ (gAt (after (.mmergeApply 0 1 0) (s 2)) 0 1).merges = [m])
    ∧ (after (.traceResult ⟨5, 0, 0⟩ 0) lane1) = lane1
    ∧ (lane1.cluster 0).bins = [] ∧ (lane1.cluster 0).wanted = [] ∧ (∀ k ∈ List.range 9, lane1.unitsWait k = false)
    ∧ (let dusk (n : Nat) : State := { engine with parts := [(0, { (engine.part 0) with power := .dusk, notifyQ := List.replicate n (.widx 1 1) })] }
       ((after (.widxWrite 2 16) (dusk 255)).part 0).notifyQ.length = 256 ∧ (after (.widxWrite 2 16) (dusk 256)).dev.held = [.widxWrite 2 16])
    ∧ (let job (x : Instr) := jobOf belay x 16 20 23 3
       let s (x : Instr) (c : Bool) := belay.setGang 0 { placedGang with leaving := c, belay := some { bl0 with flight := [job x] } }
       (∀ c ∈ [false, true], ((after (.matrixComplete 0 0) (s (.mma mb 16 20 23) c)).gang? 0).bind (fun g => g.belay.map (fun b => b.flight.length)) = some 0)
        ∧ after (.matrixComplete 0 0) (s (.mmae mb 16 20 23) true) = s (.mmae mb 16 20 23) true) := by decide

def dev0 (f : Dev → Dev) : State := { lane1 with dev := f lane1.dev }

/-- SystemEvents: power states and their entry, a notify write, resets, PMAP, host accesses, the Lantern's counts. -/
theorem test_ready_system_events :
    ((after (.notifyWrite 0 (.doorbell 1 2)) (tp (fun x => { x with power := .dusk }))).part 0).notifyQ = [.doorbell 1 2]
    ∧ ((after (.wakeToNoon 0) (tp (fun x => { x with power := .dusk, waking := true }))).part 0).power = .noon
    ∧ powerFor 999 false = .noon ∧ powerFor 1000 false = .dusk ∧ powerFor 40000 false = .umbra ∧ powerFor 1500000 false = .eclipse
    ∧ powerFor 1500000 true = .umbra
    ∧ ((after (.coreReset 3) (lane1.setCore 3 { (lane1.core 3) with hot := true })).core 3).hot = false
    ∧ ((after (.firmwareRegisterWrite (.part 0 .plctl) 0x100A) lane1).part 0).hott = 60
    ∧ ((after (.firmwareRegisterWrite (.part 0 .plctl) 0x0FF) lane1).part 0).hott = 105
    ∧ ((after (.firmwareRegisterWrite (.part 0 .plctl) 0x0FF) lane1).part 0).hyst = 1
    ∧ ((after (.firmwareRegisterWrite (.part 0 .plctl) 0x0FF) lane1).part 0).drpen = false
    ∧ (after (.hostBar2Access 0 0x10 (.write [7])) lane1).mem = Mem.write lane1.mem 0x5010 7
    ∧ (after (.hostBar2Access 0 0 (.read 2)) lane1).dev.hostReads = [[0, 0]]
    ∧ lane1.hostBusy = false ∧ lane1.extHeld 0 0 2 = false ∧ (let u := lane1.reachExt 0 (.hostBar2Access 0 0 (.read 2)) 0 2; u.2.any (u.1.lineWaits 0) = false) ∧ lane1.hostWaits [0] = false
    ∧ ((after (.hostBar2Access 0 0x10 (.write [7])) (tp (fun x => { x with power := .eclipse }))).part 0).notifyQ = [.mem 0x10 [7]]
    ∧ (let s := tp (fun x => { x with power := .dusk, notifyQ := [.doorbell 1 2] })
       s.hostBusy = true ∧ s.hostWaits [0] = false ∧ s.hostWaits [1] = true
        ∧ ((after (.hostBar2Access 0 0x10 (.write [7])) s).part 0).notifyQ = [.doorbell 1 2, .mem 0x10 [7]])
    ∧ (after (.hostBar2Access 0 0 (.read 2)) (tp (fun x => { x with power := .eclipse }))).dev.held.length = 1
    ∧ (after (.beaconMissed 1) (dev0 (fun d => { d with neigh := [(1, ⟨true, 2, 8, false⟩)] }))).dev.sentResets.map (·.1) = [1]
    ∧ (after .beaconSend (dev0 (fun d => { d with neigh := [(1, ⟨true, 2, 8, false⟩), (2, ⟨true, 2, 8, true⟩)], kick := 999 }))).inbox
        = [.beaconMissed 1, .watchdogExpiry]
    ∧ (after .beaconSend (dev0 (fun d => { d with kick := 998 }))).inbox = []
    ∧ (lane1.part 0).import 3 0 4 true = none
    ∧ (after (.incomingRemoteAccess 0 3 0 (.write [1])) lane1).dev.fabricReads = [none]
    ∧ (tp (fun x => { x with windows := [(0, ⟨3, 0x100, 64, 0x10, true⟩)] })).dev = lane1.dev
    ∧ ((tp (fun x => { x with windows := [(0, ⟨3, 0x100, 64, 0x10, true⟩)] })).part 0).import 3 0x100 4 false = some 0x110
    ∧ (lane1.part 0).notifyQ = [] ∧ ((after (.firmwareRegisterWrite (.part 0 .pctl) 0x80000000) lane1).part 0).prst = true
    ∧ ((after (.partitionReset 0) (tp (fun x => { x with prst := true }))).part 0).prst = false
    ∧ (after .watchdogExpiry lane1).dev.herq.length = 1 ∧ (after .lockstepMismatch lane1).dev.fw = .stopped
    ∧ (after .fwctlRestart (dev0 (fun d => { d with fw := .minimal, fails := 3 }))).dev.fails = 0
    ∧ (after .fwctlRestart (dev0 (fun d => { d with fw := .stopped }))).dev.fw = .running
    ∧ (after .fwctlRestart (dev0 (fun d => { d with fw := .failed }))).dev.fw = .failed
    ∧ (after (.boot [] [] 1) (dev0 (fun d => { d with fw := .stopped }))).dev.fails = 0
    ∧ (after (.boot [] [] 1) lane1).dev.fw = .failed
    ∧ (after (.incomingRemoteAccess 0 3 0x100 (.write [9])) (tp (fun x => { x with windows := [(0, ⟨3, 0x100, 64, 0x10, false⟩)] }))).dev.fabricReads
        = [some []]
    ∧ (after (.firmwareRegisterWrite (.memory 8 [1]) 0) (tp (fun x => { x with power := .eclipse }))).dev.held
        = [.firmwareRegisterWrite (.memory 8 [1]) 0]
    ∧ (after .firmwareReady lane1).dev.ready = true
    ∧ (lane1.pmapOk 0x00000000 = false) ∧ (after (.pmapWrite 0) lane1).dev.pmapErr = true := by decide

/-- SystemEvents and UnitEvents: writes to the doorbell aperture of a sleeping partition are latched and start its exit, a read of
BAR4 answers, and a WIDX write waits for firmware's earlier one. -/
theorem test_aperture :
    (let s := tp (fun x => { x with power := .eclipse, dbbase := 0x40, windows := [(0, ⟨3, 0x40, 64, 0, false⟩)] })
     (s.part 0).inAperture 0x48 4 = true ∧ (s.part 0).import 3 0x48 4 true = some 0x48
      ∧ (let y := (after (.hostBar2Access 0 0x48 (.write [1, 0, 0, 0])) s).part 0
         y.notifyQ = [.mem 0x48 [1, 0, 0, 0]] ∧ y.waking = true)
      ∧ (let y := (after (.incomingRemoteAccess 0 3 0x48 (.write [1, 0, 0, 0])) s).part 0
         y.notifyQ = [.fab 0x48 [1, 0, 0, 0]] ∧ y.waking = true))
    ∧ lane1.bellBusy 8 4 = false ∧ (after (.hostBar2Access 0 8 (.bellRead 4)) lane1).dev.hostReads.map List.length = [4]
    ∧ (let s := dev0 (fun d => { d with held := [.firmwareRegisterWrite (.memory 8 [1]) 0] })
       (after (.widxWrite 2 16) s).dev.held.length = 2) := by decide

/-- SystemEvents: the register windows. A register reads its fields in their places and 0 where it is reserved (R6, R416,
R417), an offset that holds none reads 0 (R415), and a word of BAR4 is a doorbell (R414). -/
theorem test_windows :
    (let read (s : State) (off n : Nat) := (after (.hostBar2Access 0 off (.winRead n)) s).dev.hostReads
     read (tp (fun x => { x with pstop := true, power := .umbra })) 0x1000000 12 = [[0, 0, 0, 0x40, 0, 0, 0, 0, 2, 0, 0, 0]]
      ∧ read lane1 0x1000080 4 = [[95, 0x15, 0, 0]] ∧ read lane1 0x1000040 4 = [[0, 0, 0, 0]] ∧ read lane1 0x100013A 2 = [[0, 0]] ∧ read lane1 0x1000217 1 = [[0]] ∧ read lane1 0x10 8 = [[0x88, 0x88, 0x88, 0x88, 0, 0, 0, 0]]
      ∧ read lane1 0x80 4 = [[0xE8, 3, 0, 0]])
    ∧ ((after (.hostBar2Access 0 0x1000088 (.winWrite (leBytes 8 7))) lane1).part 0).pslice = 7
    ∧ (∀ k, k < 8 → (lane1.winAt (0x1000040 + k)).isNone = true)
    ∧ lane1.winAt 0x100013A = some (.part 0 .qrfr, 2) ∧ lane1.winAt 0x1000217 = some (.part 0 .ctack, 7)
    ∧ ((after (.hostBar2Access 0 20 (.bellWrite [9, 0, 0, 0])) lane1).queue 5).widx = 9
    ∧ lane1.hostBusy = false ∧ ({ lane1 with dev := { lane1.dev with held := [.hostBar2Access 0 0 (.read 1)] } }).hostBusy = true := by decide

/-! What the statements say of further forms and orders. -/

/-- BarrierYieldAndHalt: a belay stream that is quiet, with and without a recorded fault, and one that is not; a team at its boundary
and one that is not; and a latched copy error. -/
theorem test_ready_halt :
    (∀ s ∈ [belay, teamed, owing teamed], s.clear (.halt h0) = true ∧ s.w.trapWaits = [] ∧ s.w.owedError = none)
    ∧ placedGang.quiet bl0 = true ∧ placedGang.quiet { bl0 with pend := List.replicate 16 1 } = false ∧ bl0.delivery = none
    ∧ belay.w.belay = true ∧ belay.w.errs = [] ∧ (after (.halt h0) belay).w.halted = true
    ∧ (after (.halt h0) (belay.onBelay 0 (fun b => { b with fault := some ⟨.matfault, 0, 0, 0, 0, 0, 0⟩ }))).w.xcause = 18
    ∧ (after (.halt h0) (owing teamed)).w.wait = .busy ∧ (after (.halt h0) teamed).w.halted = true
    ∧ (after (.halt h0) (tw lane1 (fun w => { w with errs := [⟨false, .bufrange, 0, none, 0, 0, false⟩] }))).w.xcause = 11 := by decide

/-- ADDSAT of 8 and 16 bits at both ends (R110), whose operands are the low bits of their words (R71); and the counts and fields of 64
bits (R112, R113). -/
theorem test_narrow_and_wide :
    let v (x : Nat) : Val := ⟨BitVec.ofNat 64 x, true⟩
    (addsatF .i8 false 0 (v 0x17F) (v 1) (v 0)).out = v 0x7F ∧ (addsatF .i8 true 0 (v 0x80) (v 1) (v 0)).out = v 0xFFFFFF80
    ∧ (addsatF .n16 false 0 (v 0xFFFF) (v 1) (v 0)).out = v 0xFFFF ∧ (addsatF .n8 true 0 (v 1) (v 2) (v 0)).out = v 0
    ∧ (ctzF .b64 0 (v 0) (v 0) (v 0)).out = v 64 ∧ (clzF .b64 0 (v 1) (v 0) (v 0)).out = v 63
    ∧ (bfeF .b64 true 0 (v 0x8000000000000000) (v 0x0838) (v 0)).out = v 0xFFFFFFFFFFFFFF80
    ∧ (shlF .b64 0 (v 1) (v 64) (v 0)).out = v 0 := by decide

/-- `lane1` whose first range lies on node 3. -/
def distant : State := { lane1 with mem := Mem.writeN lane1.mem 0x8018 (leBytes 8 (8 + 3 * 2 ^ 16)) }

/-- Tickets: a word of another node is asked for, awaited, and its failure raised. -/
theorem test_remote_ticket :
    let x : Instr := .tkwait h0 6 4 (.i 5) .device
    let s := ts distant 4 ⟨0x10, true⟩
    let lost : CopyErr := ⟨false, .dataerr, 0x10, none, wordOf x, 0, false⟩
    s.clear x = true ∧ (match s.ticketAcc 4 false with
      | .inl acc => !acc.remoteIas.isEmpty && acc.localIas.isEmpty && ((s.sendReached [acc]).blockers false [acc]).isEmpty
      | .inr _ => false) = true
    ∧ s.ticketAsk x 0x10 5 = .unasked ∧ (after x s).ticketAsk x 0x10 5 = .asked
    ∧ (after x s).w.wait = .tkwait 0x10 5 ∧ (after x s).remotes.length = 1
    ∧ (tw s (fun w => { w with wait := .tkwait 0x10 5 })).ticketAsk x 0x10 5 = .answered
    ∧ (tw s (fun w => { w with errs := [lost] })).ticketAsk x 0x10 5 = .failed lost
    ∧ (after x (tw s (fun w => { w with errs := [lost] }))).w.xcause = 10 := by decide

/-- GlobalStoresComplete: a store that a release orders behind a remote access that failed, and one that it does not. -/
theorem test_late_store :
    let e (due : Bool) : CopyErr := ⟨true, .dataerr, 0x10, none, 0, 0, due⟩
    let s (due : Bool) := tw lane1 (fun w => { w with errs := [e due] })
    (∀ d ∈ [false, true], (s d).clear (.sts (m0 .i32 (.i 5))) = true ∧ (s d).w.owedError = none)
    ∧ (match lane1.plan (lane1.va (memForm (m0 .i32 (.i 5)))) 1 4 true with
        | .ok as => lane1.fenceActs as && (lane1.blockers true as).isEmpty
        | .fault _ _ => false) = true
    ∧ (after (.sts (m0 .i32 (.i 5))) (s true)).w.xcause = 10 ∧ (after (.sts (m0 .i32 (.i 5))) (s true)).mem = lane1.mem
    ∧ Mem.read (after (.sts (m0 .i32 (.i 5))) (s false)).mem 0x5010 = 5 := by decide

/-- A weight set of one layer, of one weight, in the table of the context; it lies at IA 0x100. -/
def stocked : State :=
  let img := leBytes 4 0x57534E31 ++ leBytes 4 1 ++ leBytes 4 40 ++ leBytes 4 0 ++ leBytes 4 0 ++ leBytes 4 32 ++ leBytes 4 33 ++ leBytes 4 36
    ++ [0x38, 127, 0, 0, 0, 0, 0, 0]
  { lane1 with mem := Mem.writeN (Mem.writeN (Mem.writeN lane1.mem 0x8100 (leBytes 8 0x200 ++ leBytes 4 1))
      0x5200 (leBytes 8 0x100 ++ leBytes 4 0 ++ leBytes 4 1)) 0x5100 img }

/-- WeightSetInstructions: a set that is none, and one that is filled and pinned, or filled only. -/
theorem test_fill :
    lane1.fillWaits [0] = [] ∧ (lane1.fillSet 0 0 0 0).2 = .status 1 ∧ (after (.wpin h0 4 (.i 0)) lane1).w.rdS 4 = ⟨1, true⟩
    ∧ (∀ x ∈ [Instr.wpin h0 4 (.i 0), .wpref h0 (.i 0)], stocked.clear x = true) ∧ stocked.unitsWait 0 = false
    ∧ (match (stocked.readSet 0 0 0).2 with
        | .img b ia => b.length == 40 && ia == 0x100
        | _ => false) = true
    ∧ (after (.wpin h0 4 (.i 0)) stocked).w.rdS 4 = ⟨0, true⟩
    ∧ (((after (.wpin h0 4 (.i 0)) stocked).cluster 0).set? 0 0).map (fun y => (y.pin, y.size)) = some (1, 128)
    ∧ (((after (.wpref h0 (.i 0)) stocked).cluster 0).set? 0 0).map (·.pin) = some 0
    ∧ (stocked.setCluster 0 { (lane1.cluster 0) with cache := [{ wset with image := List.replicate 2097152 0 }] }).fillWaits [0] = [] := by
  decide

/-- MergesAndStatus: a tile merged into its own group, where the two do not overlap and where they do. -/
theorem test_merge_in_place :
    let s := ts (ts (ts (ts (ts belay 24 ⟨0, true⟩) 20 ⟨64, true⟩) 21 ⟨4 * 2 ^ 16, true⟩) 22 ⟨0, true⟩) 12 ⟨0, true⟩
    s.clear (.mmerge mb 16 20 24) = true ∧ (gAt (after (.mmerge mb 16 20 24) s) 0 0).merges.map (fun k => (k.src, k.dst)) = [(0, 0)]
    ∧ (after (.mmerge mb 16 16 24) s).w.xcause % 256 = 17 := by decide

/-- AtomicsIssue: two lanes on one word, one after another. -/
theorem test_atomic_lanes :
    let s := tw (tv { lane1 with mem := Mem.writeN lane1.mem 0x5010 [5] } 6 ⟨2, true⟩) (fun w => w.setExec 3)
    let t := after (.atom (a0 .n32 (.v 6)) .add) s
    Mem.readN t.mem 0x5010 4 = [9, 0, 0, 0]
    ∧ ((List.range 2).map (fun l => ((t.w.flight.headD noEntry).res.getD 0 []).getD l RWord.none)) = [⟨5, true⟩, ⟨7, true⟩] := by decide

/-- SystemEvents and UnitEvents: a doorbell of the host stores its word; a partial write of a register and a doorbell are latched out of
Noon; firmware's register write waits behind its held memory write; and an engine of a partition in Eclipse is held. -/
theorem test_late_writes :
    Mem.readN (after (.hostBar2Access 0 8 (.bellWrite [1, 2, 0, 0])) (tp (fun x => { x with dbbase := 0x40 }))).mem 0x5048 4 = [1, 2, 0, 0]
    ∧ ((after (.hostBar2Access 0 0x1000088 (.winWrite [7])) (tp (fun x => { x with power := .dusk }))).part 0).notifyQ = [.win 0x1000088 [7]]
    ∧ ((after (.hostBar2Access 0 20 (.bellWrite [9, 0, 0, 0])) (tp (fun x => { x with power := .dusk }))).part 0).notifyQ = [.bell 5 9]
    ∧ (let s := dev0 (fun d => { d with held := [.firmwareRegisterWrite (.memory 8 [1]) 0] })
       s.fwOwes = true ∧ lane1.fwOwes = false
        ∧ (after (.firmwareRegisterWrite (.part 0 .ptroot) 0x2000) s).dev.held.length = 2
        ∧ ((after (.firmwareRegisterWrite (.part 0 .ptroot) 0x2000) s).part 0).ptroot = 0x1000)
    ∧ lane1.engHeld 0 = false ∧ (tp (fun x => { x with power := .eclipse })).engHeld 0 = true
    ∧ ((after (.ctack 0 0x501) (tp (fun x => { x with power := .eclipse, ctreqs := [⟨5, false, 1, 0, 1, ⟨0, 0, 0⟩, none, []⟩] }))).part 0).ctreqs.map (·.answer)
        = [none] := by decide

/-- The machine as a whole: a placed word's bytes stand at its PC, its stream can take the turn, the memories are in
canonical form, and the words of the encodings are the encoder's. -/
theorem test_step :
    (let s := State.reset.withFetchWord 96 0
     s.inbox = [] ∧ (s.select ⟨0, 0, 0⟩ none).isSome = true ∧ s.w.partStops = false
      ∧ s.readHeld 0 0 = false ∧ s.readHeld 0 11 = false ∧ s.w.failedEntry = none ∧ s.w.pcNow = 0 ∧ s.region = (0, 12)
      ∧ (∀ k, k < 12 → s.peek 0 k = some 0) ∧ s.memOk = true)
    ∧ (Instr.add (ln .i32)).wf = true ∧ (encode (.add (ln .i32))).isSome = true ∧ State.reset.memOk = true
    ∧ (let s := tw helping (fun w => { w with team := w.team.map (fun t => { t with parts := t.parts.map (fun p => { p with stopping := true }) }) })
       s.w.partStops = true)
    ∧ ((tp (fun x => { x with shoots := [⟨0, 1, true⟩] })).part 0).held 0 = true
    ∧ (match step (State.reset.withFetchWord 96 0) with | .next t => t.w.pc == 12 | _ => false) = true
    ∧ (let s := State.reset.withFetchWord 96 0
       s.fetchNote = s ∧ (match (s.select ⟨0, 0, 0⟩ none), (s.xlate 0 0).2 with
        | some t, .leaf l =>
          let u := { t with ecc := [l.frame + 3] }
          u.fetchNote.dev.herq.length == 1 && u.fetchNote.fetchNote.dev.herq.length == 1
        | _, _ => false) = true) := by decide

end Sys2Proof.Tests
end

section
/-! SUPPORT. What the accesses of a partition leave of its registers: they change its caches, its waiting accesses, its records
and its rollup, and nothing else; and so what its reset and its wake make of it. -/

namespace Sys2Proof.Machine

/-- A partition without what its accesses change: its caches, its parked accesses, its records, its rollup and its shoot-downs. -/
def Partn.fixed (x : Partn) : Partn :=
  { x with
    parkSeq := 0, parked := [], parkWait := [], faultQ := [], eventQ := [], shoots := [], mtu := [], ptrs := [], l2 := [],
    rollup := [] }

/-- What no access changes of each partition. -/
def State.fixedParts (s : State) (p : Nat) : Partn := (s.part p).fixed

theorem State.notifyQ_of_fixedParts {s t : State} (h : t.fixedParts = s.fixedParts) (p : Nat) :
    (t.part p).notifyQ = (s.part p).notifyQ :=
  show (t.fixedParts p).notifyQ = (s.fixedParts p).notifyQ by rw [h]

theorem State.part_setPart (s : State) (p : Nat) (x : Partn) : (s.setPart p x).part p = x := Tab.get_set_same _ _ _ _

theorem State.fixedParts_setPart {s : State} {p : Nat} {x : Partn} (h : x.fixed = (s.part p).fixed) :
    (s.setPart p x).fixedParts = s.fixedParts := by
  funext k
  by_cases hk : k = p
  · subst hk
    exact (congrArg Partn.fixed (s.part_setPart k x)).trans h
  · exact congrArg Partn.fixed (Tab.get_set_other Partn.reset s.parts x hk)

theorem State.part_of_parts {s t : State} (h : t.parts = s.parts) (p : Nat) : t.part p = s.part p :=
  congrArg (Tab.get Partn.reset · p) h

theorem State.fixedParts_of_parts {s t : State} (h : t.parts = s.parts) : t.fixedParts = s.fixedParts :=
  funext fun p => congrArg Partn.fixed (part_of_parts h p)

/-- A fold keeps what each of its steps keeps. -/
theorem State.foldl_fixedParts {α : Type} {f : State → α → State} (h : ∀ s a, (f s a).fixedParts = s.fixedParts) (l : List α)
    (s : State) : (l.foldl f s).fixedParts = s.fixedParts := by
  induction l generalizing s with
  | nil => rfl
  | cons a l ih => exact (ih (f s a)).trans (h s a)

/-! Records and translation. -/

@[simp] theorem State.event_fixedParts (s : State) (p kind : Nat) (body : List Byte) :
    (s.event p kind body).fixedParts = s.fixedParts := fixedParts_setPart rfl

@[simp] theorem State.fault_fixedParts (s : State) (p : Nat) (r : List Byte) : (s.fault p r).fixedParts = s.fixedParts :=
  fixedParts_setPart rfl

@[simp] theorem State.hostError_fixedParts (s : State) (cls p : Nat) (unit : Config.HwUnit) (ctx addr count : Nat) :
    (s.hostError cls p unit ctx addr count).fixedParts = s.fixedParts := event_fixedParts _ _ _ _

@[simp] theorem State.physNote_fixedParts (s : State) (p ctx pa n : Nat) : (s.physNote p ctx pa n).fixedParts = s.fixedParts :=
  physNote_acc State.fixedParts hostError_fixedParts s p ctx pa n

@[simp] theorem State.dramError_fixedParts (s : State) (p ctx ia : Nat) : (s.dramError p ctx ia).fixedParts = s.fixedParts := by
  unfold State.dramError
  extract_lets pa
  split <;> exact hostError_fixedParts _ _ _ _ _ _ _

@[simp] theorem State.walkNote_fixedParts (s : State) (p ia : Nat) : (s.walkNote p ia).fixedParts = s.fixedParts := by
  unfold State.walkNote
  split
  · rfl
  · exact foldl_fixedParts (fun s a => s.physNote_fixedParts p 0 a 8) _ s

@[simp] theorem State.xlate_fixedParts (s : State) (p ia : Nat) : (s.xlate p ia).1.fixedParts = s.fixedParts := by
  unfold State.xlate
  dsimp only
  split
  · rfl
  · split
    · refine (fixedParts_setPart ?_).trans (s.walkNote_fixedParts p ia)
      split <;> rfl
    · exact Eq.trans (fixedParts_setPart rfl) (s.walkNote_fixedParts p ia)

/-! The lines of the L2. -/

@[simp] theorem State.writeBack_fixedParts (s : State) (p line : Nat) : (s.writeBack p line).fixedParts = s.fixedParts := by
  unfold State.writeBack
  dsimp only
  split
  · rfl
  · split <;> exact fixedParts_setPart rfl

@[simp] theorem State.l2Room_fixedParts (s : State) (p line : Nat) : (s.l2Room p line).fixedParts = s.fixedParts := by
  unfold State.l2Room
  split
  · rfl
  · dsimp only
    split
    · rfl
    next v _ => exact Eq.trans (fixedParts_setPart rfl) (s.writeBack_fixedParts p v.line)

@[simp] theorem State.touchLine_fixedParts (s : State) (p line : Nat) (l : Leaf) (write : Bool) :
    (s.touchLine p line l write).1.fixedParts = s.fixedParts := by
  unfold State.touchLine
  dsimp only
  split
  · split
    · exact fixedParts_setPart rfl
    · rfl
  · exact Eq.trans (fixedParts_setPart rfl) (s.l2Room_fixedParts p line)

@[simp] theorem State.addCount_fixedParts (s : State) (p n k : Nat) : (s.addCount p n k).fixedParts = s.fixedParts := by
  unfold State.addCount
  dsimp only
  split <;> exact s.physNote_fixedParts p _ _ 16

@[simp] theorem State.bump_fixedParts (s : State) (p n k : Nat) : (s.bump p n k).fixedParts = s.fixedParts := by
  unfold State.bump
  split
  · exact Eq.trans (fixedParts_setPart rfl) (s.addCount_fixedParts p n k)
  · rfl

@[simp] theorem State.flushL2_fixedParts (s : State) (p : Nat) : (s.flushL2 p).fixedParts = s.fixedParts := by
  have h := foldl_fixedParts (fun (s : State) (e : L2Line) => s.writeBack_fixedParts p e.line)
    ((s.part p).l2.filter (fun e => e.dirty)) s
  exact Eq.trans (fixedParts_setPart rfl) h

/-! Accesses that perform, park or are held. -/

@[simp] theorem State.l1After_parts (s : State) (agent : Agent) (ctx ia : Nat) (l : Leaf) (stored : Option (List Host.Cell)) :
    (s.l1After agent ctx ia l stored).parts = s.parts := by
  have hlearn (t : State) (core : Nat) : (t.learnKind core ctx ia l).parts = t.parts := by
    unfold State.learnKind
    dsimp only
    split <;> rfl
  unfold State.l1After
  split
  · split
    · rfl
    · rw [hlearn]
      split <;> rfl
  all_goals rfl

@[simp] theorem State.l1After_fixedParts (s : State) (agent : Agent) (ctx ia : Nat) (l : Leaf)
    (stored : Option (List Host.Cell)) : (s.l1After agent ctx ia l stored).fixedParts = s.fixedParts :=
  fixedParts_of_parts (s.l1After_parts agent ctx ia l stored)

@[simp] theorem State.writeLine_fixedParts (s : State) (p line : Nat) (l : Leaf) (bs : List Host.Cell) :
    (s.writeLine p line l bs).fixedParts = s.fixedParts := by
  have h := foldl_fixedParts (f := fun (s : State) (b : Host.Cell) => { s with mem := Mem.write s.mem (l.frame + b.1 % 4096) b.2 })
    (fun _ _ => rfl) bs (s.touchLine p line l true).1
  exact (bump_fixedParts _ _ _ _).trans (h.trans (s.touchLine_fixedParts p line l true))

@[simp] theorem State.mergeLine_fixedParts (s : State) (p line : Nat) (l : Leaf) (us : List UpdSlot) :
    (s.mergeLine p line l us).fixedParts = s.fixedParts := by
  have h := foldl_fixedParts (fun (s : State) (u : UpdSlot) => s.dramError_fixedParts p u.ctx u.ia) (us.filter (s.slotBad l)) s
  unfold State.mergeLine
  dsimp only
  split
  · exact (touchLine_fixedParts _ _ _ _ _).trans h
  · refine (bump_fixedParts _ _ _ _).trans ?_
    refine (foldl_fixedParts ?_ _ _).trans ((touchLine_fixedParts _ _ _ _ _).trans h)
    exact fun _ _ => rfl

@[simp] theorem State.performOp_fixedParts (s : State) (p : Nat) (agent : Agent) (ctx ia : Nat) (l : Leaf) (op : ParkOp) :
    (s.performOp p agent ctx ia l op).fixedParts = s.fixedParts := by
  unfold State.performOp
  dsimp only
  split
  · rfl
  · exact (l1After_fixedParts _ _ _ _ _ _).trans (s.writeLine_fixedParts p (ia / 128) l _)
  · refine (foldl_fixedParts ?_ _ _).trans (s.touchLine_fixedParts p (ia / 128) l true)
    exact fun _ _ => rfl
  · exact (l1After_fixedParts _ _ _ _ _ _).trans (s.mergeLine_fixedParts p (ia / 128) l _)
  all_goals rfl

@[simp] theorem State.atomicAt_fixedParts (s : State) (p : Nat) (l : Leaf) (ia n : Nat) (f : Nat → Option Nat) :
    (s.atomicAt p l ia n f).1.fixedParts = s.fixedParts := by
  unfold State.atomicAt
  dsimp only
  split
  · rfl
  · split
    · exact (bump_fixedParts _ _ _ _).trans (s.touchLine_fixedParts p (ia / 128) l true)
    · exact s.touchLine_fixedParts p (ia / 128) l false

@[simp] theorem State.park_fixedParts (s : State) (p : Nat) (a : Parked) (r : Walk) (write : Bool) :
    (s.park p a r write).fixedParts = s.fixedParts := by
  unfold State.park
  dsimp only
  split
  · exact (fault_fixedParts _ _ _).trans (fixedParts_setPart rfl)
  · exact fixedParts_setPart rfl

@[simp] theorem State.parkNew_fixedParts (s : State) (p : Nat) (agent : Agent) (ctx ia : Nat) (op : ParkOp) (r : Walk)
    (write : Bool) : (s.parkNew p agent ctx ia op r write).1.fixedParts = s.fixedParts := by
  unfold State.parkNew
  dsimp only
  split
  · exact fixedParts_setPart rfl
  · exact park_fixedParts _ _ _ _ _

@[simp] theorem State.arrive_fixedParts (s : State) (p : Nat) (agent : Agent) (ctx ia : Nat) (op : ParkOp) :
    (s.arrive p agent ctx ia op).1.fixedParts = s.fixedParts := by
  have hx := s.xlate_fixedParts p ia
  have hpark := (parkNew_fixedParts _ p agent ctx ia op (s.xlate p ia).2 true).trans hx
  unfold State.arrive
  dsimp only
  split
  · rfl
  · split
    · split
      · exact hpark
      · split <;> exact hx
    · exact hpark

@[simp] theorem State.deliver_fixedParts (s : State) (p : Nat) (agent : Agent) (ctx ia : Nat) (op : ParkOp) :
    (s.deliver p agent ctx ia op).1.fixedParts = s.fixedParts := by
  have harrive := s.arrive_fixedParts p agent ctx ia op
  unfold State.deliver
  dsimp only
  split
  · exact (performOp_fixedParts _ _ _ _ _ _ _).trans harrive
  · exact harrive

@[simp] theorem State.sendLine_fixedParts (s : State) (p core line : Nat) : (s.sendLine p core line).fixedParts = s.fixedParts := by
  unfold State.sendLine
  dsimp only
  split
  · rfl
  · exact deliver_fixedParts _ _ _ _ _ _

@[simp] theorem State.performed_parts (s : State) (agent : Agent) (id : Nat) (f : Entry → Entry) :
    (s.performed agent id f).parts = s.parts := by
  have hset (x : Wave) : (s.setStream x).parts = s.parts := by
    unfold State.setStream
    split <;> rfl
  have hon (w : WaveId) (g : Wave → Wave) : (s.onStream w g).parts = s.parts := by
    unfold State.onStream
    split
    · exact hset _
    · rfl
  unfold State.performed
  split
  · exact hon _ _
  · rfl

@[simp] theorem State.fabReply_parts (s : State) (n : Nat) (r : AtomRes) : (s.fabReply n r).parts = s.parts := by
  unfold State.fabReply
  dsimp only
  split <;> rfl

@[simp] theorem State.performed_fixedParts (s : State) (agent : Agent) (id : Nat) (f : Entry → Entry) :
    (s.performed agent id f).fixedParts = s.fixedParts := fixedParts_of_parts (s.performed_parts agent id f)

@[simp] theorem State.fabReply_fixedParts (s : State) (n : Nat) (r : AtomRes) : (s.fabReply n r).fixedParts = s.fixedParts :=
  fixedParts_of_parts (s.fabReply_parts n r)

@[simp] theorem State.serveRead_fixedParts (s : State) (p : Nat) (a : Parked) (l : Leaf) :
    (s.serveRead p a l).fixedParts = s.fixedParts := s.touchLine_fixedParts p (a.ia / 128) l false

/-- An access that is retried performs, parks again or is held, and none of these changes a register of a partition. -/
@[simp] theorem State.retry_fixedParts (s : State) (p : Nat) (a : Parked) : (s.retry p a).fixedParts = s.fixedParts := by
  have hx := s.xlate_fixedParts p a.ia
  unfold State.retry
  extract_lets write r again
  split
  case h_1 => exact (park_fixedParts _ _ _ _ _).trans hx
  case h_2 l _ =>
    have hwrite := (r.1.performOp_fixedParts p a.agent a.ctx a.ia l a.op).trans hx
    split
    · exact (park_fixedParts _ _ _ _ _).trans hx
    · split
      · exact hx
      · split
        case h_1 => exact (serveRead_fixedParts _ _ _ _).trans hx
        case h_5 op _ _ _ _ =>
          extract_lets t s1
          have hatom : t.1.fixedParts = s.fixedParts := (r.1.atomicAt_fixedParts p l a.ia _ _).trans hx
          have hs1 : s1.fixedParts = s.fixedParts := by
            refine (l1After_fixedParts _ _ _ _ _ _).trans ?_
            split
            · exact (dramError_fixedParts _ _ _ _).trans hatom
            · exact hatom
          split
          · exact (fabReply_fixedParts _ _ _).trans hs1
          · exact (performed_fixedParts _ _ _ _).trans hs1
        all_goals
          extract_lets t
          split <;> exact hwrite

/-! The reset of a partition (R422). -/

@[simp] theorem State.settleLines_fixedParts (s : State) (p : Nat) : (s.settleLines p).fixedParts = s.fixedParts := by
  have hline (c : Nat) (s : State) (ln : Nat) :
      (if Config.resetPerforms s.fresh then s.tick.sendLine p c ln else s.tick).fixedParts = s.fixedParts := by
    split
    · exact s.tick.sendLine_fixedParts p c ln
    · rfl
  unfold State.settleLines
  refine foldl_fixedParts (fun s c => ?_) _ s
  split
  · exact foldl_fixedParts (hline c) _ s
  · rfl

@[simp] theorem State.settleAccesses_fixedParts (s : State) (p : Nat) : (s.settleAccesses p).fixedParts = s.fixedParts := by
  unfold State.settleAccesses
  extract_lets x s0 s1 s2 s3 s4
  have h1 : s1.fixedParts = s.fixedParts := fixedParts_setPart (s := s) (p := p) rfl
  have h2 : s2.fixedParts = s1.fixedParts := foldl_fixedParts (retry_fixedParts · p ·) _ s1
  have h3 : s3.fixedParts = s2.fixedParts := foldl_fixedParts (fun s (h : HeldStore) => s.retry_fixedParts p h.acc) _ s2
  have h4 : s4.fixedParts = s3.fixedParts := s3.settleLines_fixedParts p
  exact Eq.trans (fixedParts_setPart rfl) (h4.trans (h3.trans (h2.trans h1)))

/-- With nothing latched there is nothing latched to settle. -/
theorem State.settleLatched_fixedParts {s : State} {p : Nat} (h : (s.part p).notifyQ = []) :
    (s.settleLatched p).fixedParts = s.fixedParts := by
  have hq : s.settleLatched p = s.setPart p { (s.part p) with notifyQ := [] } := by
    unfold State.settleLatched
    rw [h]
    rfl
  rw [hq]
  exact fixedParts_setPart (by simp only [Partn.fixed, h])

theorem State.dropStreams_parts (s : State) (f : Wave → Bool) : (s.dropStreams f).parts = s.parts := rfl
theorem State.dropGangs_parts (s : State) (f : Gang → Bool) : (s.dropGangs f).parts = s.parts := rfl

/-- Every access of a partition has performed or is discarded, and its caches are empty: the first part of its reset. -/
def State.settled (s : State) (p : Nat) : State := (((s.settleLatched p).settleAccesses p).dropL1s p).flushL2 p

/-- What is reset has the registers of reset; its records, what is latched for it and its import windows stay (R422). -/
theorem State.resetPart_part (s : State) (p : Nat) :
    (s.resetPart p).part p = { Partn.reset with
      faultQ := ((s.settled p).part p).faultQ, eventQ := ((s.settled p).part p).eventQ,
      notifyQ := ((s.settled p).part p).notifyQ, waking := ((s.settled p).part p).waking,
      windows := ((s.settled p).part p).windows } := by
  unfold State.resetPart
  extract_lets s1 s2 x own
  have hx : (s.settled p).part p = x := (part_of_parts ((dropGangs_parts _ _).trans (dropStreams_parts s1 _)) p).symm
  rw [hx]
  clear_value x own s2
  exact s2.part_setPart p _

theorem State.settled_notifyQ {s : State} {p : Nat} (h : (s.part p).notifyQ = []) : ((s.settled p).part p).notifyQ = [] := by
  have hfixed : (s.settled p).fixedParts = s.fixedParts :=
    (flushL2_fixedParts _ p).trans (Eq.trans (settleAccesses_fixedParts _ p) (settleLatched_fixedParts h))
  rw [notifyQ_of_fixedParts hfixed p, h]

/-- A partition for which nothing is latched comes to Noon and applies nothing (R420). -/
theorem State.wake_of_none_latched {s : State} {p : Nat} (h : (s.part p).notifyQ = []) :
    s.wake p = s.setPart p { (s.part p) with power := .noon, waking := false, idle := 0, notifyQ := [] } := by
  unfold State.wake
  dsimp only
  rw [h]
  rfl

end Sys2Proof.Machine
end

section
/-! PLCTL (R29): what a write stores, and what a reset and a TEMP update make of it. -/

namespace Sys2Proof.Machine

/-- HOTT as a write stores it: clamped to 60..105. -/
theorem Partn.setPlctl_hott (x : Partn) (v : Nat) :
    (x.setPlctl v).hott = let f := v % 2 ^ 8; if f < 60 then 60 else if 105 < f then 105 else f := by
  have hbits : bits v 7 0 = v % 2 ^ 8 := by simp [bits]
  show max 60 (min 105 (bits v 7 0)) = _
  rw [hbits]
  extract_lets f
  split
  · omega
  · split <;> omega

/-- HYST as a write stores it: a 0 as 1. -/
theorem Partn.setPlctl_hyst (x : Partn) (v : Nat) :
    (x.setPlctl v).hyst = let f := v / 2 ^ 8 % 2 ^ 4; if f = 0 then 1 else f := by
  show max 1 (v / 2 ^ 8 % 2 ^ 4) = _
  extract_lets f
  split <;> omega

theorem bit_toNat (v : BitVec 64) (i : Nat) : bit v.toNat i = v.getLsbD i := by
  simp [bit, BitVec.getLsbD, Nat.testBit_eq_decide_div_mod_eq, beq_eq_decide]

theorem exec_firmwareWritesPlctl {s : State} (h : s.fwOwes = false) (p : Nat) (v : BitVec 64) :
    exec (.firmwareRegisterWrite (.part p .plctl) v) s = .next (s.setPart p ((s.part p).setPlctl v.toNat)) := by
  have hgo : s.fwWrite (.firmwareRegisterWrite (.part p .plctl) v) (fun s => s.writeTarget (.part p .plctl) v.toNat)
      = s.setPart p ((s.part p).setPlctl v.toNat) := by
    unfold State.fwWrite
    rw [h]
    rfl
  exact congrArg Host.Outcome.next hgo

/-- PLCTL after a partition reset with nothing latched. -/
theorem exec_partitionReset_plctl {s : State} {p : Nat} (h : (s.part p).notifyQ = []) :
    ∃ t, exec (.partitionReset p) s = .next t ∧ (t.part p).hott = 95 ∧ (t.part p).hyst = 5 ∧ (t.part p).drpen = true := by
  have hpart := s.resetPart_part p
  have hnone : ((s.resetPart p).part p).notifyQ = [] := by rw [hpart, State.settled_notifyQ h]
  have hexec : exec (.partitionReset p) s = .next ((s.resetPart p).wake p) := rfl
  refine ⟨_, hexec, ?_⟩
  rw [State.wake_of_none_latched hnone, State.part_setPart, hpart]
  exact ⟨rfl, rfl, rfl⟩

/-- A core after its TEMP update: HOT follows the PLCTL that stands then (R27). -/
theorem State.tempUpdate_core (s : State) (core : Nat) (temp : BitVec 8) :
    (s.tempUpdate core temp).core core =
      let y := s.part (s.ownerOf (sliceOf core))
      { s.core core with
        temp := temp
        hot := if y.hott ≤ temp.toNat then true else if temp.toNat + y.hyst ≤ y.hott then false else (s.core core).hot } :=
  Tab.get_set_same Core.reset s.cores core _

/-- Settles O60: with nothing latched no access that the reset settles latches anything, so the registers of reset stand when the
partition wakes; a firmware write stores what `Partn.setPlctl` gives; and a TEMP update reads the PLCTL that stands. -/
theorem plctlRegister : Obligations.PlctlRegister := by
  unfold Obligations.PlctlRegister
  intro s p core v temp x
  refine ⟨exec_partitionReset_plctl, fun howes => ?_, s.tempUpdate core temp, rfl, ?_⟩
  · refine ⟨_, exec_firmwareWritesPlctl howes p v, ?_⟩
    rw [State.part_setPart]
    exact ⟨rfl, Partn.setPlctl_hott _ _, Partn.setPlctl_hyst _ _, bit_toNat v 12⟩
  · rw [s.tempUpdate_core core temp]
    exact ⟨rfl, rfl, rfl⟩

end Sys2Proof.Machine
end

section
/-! SUPPORT. An instruction at whose effect the stream itself arrives: what each way for the effect to end makes of the state. -/

namespace Sys2Proof.Machine

/-- The stream itself, and no helper part of it, arrives at the effect `body` of `x`: nothing stands in front of it, and nothing
holds up how it ends. -/
structure Arrives (x : Instr) (s : State) (body : State → Res) : Prop where
  exec_eq : exec x s = issue x s body
  clear : s.clear x = true
  plain : s.plain
  sel : s.w.sel = none

/-- What helper code may not use, no helper part executes (R151). -/
theorem State.sel_none_of_clear {x : Instr} {s : State} (hc : s.clear x = true) (hx : helperOp x = false) : s.w.sel = none := by
  obtain ⟨-, hadmits, -⟩ := (State.clear_iff s x).1 hc
  cases hs : s.w.sel with
  | none => rfl
  | some k => simp [Wave.admits, hs, hx] at hadmits

theorem Arrives.of_clear {x : Instr} {s : State} {body : State → Res} (he : exec x s = issue x s body) (hc : s.clear x = true)
    (hp : s.plain) (hx : helperOp x = false) : Arrives x s body :=
  ⟨he, hc, hp, State.sel_none_of_clear hc hx⟩

/-- Only a helper part remembers accesses. -/
theorem State.owing_stream {s : State} (h : s.w.sel = none) (t : State) : s.owing t = t := by
  simp [State.owing, h]

/-- A stream that waits where it stands has its wait changed, and nothing else. -/
theorem holdAt_stream {s : State} (h : s.w.sel = none) (k : Wait) : holdAt s k = s.setW { s.w with wait := k } := by
  simp [holdAt, Wave.cur_none s.w h, h]

theorem retire_cxm (x : Instr) (u : State) (pc : Word) : (retire x u pc).w.cxm = u.w.cxm :=
  retire_acc Wave.cxm (fun w pc => by rw [Wave.setPc_eq]) (fun w y => by rw [Wave.setWins_eq])
    (fun w => by rw [Wave.endWait_eq]) x u pc

theorem retire_xsave (x : Instr) (u : State) (pc : Word) : (retire x u pc).w.xsave = u.w.xsave :=
  retire_acc Wave.xsave (fun w pc => by rw [Wave.setPc_eq]) (fun w y => by rw [Wave.setWins_eq])
    (fun w => by rw [Wave.endWait_eq]) x u pc

/-- Retiring leaves every register. -/
theorem retire_sameRegs (x : Instr) (u : State) (pc : Word) : sameRegs u (retire x u pc) := by
  have hv (n : Nat) : (retire x u pc).w.rdV n = u.w.rdV n := retire_acc (fun w => w.rdV n) (by simp) (by simp) (by simp) x u pc
  have hexec : (retire x u pc).w.execM = u.w.execM := retire_acc Wave.execM (by simp) (by simp) (by simp) x u pc
  have hseed (l : Nat) : (retire x u pc).w.seedOf l = u.w.seedOf l :=
    retire_acc (fun w => w.seedOf l) (by simp) (by simp) (by simp) x u pc
  exact ⟨fun n l => by rw [hv], retire_rdS x u pc, hexec, retire_cxm x u pc, fun l _ => hseed l, retire_xsave x u pc⟩

theorem sameStream.trans {a b c : Wave} (h : sameStream a b) (g : sameStream b c) : sameStream a c := by
  unfold sameStream sameUnits at *
  simp_all

/-- Retiring after an effect that left the stream in its place. -/
theorem retire_advanced_of_keeps {x : Instr} {s u : State} (h : Keeps s.w u.w) (hs : s.w.sel = none) :
    advanced x s (retire x u (u.w.pcNow + 12)) := by
  obtain ⟨hpc, hprev, hwins⟩ := retire_advanced x u
  obtain ⟨-, -, -, -, -, -, -, -, -, -, -, -, -, -, -, -, -, -, -, hsel, -⟩ := h.str
  exact ⟨hpc.trans (by rw [h.pc]), hprev.trans h.pc, hwins.trans (windowsAfter_keeps h x),
    fun _ => retire_wait _ _ _ (hsel.trans hs)⟩

namespace Arrives

section
variable {x : Instr} {s : State} {body : State → Res} (h : Arrives x s body)
include h

theorem exec_next : exec x s = .next (conclude x s (body s)) := h.exec_eq.trans (issue_clear h.clear)

theorem exec_done {u : State} (hb : body s = .done u) (hu : u.w.lentTo = none) :
    exec x s = .next (retire x u (u.w.pcNow + 12)) := by
  rw [h.exec_next, hb, conclude_done h.plain.1, State.reclaim_none hu, State.owing_stream h.sel]

theorem exec_hold {u : State} {k : Wait} (hb : body s = .hold u k) (hu : u.w.sel = none) :
    exec x s = .next (u.setW { u.w with wait := k }) := by
  rw [h.exec_next, hb, conclude_hold h.plain.1, State.owing_stream h.sel, holdAt_stream hu]

/-- An instruction without an effect goes on. -/
theorem movesTo_next (hb : body s = .done s) : movesTo x s (s.w.pcNow + 12) := by
  obtain ⟨hpc, hprev, hwins⟩ := retire_advanced x s
  obtain ⟨hv, hS, hspec⟩ := retire_sameRegs x s (s.w.pcNow + 12)
  exact ⟨_, h.exec_done hb h.plain.1, rfl, retire_stream _ _ _, hpc, hprev, hwins, retire_wait _ _ _, hv, hS, hspec⟩

/-- An instruction whose effect writes a scalar register. -/
theorem givesScalar_of_wrS {d : Nat} {v : RWord} (hb : body s = .done (s.setW (s.w.wrS d v))) : givesScalar x s d v := by
  have hkeeps := keeps_wrS s.w d v
  have hlent : (s.w.wrS d v).lentTo = none := by rw [Wave.wrS_eq]; exact h.plain.1
  obtain ⟨hv, hS, he, hc, hseed, hx⟩ := retire_sameRegs x (s.setW (s.w.wrS d v)) ((s.w.wrS d v).pcNow + 12)
  refine ⟨_, h.exec_done hb hlent, retire_advanced_of_keeps hkeeps h.sel, rfl, ?_, fun m => ?_, fun n l => ?_, ?_⟩
  · exact hkeeps.str.trans (retire_stream _ _ _)
  · exact (hS m).trans (Wave.rdS_wrS _ _ _ _)
  · exact (hv n l).trans (by simp)
  · exact ⟨he.trans (by simp), hc.trans (wrS_cxm _ _ _), fun l hl => (hseed l hl).trans (by simp), hx.trans (wrS_xsave _ _ _)⟩

theorem trapsWith_of_trap {i : TrapInfo} (hb : body s = .trap s i) : trapsWith x s i := by
  intro howed
  rw [h.exec_next, hb, conclude_trap x s s i h.plain.2 howed h.plain.1, State.reclaim_none h.plain.1, State.owing_stream h.sel]

theorem waitsFor_of_hold {k : Wait} (hb : body s = .hold s k) : waitsFor x s k := by
  rw [waitsFor, h.exec_hold hb h.sel, holdAt_stream h.sel]

end

end Arrives

end Sys2Proof.Machine
end

section
/-! The register pool (R98 to R102): REGREL, REGCLM and REGQRY. -/

namespace Sys2Proof.Machine

/-- Nothing is listed at and above the bound, and below it nothing is lost. -/
theorem Tab.get_below {α : Type} (d : α) (t : Tab α) (n m : Nat) :
    Tab.get d (Tab.below t n) m = if m < n then Tab.get d t m else d := by
  induction t with
  | nil => simp [Tab.below, Tab.get]
  | cons e t ih =>
    rw [Tab.below] at ih ⊢
    by_cases he : e.1 < n
    · simp only [List.filter_cons, he, decide_true, if_true, Tab.get, ih]
      by_cases hm : e.1 = m
      · rw [if_pos hm, if_pos hm, if_pos (hm ▸ he)]
      · rw [if_neg hm, if_neg hm]
    · simp only [List.filter_cons, he, decide_false, Bool.false_eq_true, if_false, Tab.get, ih]
      by_cases hm : e.1 = m
      · rw [if_neg (hm ▸ he), if_neg (hm ▸ he)]
      · rw [if_neg hm]

@[simp] theorem VReg.lane_start (l : Nat) : VReg.lane VReg.start l = RWord.none := by
  rw [VReg.lane, VReg.start, VReg.splat, List.getD_eq_getElem?_getD, List.getElem?_map]
  cases laneList[l]? <;> rfl

/-- A count that R98 refuses. -/
def BadCount (k : Nat) : Prop := k = 0 ∨ k % 4 ≠ 0 ∨ 256 < k

theorem countBad_iff (k : Nat) : countBad k = true ↔ BadCount k := by
  simp [countBad, BadCount, or_assoc]

theorem countBad_false_iff (k : Nat) : countBad k = false ↔ ¬ BadCount k := by
  rw [← countBad_iff, Bool.not_eq_true]

theorem State.countOf_valid {s : State} {a : BitVec 8} (h : (s.w.rdS a.toNat).valid = true) :
    s.countOf a = some (s.w.rdS a.toNat).data.toNat := by
  simp [State.countOf, h]

theorem State.countOf_invalid {s : State} {a : BitVec 8} (h : (s.w.rdS a.toNat).valid = false) : s.countOf a = none := by
  simp [State.countOf, h]

/-! REGREL (R99). -/

/-- The stream with `k` vector registers left. -/
def Wave.release (w : Wave) (k : Nat) : Wave := { w with c := k, v := Tab.below w.v k }

theorem regrelTo_trap {s : State} {k : Nat} (h : BadCount k ∨ s.w.c < k) : regrelTo k s = .trap s (poolArg k) := by
  have hguard : (countBad k || decide (s.w.c < k)) = true := by simpa [countBad_iff] using h
  simp [regrelTo, hguard]

theorem regrelTo_done {s : State} {k : Nat} (hk : ¬ BadCount k) (hc : k ≤ s.w.c) :
    regrelTo k s = .done ((s.setW (s.w.release k)).addFreed s.w.core (s.w.c - k)) := by
  simp [regrelTo, (countBad_false_iff k).2 hk, hc, Wave.release]

/-- The registers at and above the new count are gone. -/
theorem Wave.lane_release {w : Wave} (h : w.sel = none) (k m l : Nat) :
    VReg.lane ((w.release k).rdV m) l = if m < k then VReg.lane (w.rdV m) l else RWord.none := by
  have hread (u : Wave) (hu : u.sel = none) : u.rdV m = Tab.get VReg.start u.v m := by rw [Wave.rdV, u.cur_none hu]
  rw [hread (w.release k) h, hread w h, Wave.release, Tab.get_below]
  split
  · rfl
  · exact VReg.lane_start l

/-- What is freed is counted in the core's `hold` until the next grant pass (R101). -/
theorem State.addFreed_hold (s : State) (core n : Nat) : ((s.addFreed core n).core core).hold = (s.core core).hold + n :=
  congrArg Core.hold (Tab.get_set_same Core.reset s.cores core _)

/-- REGREL of a count that R98 admits: the count falls, the registers at and above it are gone, and they are free from the next
cycle on. -/
theorem Arrives.releases {x : Instr} {s : State} {body : State → Res} {k : Nat} (h : Arrives x s body)
    (hb : body s = regrelTo k s) (hk : ¬ BadCount k) (hc : k ≤ s.w.c) :
    ∃ t, exec x s = .next t ∧ advanced x s t ∧ t.w.c = k ∧ sameS s.w t.w ∧ sameSpecials s.w t.w ∧ t.w.q = s.w.q
      ∧ t.w.jobs = s.w.jobs ∧ t.mem = s.mem ∧ (t.core s.w.core).hold = (s.core s.w.core).hold + (s.w.c - k)
      ∧ ∀ m l, l < 32 → VReg.lane (t.w.rdV m) l = if m < k then VReg.lane (s.w.rdV m) l else RWord.none := by
  let u := (s.setW (s.w.release k)).addFreed s.w.core (s.w.c - k)
  have hnext : exec x s = .next (retire x u (s.w.pcNow + 12)) := h.exec_done (hb.trans (regrelTo_done hk hc)) h.plain.1
  obtain ⟨hpc, hprev, hwins⟩ := retire_advanced x u
  obtain ⟨hv, hS, hspec⟩ := retire_sameRegs x u (s.w.pcNow + 12)
  obtain ⟨⟨hq, hcount, -, hjobs, -⟩, -⟩ := retire_stream x u (s.w.pcNow + 12)
  exact ⟨_, hnext, ⟨hpc, hprev, hwins, fun _ => retire_wait _ _ _ h.sel⟩, hcount, hS, hspec, hq, hjobs, rfl,
    (s.setW (s.w.release k)).addFreed_hold s.w.core (s.w.c - k), fun m l _ => (hv m l).trans (Wave.lane_release h.sel k m l)⟩

/-! REGCLM (R100). -/

/-- Whether the stream has a claim on its core, withdrawn for a REGDEAD or not (R100, R103). -/
def State.hasClaim (s : State) : Bool := ((s.core s.w.core).claims ++ (s.core s.w.core).dead).any (fun e => e.wave == s.w.id)

/-- The claim that the REGCLM `x` of `k` registers enters. -/
def State.claimOf (s : State) (x : Instr) (k : Nat) : Claim :=
  ⟨s.w.id, s.w.slot, k, k - s.w.c, Tab.get 0 s.clock (sliceOf s.w.core), wordOf x⟩

/-- The claim entered on the core of the stream. -/
def State.enterClaim (s : State) (e : Claim) : State :=
  s.setCore s.w.core { (s.core s.w.core) with claims := (s.core s.w.core).claims ++ [e] }

theorem State.enterClaim_claims (s : State) (e : Claim) :
    ((s.enterClaim e).core s.w.core).claims = (s.core s.w.core).claims ++ [e] :=
  congrArg Core.claims (Tab.get_set_same Core.reset s.cores s.w.core _)

section
variable (x : Instr) {s : State} {k : Nat}

theorem regclmTo_trap (hk : BadCount k) : regclmTo x k s = .trap s (poolArg k) := by
  simp [regclmTo, (countBad_iff k).2 hk]

theorem regclmTo_done (hk : ¬ BadCount k) (hc : k ≤ s.w.c) : regclmTo x k s = .done s := by
  simp [regclmTo, (countBad_false_iff k).2 hk, hc]

theorem regclmTo_claims (hk : ¬ BadCount k) (hc : s.w.c < k) :
    regclmTo x k s = if s.hasClaim then .hold s (.regclm k) else .hold (s.enterClaim (s.claimOf x k)) (.regclm k) := by
  simp only [regclmTo, (countBad_false_iff k).2 hk, Bool.false_eq_true, if_false, Nat.not_le.2 hc]
  rfl

end

/-- REGCLM of more than the count, with no claim entered: it enters one, and the stream waits where it stands. -/
theorem Arrives.entersClaim {x : Instr} {s : State} {body : State → Res} {k : Nat} (h : Arrives x s body)
    (hb : body s = regclmTo x k s) (hk : ¬ BadCount k) (hc : s.w.c < k) (hclaim : s.hasClaim = false) :
    ∃ t e, exec x s = .next t ∧ sameRegs s t ∧ t.w.pcNow = s.w.pcNow ∧ t.w.wait = .regclm k ∧ t.w.c = s.w.c
      ∧ (t.core s.w.core).claims = (s.core s.w.core).claims ++ [e] ∧ e.wave = s.w.id ∧ e.slot = s.w.slot ∧ e.n = k
      ∧ e.need = k - s.w.c := by
  have hhold : body s = .hold (s.enterClaim (s.claimOf x k)) (.regclm k) := by simp [hb, regclmTo_claims x hk hc, hclaim]
  exact ⟨_, s.claimOf x k, h.exec_hold hhold h.sel, ⟨fun _ _ => rfl, fun _ => rfl, rfl, rfl, fun _ _ => rfl, rfl⟩, rfl, rfl, rfl,
    s.enterClaim_claims _, rfl, rfl, rfl, rfl⟩

/-! The statement. -/

/-- Settles O39: by the count, REGREL traps or releases, and REGCLM traps, goes on, waits for a claim already entered or enters
one; a count register that is invalid leaves either without an effect. -/
theorem poolInstructions : Obligations.PoolInstructions := by
  unfold Obligations.PoolInstructions
  intro h n a d what s hp c core y bad arg release claim
  have hrelease {x : Instr} {body : State → Res} {k : Nat} (hx : Arrives x s body) (hb : body s = regrelTo k s) : release x k :=
    ⟨fun hk => hx.trapsWith_of_trap (hb.trans (regrelTo_trap hk)), hx.releases hb⟩
  have hclaim {x : Instr} {body : State → Res} {k : Nat} (hx : Arrives x s body) (hb : body s = regclmTo x k s) : claim x k := by
    refine ⟨fun hk => hx.trapsWith_of_trap (hb.trans (regclmTo_trap x hk)),
      fun hk hc => hx.movesTo_next (hb.trans (regclmTo_done x hk hc)), fun hk hc => ⟨fun hany => ?_, hx.entersClaim hb hk hc⟩⟩
    exact hx.waitsFor_of_hold (hb.trans ((regclmTo_claims x hk hc).trans (if_pos hany)))
  refine ⟨fun hc => ?_, fun hc => ?_, fun hc => ?_, fun hc => ?_, fun hc => ?_⟩
  · exact hrelease (.of_clear (body := regrelTo n.toNat) rfl hc hp rfl) rfl
  · have hx : Arrives (.regrelS h a) s (regrelSBody a) := .of_clear rfl hc hp rfl
    exact ⟨fun hy => hx.movesTo_next (by rw [regrelSBody, State.countOf_invalid hy]),
      fun hy => hrelease hx (by rw [regrelSBody, State.countOf_valid hy])⟩
  · exact hclaim (.of_clear (body := regclmTo (.regclm h n) n.toNat) rfl hc hp rfl) rfl
  · have hx : Arrives (.regclmS h a) s (regclmSBody (.regclmS h a) a) := .of_clear rfl hc hp rfl
    exact ⟨fun hy => hx.movesTo_next (by rw [regclmSBody, State.countOf_invalid hy]),
      fun hy => hclaim hx (by rw [regclmSBody, State.countOf_valid hy])⟩
  · have hx : Arrives (.regqry h d what) s (regqryBody d what) := .of_clear rfl hc hp rfl
    exact hx.givesScalar_of_wrS (by cases what <;> rfl)

end Sys2Proof.Machine
end

section
/-! SUPPORT. What taking a trap and returning from one leave of the stream (R394 to R404): the mode, the PC, the frame and the stop. -/

namespace Sys2Proof.Machine

/-! Results that land. -/

/-- A fold keeps what each of its steps keeps. -/
theorem foldl_acc {α β γ : Type} (f : β → γ) {g : β → α → β} (hg : ∀ b a, f (g b a) = f b) (l : List α) (b : β) :
    f (l.foldl g b) = f b :=
  (List.foldl_hom f (g₂ := fun c _ => c) fun b a => (hg b a).symm).symm.trans (List.foldl_fixed l)

/-- What the writes of registers leave, the landing of a result leaves. -/
theorem landEntry_acc {γ : Type} (f : Wave → γ) (hv : ∀ w n k x, f (Wave.wrV w n k x) = f w)
    (hs : ∀ w n x, f (Wave.wrS w n x) = f w) (w : Wave) (e : Entry) : f (landEntry w e) = f w := by
  refine foldl_acc f (fun w p => ?_) _ w
  split
  · exact hv _ _ _ _
  · split
    · exact hs _ _ _
    · rfl

/-! The word XCAUSE (R395). -/

theorem Cause.code_lt (c : Cause) : c.code < 256 := by cases c <;> decide

theorem causeWord_cause (i : TrapInfo) : (causeWord i).extractLsb' 0 8 = BitVec.ofNat 8 i.cause.code := by
  apply BitVec.eq_of_toNat_eq
  simp only [causeWord, BitVec.extractLsb'_toNat, BitVec.toNat_ofNat, Nat.shiftRight_zero]
  omega

theorem causeWord_sub (i : TrapInfo) : (causeWord i).extractLsb' 8 8 = BitVec.ofNat 8 i.sub := by
  have hcode := i.cause.code_lt
  apply BitVec.eq_of_toNat_eq
  simp only [causeWord, BitVec.extractLsb'_toNat, BitVec.toNat_ofNat, Nat.shiftRight_eq_div_pow]
  omega

/-! A trap that is taken. -/

section
variable {s : State} (w : Wave) (pc : Word) (word : BitVec 96) (i : TrapInfo)

/-- Taking a trap posts records at most, and numbers no access. -/
theorem State.takeTrap_nextId : (s.takeTrap w pc word i).1.nextId = s.nextId := by
  unfold State.takeTrap
  split
  · rfl
  · dsimp only
    split <;> exact s.physNote_nextId _ _ _ _

theorem State.trapNow_nextId : (s.trapNow word i).nextId = s.nextId := by
  unfold State.trapNow
  split
  · rfl
  · exact s.takeTrap_nextId _ _ _ _

/-- With no part selected a trap is the stream's own. -/
theorem State.trapNow_stream (h : s.w.sel = none) : (s.trapNow word i).w = (s.takeTrap s.w s.w.pc word i).2 := by
  simp [State.trapNow, Wave.cur_none s.w h]

/-- In handler mode a trap stops the stream, and the outer frame stays (R399). -/
theorem State.takeTrap_nested {w : Wave} (h : w.handler = true) :
    (s.takeTrap w pc word i).2 =
      { w with xcause := nestWord w.xcause i, stopped := true, wait := .none, ahead := none, rays := [] } := by
  simp [State.takeTrap, h]

/-- The records that the read of the vector posts change no vector. -/
@[simp] theorem State.physNote_vector (p ctx pa n k : Nat) : (s.physNote p ctx pa n).vector k = s.vector k :=
  State.physNote_acc (State.vector · k) (fun _ _ _ _ _ _ _ => rfl) s p ctx pa n

/-- With the vector entry enabled the handler starts at 0, with the frame written (R396, R397). -/
theorem State.takeTrap_vectored {w : Wave} (h : w.handler = false) (hv : (s.vector w.place.ctx).1 = true) :
    (s.takeTrap w pc word i).2 = { trapFrame w pc word i with handler := true, pc := 0, prev := pc } := by
  simp [State.takeTrap, h, hv]

/-- The frame of a trap outside handler mode has its PC and cause, whether a handler takes it or not (R396, R397). -/
theorem State.takeTrap_frame {w : Wave} (h : w.handler = false) :
    (s.takeTrap w pc word i).2.xpc = pc ∧ (s.takeTrap w pc word i).2.xcause = causeWord i := by
  simp only [State.takeTrap, h, Bool.false_eq_true, if_false]
  split <;> exact ⟨rfl, rfl⟩

end

section
variable (x : Instr) {s : State} (i : TrapInfo)

theorem trapAt_nextId : (trapAt x s i).nextId = s.nextId := by
  unfold trapAt
  dsimp only
  split <;> exact s.trapNow_nextId _ _

theorem trapAt_stream (h : s.w.sel = none) : trapAt x s i = s.trapNow (wordOf x) i := by
  simp [trapAt, Wave.cur_none s.w h]

end

/-- An instruction that its stream does not admit takes the trap ILLEGAL (R64). -/
theorem trapsWith_illegal {x : Instr} {s : State} {body : State → Res} (he : exec x s = issue x s body) (hp : s.plain)
    (hr : s.w.runs = true) (ha : s.w.admits x = false) : trapsWith x s { cause := .illegal } := by
  obtain ⟨hlent, hwaits⟩ := hp
  intro howed
  rw [he, issue, gate_illegal hr ha]
  dsimp only
  rw [conclude_trap x s s _ hwaits howed hlent, State.reclaim_none hlent, State.owing_same (trapAt_nextId x _)]

/-- A helper part admits no instruction that helper code may not use (R151). -/
theorem Wave.not_admits_of_part {w : Wave} {x : Instr} (h : w.sel ≠ none) (hx : helperOp x = false) : w.admits x = false := by
  simp [Wave.admits, Option.isSome_iff_ne_none.2 h, hx]

/-! The return from a trap (R404). -/

section
variable (w : Wave) (pc : Word)

@[simp] theorem trapReturn_pc : (trapReturn w pc).pc = pc := rfl

@[simp] theorem trapReturn_handler : (trapReturn w pc).handler = false :=
  foldl_acc Wave.handler (landEntry_acc Wave.handler (fun w n k x => by rw [Wave.wrV_eq]) (fun w n x => by rw [Wave.wrS_eq])) _
    { w with handler := false }

@[simp] theorem trapReturn_lentTo : (trapReturn w pc).lentTo = w.lentTo :=
  foldl_acc Wave.lentTo (landEntry_acc Wave.lentTo (fun w n k x => by rw [Wave.wrV_eq]) (fun w n x => by rw [Wave.wrS_eq])) _
    { w with handler := false }

end

/-- A return from a trap at which nothing holds the stream up. -/
theorem Arrives.exec_tret {x : Instr} {s : State} {body : State → Res} {pc : Word} (h : Arrives x s body)
    (hb : body s = tretTo pc s) :
    exec x s = .next (s.setW { (trapReturn s.w pc) with windows := tickWindows s.w.windows }) := by
  have hlent : (s.setW { (trapReturn s.w pc) with windows := tickWindows s.w.windows }).w.lentTo = none :=
    (trapReturn_lentTo s.w pc).trans h.plain.1
  rw [h.exec_next, hb, tretTo, conclude_gone h.plain.1, State.reclaim_none hlent, State.owing_stream h.sel]

end Sys2Proof.Machine
end

section
/-! TRAP and the return that skips it (R405). -/

namespace Sys2Proof.Machine

/-- What TRAP reports: its code is SUB. -/
def swtrap (code : BitVec 8) : TrapInfo := { cause := .swtrap, sub := code.toNat }

/-- TRAP names no register. -/
theorem vNamed_trap {h : Hdr} {code : BitVec 8} (hl : legal (.trap h code) = true) : vNamed (.trap h code) = [] := by
  have hguard : h.guard.en = false := by
    cases hen : h.guard.en
    · rfl
    · simp [legal, zeroHdr, plainOk, hdrOk, hen] at hl
  simp [vNamed, touches, reads, hdrOf, hguard, bodyReads, srcOps, writes]

/-- A stream in either mode, a belay stream too, admits TRAP (R215). -/
theorem Wave.admits_trap {w : Wave} {h : Hdr} {code : BitVec 8} (hl : legal (.trap h code) = true) (hs : w.sel = none) :
    w.admits (.trap h code) = true := by
  have hspecials : specials (.trap h code) = [] := rfl
  cases w.belay <;>
    simp [Wave.admits, hl, hs, vNamed_trap hl, hspecials, hdrOf, handlerOnly, helperOnly, belayOp, matrixOp]

/-- Settles O46: TRAP takes its trap like any other instruction of the stream, so its outcome is that of `State.takeTrap` by mode
and vector; a helper part admits it never and the stream itself always; and TRET skip ends as `trapReturn` at XPC + 12. -/
theorem softwareTrap : Obligations.SoftwareTrap := by
  unfold Obligations.SoftwareTrap
  intro h code s hp
  refine ⟨fun hc howed => ?_, fun hl hs => Wave.admits_trap hl hs, fun hr hs => ?_, fun hc => ?_⟩
  · have hx : Arrives (.trap h code) s (trapBody code) := .of_clear rfl hc hp rfl
    have hw : (trapAt (.trap h code) s (swtrap code)).w = (s.takeTrap s.w s.w.pc (wordOf (.trap h code)) (swtrap code)).2 := by
      rw [trapAt_stream _ _ hx.sel, State.trapNow_stream _ _ hx.sel]
    refine ⟨_, hx.trapsWith_of_trap (i := swtrap code) rfl howed, ?_⟩
    rw [hw]
    refine ⟨fun hm => ?_, fun hm => ?_⟩
    · rw [State.takeTrap_nested _ _ _ hm]
      exact ⟨rfl, hm, rfl⟩
    · obtain ⟨hxpc, hcause⟩ := s.takeTrap_frame s.w.pc (wordOf (.trap h code)) (swtrap code) hm
      refine ⟨hxpc, ?_, ?_, fun hv => ?_⟩
      · rw [hcause, causeWord_cause]
        rfl
      · rw [hcause, causeWord_sub, swtrap, BitVec.ofNat_toNat, BitVec.setWidth_eq]
      · rw [State.takeTrap_vectored _ _ _ hm hv]
        exact ⟨rfl, rfl⟩
  · exact trapsWith_illegal rfl hp hr (Wave.not_admits_of_part hs rfl)
  · have hx : Arrives (.tretSkip h) s tretSkipBody := .of_clear rfl hc hp rfl
    exact ⟨_, hx.exec_tret rfl, trapReturn_handler s.w (s.w.xpc + 12), rfl⟩

end Sys2Proof.Machine
end
